-- ==== Sys2Proof/Word.lean ====
section
/-!
DEFINITION. The word types the manual treats as bits: bytes, 16, 32 and 64 bit words (R10: bits are
numbered from 0 at the least significant bit).
-/
namespace Sys2Proof

abbrev Byte := BitVec 8
abbrev W16 := BitVec 16
abbrev W32 := BitVec 32
abbrev W64 := BitVec 64

/-- Bits `hi` down to `lo` of a 64 bit word, as a number. -/
def W64.bits (w : W64) (hi lo : Nat) : Nat := (w.toNat >>> lo) % 2 ^ (hi + 1 - lo)

/-- Bits `hi` down to `lo` of a number. -/
def natBits (w hi lo : Nat) : Nat := (w >>> lo) % 2 ^ (hi + 1 - lo)

end Sys2Proof
end

