-- ==== Sys2Proof/Syntax.lean ====
section
/-!
DEFINITION. The commands of Uzoto: ONE constructor per row of spec/opcode_table.json, in the table's
order, with the row's operands. Stations, rings, cores and the like are numbers; their ranges (R13) are
the checks of WellFormed. Multi-byte structures posted from outside (events, semaphore operations, port
commands, lodging messages) are their 64 bit words as R24, R311, R212 and R285 lay them out.
-/
namespace Sys2Proof

/-- A lodging message: the four 64 bit words of its 32 B header (R285) and its payload. -/
structure LMsg where
  h : W64
  a0 : W64
  a1 : W64
  a2 : W64
  payload : List Byte
  deriving DecidableEq, Repr

inductive Instr where
  /-- EVENT_POST: a core posts the 16 B event `w0`, `w1` (bytes 0–7 and 8–15, R24). -/
  | eventPost (core : Nat) (w0 w1 : W64)
  /-- EVENT_FORWARD: station `st` takes the next event that is not its own. -/
  | eventForward (st : Nat)
  /-- FWD_DONE: station `st` takes its next event, a FWD_DONE. -/
  | fwdDone (st : Nat)
  /-- BWD_TICK: station `st` takes its next event, a BWD_TICK. -/
  | bwdTick (st : Nat)
  /-- STEP_END: station `st` takes its next event, a STEP_END. -/
  | stepEnd (st : Nat)
  /-- MB_CANCEL: station `st` takes its next event, an MB_CANCEL. -/
  | mbCancel (st : Nat)
  /-- EXTRA_LEAD_DECREASE: the late-tier rule of context, home station and tier. -/
  | extraLeadDecrease (c st tier : Nat)
  /-- STEP_BOUNDARY: the boundary actions of context `c`. -/
  | stepBoundary (c : Nat)
  /-- ABORTING_END: the end of ABORTING of context `c`. -/
  | abortingEnd (c : Nat)
  /-- ENGINE_DISPATCH: the next waiting task of station `st` takes an engine. -/
  | engineDispatch (st : Nat)
  /-- LAND: engine `eng` of station `st` executes its LAND. -/
  | land (st eng : Nat)
  /-- SETA: as LAND, for SETA. -/
  | seta (st eng : Nat)
  /-- LOOP: as LAND, for LOOP. -/
  | loop (st eng : Nat)
  /-- BATCH: as LAND, for BATCH. -/
  | batch (st eng : Nat)
  /-- ENDL: as LAND, for ENDL. -/
  | endl (st eng : Nat)
  /-- SKIPLEN: as LAND, for SKIPLEN. -/
  | skiplen (st eng : Nat)
  /-- EMIT: as LAND, for EMIT. -/
  | emit (st eng : Nat)
  /-- WAIT_SEMAPHORE: as LAND, for WAIT with KIND 0. -/
  | waitSemaphore (st eng : Nat)
  /-- WAIT_DRAIN: as LAND, for WAIT with KIND 1. -/
  | waitDrain (st eng : Nat)
  /-- END: as LAND, for END. -/
  | fin (st eng : Nat)
  /-- ROOM_TAKE: task `task` of station `st` takes an Inn room. -/
  | roomTake (st task : Nat)
  /-- CELLAR_CHUNK_TAKE: task `task` of station `st` takes a chunk. -/
  | cellarChunkTake (st task : Nat)
  /-- DEMOTE_CHUNK: demotion of context `c` chooses a chunk. -/
  | demoteChunk (c : Nat)
  /-- LANE_BLOCK_DONE: encode lane `lane` of station `st` finishes its block. -/
  | laneBlockDone (st lane : Nat)
  /-- TRANSFER_ISSUE: station `st` issues the next access of share 0 read, 1 write, 2 remote, 3 none (links and CXL). -/
  | transferIssue (st share : Nat)
  /-- HBM_WRITE_RESPONSE: the response of outstanding write `acc`. -/
  | hbmWriteResponse (st acc : Nat) (err : Bool)
  /-- HBM_READ_RETURN: the data of outstanding read `acc`; `err` when uncorrectable or poisoned. -/
  | hbmReadReturn (st acc : Nat) (err : Bool)
  /-- DEFERRED_FETCH_ISSUE: a fetch that waited behind its record's previous fetch is issued. -/
  | deferredFetchIssue (st task : Nat)
  /-- DELIVERY_BLOCK_WRITE: the delivery port of station `st` writes a block; `innErr` is 0, or 1 or 2 when the Inn word read has a single or a double bit error (R395). -/
  | deliveryBlockWrite (st innErr : Nat)
  /-- CELL_WRITE_PATH_ISSUE: station `st` issues the next item of its cell-write path; `full` when that is a ticket and its core's task queue is full. -/
  | cellWritePathIssue (st : Nat) (full : Bool)
  /-- TICKET_RETRY: the held ticket of `core` is retried; `full` when its task queue is still full. -/
  | ticketRetry (st core : Nat) (full : Bool)
  /-- CELL_WRITE_LAND: the oldest cell write of station `st` in flight to `core` lands. -/
  | cellWriteLand (st core : Nat)
  /-- CELL_WAIT: a core's wait on a cell. -/
  | cellWait (core cell : Nat)
  /-- SIGNAL: a core's SIGNAL operation, bytes 0–7 and 8–15 (R311). -/
  | signal (core : Nat) (w0 w1 : W64)
  /-- ARRIVE: a core's ARRIVE operation. -/
  | arrive (core : Nat) (w0 w1 : W64)
  /-- TAKE: a core's TAKE operation. -/
  | take (core : Nat) (w0 w1 : W64)
  /-- STALL_THRESHOLD: the stall count of a stage and cause is compared with its threshold. -/
  | stallThreshold (c stage cause : Nat)
  /-- PORT_COMMAND_WRITE: a 32 B port command (R212); port 0 is A, 1 is B. -/
  | portCommandWrite (core port : Nat) (w0 w1 w2 w3 : W64)
  /-- FRAME_COMMAND: the expander accepts a FRAME command at `cclk`. -/
  | frameCommand (core port cclk : Nat)
  /-- BYPASS_COMMAND: the expander accepts a BYPASS command at `cclk`. -/
  | bypassCommand (core port cclk : Nat)
  /-- FRAME_OPEN: the expander reads SIGN of its next frame at `cclk`. -/
  | frameOpen (core port cclk : Nat)
  /-- OPERAND_REQUEST: the matrix engine asks for a word at `cclk`. -/
  | operandRequest (core port cclk : Nat)
  /-- PORT_RESET: a write to a port reset address of `core`. -/
  | portReset (core : Nat)
  /-- NOP: the next descriptor of `ring`, a NOP, starts. -/
  | nop (ring : Nat)
  /-- PLAN_INSTALL: the next descriptor of `ring`, a PLAN_INSTALL, starts. -/
  | planInstall (ring : Nat)
  /-- INSTALL_VERIFIED: the loader ends the verification of the image it has taken. -/
  | installVerified
  /-- PLAN_ARM: the next descriptor of `ring`, of this kind, starts. -/
  | planArm (ring : Nat)
  /-- PLAN_WITHDRAW: the next descriptor of `ring`, of this kind, starts. -/
  | planWithdraw (ring : Nat)
  /-- CFG_SWAP: the next descriptor of `ring`, of this kind, starts. -/
  | cfgSwap (ring : Nat)
  /-- STEP_ABORT: the next descriptor of `ring`, of this kind, starts. -/
  | stepAbort (ring : Nat)
  /-- COPY: the next descriptor of `ring`, of this kind, starts. -/
  | copy (ring : Nat)
  /-- FILL: the next descriptor of `ring`, of this kind, starts. -/
  | fill (ring : Nat)
  /-- COMPARE: the next descriptor of `ring`, of this kind, starts. -/
  | compare (ring : Nat)
  /-- COMPARE_CONST: the next descriptor of `ring`, of this kind, starts. -/
  | compareConst (ring : Nat)
  /-- CHAN_ABORT: the next descriptor of `ring`, of this kind, starts. -/
  | chanAbort (ring : Nat)
  /-- SEM_ADJ: the next descriptor of `ring`, of this kind, starts. -/
  | semAdj (ring : Nat)
  /-- SEM_WAKE_SEMAPHORE: the next descriptor of `ring`, of this kind, starts. -/
  | semWakeSemaphore (ring : Nat)
  /-- SEM_WAKE_CELL: the next descriptor of `ring`, of this kind, starts. -/
  | semWakeCell (ring : Nat)
  /-- CTX_SAVE: the next descriptor of `ring`, of this kind, starts. -/
  | ctxSave (ring : Nat)
  /-- CTX_RESTORE: the next descriptor of `ring`, of this kind, starts. -/
  | ctxRestore (ring : Nat)
  /-- REPLAY: the next descriptor of `ring`, of this kind, starts. -/
  | replay (ring : Nat)
  /-- RPL_RELEASE: the next descriptor of `ring`, of this kind, starts. -/
  | rplRelease (ring : Nat)
  /-- CKPT_CAPTURE_BOUNDARY: the next descriptor of `ring`, of this kind, starts. -/
  | ckptCaptureBoundary (ring : Nat)
  /-- CKPT_CAPTURE_SNAPSHOT: the next descriptor of `ring`, of this kind, starts. -/
  | ckptCaptureSnapshot (ring : Nat)
  /-- INLINE: the next descriptor of `ring`, of this kind, starts. -/
  | inline (ring : Nat)
  /-- DESCRIPTOR_READ: Uzoto reads the next posted descriptor. -/
  | descriptorRead
  /-- DESCRIPTOR_READ_RETURN: the line of position `pos` of `ring` returns. -/
  | descriptorReadReturn (ring pos : Nat) (err : Bool)
  /-- DESCRIPTOR_REREAD: 64 aclk after a SEQ mismatch the line is read again. -/
  | descriptorReread (ring pos : Nat)
  /-- COMPLETION_ENTRY_ISSUE: the collector takes the next completion event. -/
  | completionEntryIssue
  /-- HOST_WRITE_GO: GO, or the error response, of host write `id`. -/
  | hostWriteGo (id : Nat) (err : Bool)
  /-- HOST_READ_DATA: data of host read `id`. -/
  | hostReadData (id : Nat) (err : Bool)
  /-- SNOOP: an H2D snoop of a host line. -/
  | snoop (addr : W64)
  /-- CXL_PORT_DOWN: CXL port `port` leaves UP. -/
  | cxlPortDown (port : Nat)
  /-- CXL_PORT_UP: CXL port `port` is UP. -/
  | cxlPortUp (port : Nat)
  /-- HOST_LINK_RESET: Hot Reset, link disable or Function Level Reset. -/
  | hostLinkReset (port : Nat)
  /-- HOST_TIMEOUT: HOLDING has outlasted UZ_HOST_TMO. -/
  | hostTimeout
  /-- HELD_ENTRY_TIMEOUT: the held entries of `ring` outlast UZ_HOST_TMO after ATTACH. -/
  | heldEntryTimeout (ring : Nat)
  /-- UZ_DBELL: write of the command doorbell. -/
  | uzDbell (ring : Nat) (index : W32)
  /-- UZ_CQDBELL: write of the completion doorbell. -/
  | uzCqdbell (ring : Nat) (index : W32)
  /-- UZ_RPTDBELL: write of the report doorbell. -/
  | uzRptdbell (c : Nat) (index : W32)
  /-- ENABLE: ENABLE in UZ_RINGCTL of ring index 0–19 (R430). -/
  | enable (ringix : Nat)
  /-- SEQUENCER_LOAD_DONE: the sequencer load ends. -/
  | sequencerLoadDone
  /-- DISABLE: DISABLE in UZ_RINGCTL. -/
  | disable (ringix : Nat)
  /-- RESTART: RESTART in UZ_RINGCTL, by an access of `size` bytes. -/
  | restart (ringix : Nat) (index : W32) (size : Nat)
  /-- LOAD: LOAD in UZ_KEY_CTL. -/
  | load (slot : Nat)
  /-- CLEAR: CLEAR in UZ_KEY_CTL. -/
  | clear (slot : Nat)
  /-- ATTACH: ATTACH in UZ_HOST_CTL. -/
  | attach
  /-- DETACH: DETACH in UZ_HOST_CTL. -/
  | detach
  /-- WAKE: WAKE in UZ_PWR_CTL. -/
  | wake (mask : Nat)
  /-- CLRMAX: CLRMAX in UZ_SHED_STAT. -/
  | clrmax
  /-- UZ_CHAN_ABORT: write of UZ_CHAN_ABORT. -/
  | uzChanAbort (v : W64)
  /-- NANTRAP_CLEAR: 1 written to VALID of UZ_NANTRAP of context `c`. -/
  | nantrapClear (c : Nat)
  /-- UZ_VLOG_PTR: write of RD. -/
  | uzVlogPtr (rd : W16)
  /-- UZ_GL_EPOCH: write of UZ_GL_EPOCH. -/
  | uzGlEpoch (v : W64)
  /-- UZ_TEST_CTL: write of UZ_TEST_CTL. -/
  | uzTestCtl (v : W64)
  /-- MSIX_UNMASK: the mask of a vector is cleared. -/
  | msixUnmask (vec : Nat)
  /-- REGISTER_READ_LATCH: an MMIO read of `size` bytes at `off`. -/
  | registerReadLatch (off size : Nat)
  /-- REGISTER_WRITE: an MMIO write of `size` bytes at `off`. -/
  | registerWrite (off size : Nat) (v : W64)
  /-- LINK_UP: a Grirdo link becomes UP; `dev` is its far end. -/
  | linkUp (link dev : Nat)
  /-- LINK_DOWN: a link leaves UP, to DOWN or TRAINING. -/
  | linkDown (link : Nat) (training : Bool)
  /-- LODGING_TIMEOUT: an unanswered request reaches the timeout. -/
  | lodgingTimeout (req : Nat)
  /-- PEER_LINK_TIMEOUT: no link to `dev` has returned within the timeout. -/
  | peerLinkTimeout (dev : Nat)
  /-- VLIMIT_REACHED: the violations of `dev` reach VLIMIT. -/
  | vlimitReached (dev : Nat)
  /-- LODGING_SEND: the next waiting message of `link` is sent. -/
  | lodgingSend (link : Nat)
  /-- HELLO: the message arrives on `link`. -/
  | hello (link : Nat) (m : LMsg)
  /-- CLAIM: the message arrives on `link`. -/
  | claim (link : Nat) (m : LMsg)
  /-- UNCLAIM: the message arrives on `link`. -/
  | unclaim (link : Nat) (m : LMsg)
  /-- PUT: the message arrives on `link`. -/
  | put (link : Nat) (m : LMsg)
  /-- PUT_ACK: the message arrives on `link`. -/
  | putAck (link : Nat) (m : LMsg)
  /-- GET: the message arrives on `link`. -/
  | get (link : Nat) (m : LMsg)
  /-- MORE: the message arrives on `link`. -/
  | more (link : Nat) (m : LMsg)
  /-- DATA: the message arrives on `link`. -/
  | data (link : Nat) (m : LMsg)
  /-- FREE: the message arrives on `link`. -/
  | free (link : Nat) (m : LMsg)
  /-- RELEASE: the message arrives on `link`. -/
  | release (link : Nat) (m : LMsg)
  /-- ACK: the message arrives on `link`. -/
  | ack (link : Nat) (m : LMsg)
  /-- NAK: the message arrives on `link`. -/
  | nak (link : Nat) (m : LMsg)
  /-- EVICT: the message arrives on `link`. -/
  | evict (link : Nat) (m : LMsg)
  /-- SUPPLY_SAMPLE: the monitor's sample of VDD_ST, in mV. -/
  | supplySample (mv : Nat)
  /-- SHED_LEVEL_FALL: the hold of a fall has passed. -/
  | shedLevelFall
  /-- STATIONS_RETURN: the hold of a return has passed. -/
  | stationsReturn
  /-- CLOCK_GATE: station `st` is clock-gated. -/
  | clockGate (st : Nat)
  /-- POWER_GATE: station `st` is power-gated. -/
  | powerGate (st : Nat)
  /-- STATION_WAKE: station `st` becomes ACTIVE. -/
  | stationWake (st : Nat)
  /-- VLOG_ENTRY_WRITE: the gatehouse writes the next waiting log entry. -/
  | vlogEntryWrite
  /-- VLOG_MARK: the unread entries have risen to MARK. -/
  | vlogMark
  /-- DEVICE_RESET: Fundamental Reset or power-on; `devid` is read from the straps (R428). -/
  | deviceReset (devid : Nat)
  /-- CORE_SRAM_READ_RETURN: the oldest outstanding core SRAM read of a stash engine returns. -/
  | coreSramReadReturn (st eng : Nat) (err : Bool)
  /-- LINK_LAYER_ACCEPTANCE: a send to a remote tier is accepted. -/
  | linkLayerAcceptance (st acc : Nat)
  deriving DecidableEq, Repr

end Sys2Proof
end

