-- ==== Sys2Proof/Config.lean ====
section
/-!
DEFINITION. What an implementation or the surroundings fix (R3, R5, R13, R14) and the free values:
the values the manual leaves open, as constants with no body.
-/
namespace Sys2Proof.Config

/-- Stations S0–S5 (R5). -/
def nStation : Nat := 6
/-- Compute cores of the NTP; 4,320 per field (R3). -/
def nCore : Nat := 25920
def coresPerField : Nat := 4320
/-- Core SRAM bytes, 384 KiB (R3). -/
def sramBytes : Nat := 393216
/-- Local HBM bytes, 1,152 GiB (R3, R157). -/
def hbmBytes : Nat := 1152 * 1024 * 1024 * 1024
/-- Contexts, channels, key slots, links (R5, R277). -/
def nCtx : Nat := 4
def nChan : Nat := 48
def nKey : Nat := 4
def nLink : Nat := 12
/-- Places of a station's event queue (R27). -/
def eventQueueDepth : Nat := 512
/-- Inn rooms of a station (R5) and the bytes of one (R14). -/
def nRoom : Nat := 512
def roomBytes : Nat := 65536
/-- Cellar chunk bytes and slot bytes (R41, R43). -/
def chunkBytes : Nat := 2097152
def slotBytes : Nat := 4096
def slotsPerChunk : Nat := 512
/-- Landing frame bytes (R126). -/
def frameBytes : Nat := 4128
/-- "No tensor" (R13). -/
def noTensor : Nat := 0xFFFFF

/-- FREE VALUE. What a byte of memory holds after a write to it returned an error (R391 and R141 give
the status and not the bytes). Applied to the free-value counter of State and the address. -/
opaque freeByte : Nat → Nat → Byte

/-- FREE VALUE. The place of core SRAM in a device's fabric address space: the manual lets a descriptor
transfer address core SRAM (R148) and gives no map. `some a` is byte `a mod 2^19` of core `a / 2^19`. -/
opaque sramOfFabric : Nat → Option Nat

/-- FREE VALUE. The bytes of the 4 KiB header of a replay part: R269 lists what it holds and gives no layout.
Applied to the values held and the byte's offset. -/
opaque replayHeader : List Nat → Nat → Byte

/-- FREE VALUE. How many of the words whose elements are complete an expander presents before it finds that a
sub-stream runs out of bytes: R205 says that elements may have been presented, not how many. Applied to the free-value
counter of State. -/
opaque faultWord : Nat → Nat

/-- FREE VALUE. The payload bytes an expander has consumed when a sub-stream fails a check: R205 and R206 give no
point. Applied to the free-value counter of State. -/
opaque faultPoint : Nat → Nat

/-- FREE VALUE. Whether a station's ledger cache holds a record at the first step of its fetch: R160 and R418 tell a hit
from a miss and give the cache no size and no order of replacement. Applied to the free-value counter of State. -/
opaque cacheHolds : Nat → Bool

end Sys2Proof.Config
end

