-- ==== Sys2Proof/Machine/Data.lean ====
section
/-!
DEFINITION. The pieces State is made of, as plain data: status codes (R388), plan (R63–R70, R83), ledger
record (R36), stage and context run data, tasks, accesses, station units, rings, links, expanders, log.
-/
namespace Sys2Proof.Machine

/-- A sparse table: ascending keys, no entry equal to the table's default. -/
abbrev Assoc (α : Type) := List (Nat × α)

/-- Status codes (R388). -/
inductive Status where
  | ok | empty | aborted | miscompare | wrerr | rderr | innerr
  | lenfault | huskHdr | huskCrc | huskData | chkfault | ledgerCrc | portCmd | portNote | telCrc | reclost
  | nantrap | sentinel | dlmiss
  | ldgClaim | ldgPeer | ldgNak | farerr | hostloss
  | semunder | semover | semwait | semcancel | ctxBusy | ctxImage
  | shedlvl | stoff
  | violAddr | violRsvd | violEvent | violCfg | violMode | violSem | violGl | violLen | violOp | violDbell
  | violSeq | violHostrd | violHostwr | violMmio
  | ldrBusy | ldrHeader | ldrCrc | ldrSect | ldrRsvd | ldrRange | ldrAlign | ldrPool | ldrOverlap | ldrReserve
  | ldrMarks | ldrCores | ldrLedger | ldrDup | ldrDisp | ldrSize | ldrTier | ldrKey | ldrPartner | ldrFetch
  | ldrClass | ldrLead | ldrRing | ldrRooms | ldrSegment | ldrProg | ldrProgmem | ldrLoop | ldrExtent
  | ldrBucket | ldrChanged
  | swapBusy | swapNoplan | rplBusy | rplInvalid | rplPlan | ckptBusy | ckptSize | ckptStep | ckptState
  deriving DecidableEq, Repr

/-! ## The plan -/

/-- Dispositions (R36, R67). -/
inductive Disp where
  | keep | husk | lodge | far | drop
  deriving DecidableEq, Repr

/-- Stored formats (R179). -/
inductive Fmt where
  | fp32 | bf16 | fp16 | e4m3 | e5m2
  deriving DecidableEq, Repr

/-- Stream-program instructions (R105, R106). Offsets are in 16 B units. -/
inductive Ins where
  | land (nframes landoff : Nat)
  | seta (core off : Nat)
  | loop (count : Nat) (dcore doff : Int)
  | batch (count : Nat) (dcore doff : Int)
  | endl
  | skiplen (units : Nat)
  | linear (n : Nat)
  | rows (cols pitch n : Nat)
  | waitSem (sem : Nat)
  | waitDrain
  | fin
  deriving DecidableEq, Repr

structure GlobalSec where
  poolBase : Nat := 0
  poolChunks : Nat := 0
  dstart : Nat := 0
  dstop : Nat := 0
  jobSeed : W64 := 0
  step0 : W64 := 0
  guestBase : Nat := 0
  guestSize : Nat := 0
  frooms : List Nat := []
  srooms : List Nat := []
  deriving DecidableEq, Repr

structure StageEntry where
  stage : Nat := 0
  home : Nat := 0
  dtarget : Nat := 3
  dtierix : Nat := 255
  reserve : Nat := 0
  cap : Nat := 0
  nlayer : Nat := 0
  mbslots : Nat := 0
  ledgerBase : Nat := 0
  ledgerCap : Nat := 0
  firstCore : Nat := 0
  ncores : Nat := 0
  leadCore : Nat := 0
  deriving DecidableEq, Repr

structure Entry where
  tensor : Nat := 0
  disp : Disp := .keep
  fmt : Fmt := .bf16
  src : Fmt := .bf16
  layer : Nat := 0
  stage : Nat := 0
  stoch : Bool := false
  sat : Bool := false
  pin : Bool := false
  cls : Nat := 0
  cell : Nat := 0
  lead : Nat := 0
  consume : List Nat := []
  ringDepth : Nat := 0
  prog : Nat := 0
  rawMax : Nat := 0
  bias : W32 := 0
  clipLo : W32 := 0
  clipHi : W32 := 0
  segix : Nat := 0xFFFF
  tierix : Nat := 0xFF
  maskp : Nat := 0
  deriving DecidableEq, Repr

structure Segment where
  ckpt : Nat := 0
  ckptLayer : Nat := 0
  segFirst : Nat := 0
  segLast : Nat := 0
  recLead : Nat := 0
  deriving DecidableEq, Repr

structure Tier where
  kind : Nat := 0
  keySlot : Nat := 0
  minLead : Nat := 0
  base : Nat := 0
  size : Nat := 0
  deriving DecidableEq, Repr

structure Bucket where
  bound : Nat := 0
  prog : Nat := 0
  rawLen : Nat := 0
  last : Bool := false
  deriving DecidableEq, Repr

/-- A verified plan, as one of the two slots of a context holds it (R71), with the header bytes that
R92 compares at an exchange and the present widths latched under R4 (15 where listed, else 16). -/
structure Plan where
  addr : Nat := 0
  crc : W32 := 0
  ctx : Nat := 0
  bucketed : Bool := false
  totLen : Nat := 0
  header : List Byte := []
  glob : GlobalSec := {}
  stages : List StageEntry := []
  entries : List Entry := []
  segs : List Segment := []
  tiers : List Tier := []
  buckets : List Bucket := []
  progs : List (List (List Ins)) := []
  progLen : List Nat := []
  widths : Assoc Nat := []
  deriving DecidableEq, Repr

/-! ## Ledger records -/

/-- Record states (R37). -/
inductive RecState where
  | free | pending | resident | demoting | lost | empty | reference
  | reserved (v : Nat)
  deriving DecidableEq, Repr

/-- A ledger record (R36), without its CRC. -/
structure Rec where
  fmt : Nat := 0
  layer : Nat := 0
  mb : Nat := 0
  stage : Nat := 0
  demoted : Bool := false
  ctx : Nat := 0
  state : RecState := .free
  tier : Nat := 0
  disp : Nat := 0
  tensor : Nat := 0
  loc : Nat := 0
  rawLen : Nat := 0
  storLen : Nat := 0
  scale : Nat := 0
  keySlot : Nat := 0
  lead : Nat := 0
  step : Nat := 0
  acorn : W64 := 0
  segFirst : Nat := 0
  segLast : Nat := 0
  coreFirst : Nat := 0
  coreCount : Nat := 0
  age : Nat := 0
  deriving DecidableEq, Repr

/-- The SECDED state of the words of an array (R395): a single-bit error is corrected where the words are read, a
double-bit error fails what holds them. -/
inductive Ecc where
  | clean | single | double
  deriving DecidableEq, Repr

/-- What the ledger cache and the index of R160 hold of a record of the current step: its fill sequence
(the position in the list of its stage), the record as it stands, the Cellar slots held for it (absolute
slot numbers of the stage's chain), and the progress of its fetches (R38). -/
structure RecInfo where
  ent : Nat := 0
  mb : Nat := 0
  layer : Nat := 0
  tensor : Nat := 0
  rc : Rec := {}
  /-- still being stashed: held only in the ledger cache (R37) -/
  stashing : Bool := true
  /-- held LOST in the ledger cache for the rest of the step (R391, R392), and the status a fetch ends with -/
  lost : Option Status := none
  slot0 : Nat := 0
  slots : Nat := 0
  /-- slots taken for an earlier attempt of the stash and not used (R380) -/
  hole : Nat := 0
  /-- some fetch has been issued (R48) -/
  fetched : Bool := false
  fetchesDone : Nat := 0
  drained : Bool := false
  reclaimed : Bool := false
  /-- its replay REC item is written, or none is owed (R271) -/
  captured : Bool := true
  recItem : Nat := 0
  /-- the SECDED state of its words in the ledger cache (R395) -/
  ecc : Ecc := .clean
  deriving DecidableEq, Repr

/-! ## Telemetry and stage run data -/

/-- The counts of a stage record (R263), for the current step. `stall`, `miss`, `late` are by the row of
Table: Stall causes; `fmtCnt` at 4 × FMT + 0 ELEMS, 1 OVER, 2 VANISH, 3 NAN. -/
structure StageStats where
  tFirst : Nat := 0
  tFwdLast : Nat := 0
  tBwdFirst : Nat := 0
  tEnd : Nat := 0
  tClose : Nat := 0
  slowFirst : Nat := 0
  slow : Nat := 0
  stall : Assoc Nat := []
  port : Assoc Nat := []
  miss : Assoc Nat := []
  late : Assoc Nat := []
  dlPost : Nat := 0
  wasted : Nat := 0
  unfetched : Nat := 0
  discarded : Nat := 0
  fmtCnt : Assoc Nat := []
  hist : Assoc Nat := []
  histPart : Bool := false
  deriving DecidableEq, Repr

/-- What Uzoto keeps of a stage of a context within the current step. `lastTick` holds, per slot, the
layer of its last BWD_TICK plus 1 (R158). `chain` holds the chunks of the stage's Cellar bottom first;
the first of them has absolute chunk number `chainBase` (chunks that demotion took lie below). -/
structure StageRun where
  /-- an event of the stage has been taken in the step (R261) -/
  begun : Bool := false
  ended : Bool := false
  cancelled : List Nat := []
  lastTick : Assoc Nat := []
  /-- fetches that have fallen due, as (slot, entry, fetch number) -/
  due : List (Nat × Nat × Nat) := []
  recs : List RecInfo := []
  chainBase : Nat := 0
  chain : List Nat := []
  fillPtr : Nat := 0
  demoteChunk : Bool := false
  stallRaised : List Nat := []
  /-- causes whose count has reached the threshold of a task that waited, not raised yet (R168, R448) -/
  stallDue : List Nat := []
  stats : StageStats := {}
  deriving DecidableEq, Repr

/-- An amax ring (R254) with the step's running maximum (R253); FP32 patterns. -/
structure Amax where
  loaded : Bool := false
  vals : List W32 := []
  head : Nat := 0
  count : Nat := 0
  lastScale : Nat := 0
  stepLow : Nat := 0
  running : W32 := 0
  used : Bool := false
  /-- read as empty under TEL_CRC, to be written again at the boundary -/
  rewrite : Bool := false
  deriving DecidableEq, Repr

/-- The NaN trap record (R250). -/
structure NanTrap where
  valid : Bool := false
  path : Nat := 0
  lane : Nat := 0
  tensor : Nat := 0
  layer : Nat := 0
  mb : Nat := 0
  stage : Nat := 0
  ctx : Nat := 0
  src : Nat := 0
  elem : Nat := 0
  block : Nat := 0
  step : Nat := 0
  sclk : Nat := 0
  more : Nat := 0
  /-- when its report reached the gatehouse, and from which station (R251) -/
  aclk : Nat := 0
  station : Nat := 0
  deriving DecidableEq, Repr

/-! ## Contexts -/

/-- Step states (R19). -/
inductive CtxState where
  | idle | armed | running | draining | boundary | aborting
  deriving DecidableEq, Repr

/-- The registers of a configuration set block (R431, R446) and the plan slot. -/
structure ConfigSet where
  ctxCtl : W64 := 0
  sentCtl : W64 := 0
  rplCtl : W64 := 0
  telCtl : W64 := 0xF001
  histMask : W64 := 0
  scaleCtl : W64 := 128
  telBase : W64 := 0
  telSize : W64 := 0
  rplBase : W64 := 0
  rplSize : W64 := 0
  stallThr : Assoc W32 := []
  sentTab : Assoc W64 := []
  plan : Option Plan := none
  deriving DecidableEq, Repr

/-- A descriptor in flight, named by its ring and its position. -/
structure DescRef where
  ring : Nat
  pos : Nat
  deriving DecidableEq, Repr

/-- A pending swap of one context (R90–R95). `claiming` while its guest-region claims are made (R93). -/
structure PendSwap where
  desc : DescRef
  immediate : Bool
  plan : Bool
  claiming : Bool := false
  /-- the exchange is in progress: the sets are exchanged, and the bed table of the new region is being written (R94, R282) -/
  exchanging : Bool := false
  deriving DecidableEq, Repr

/-- A CFG_SWAP descriptor whose contexts are not all performed or refused (R91). -/
structure SwapDesc where
  desc : DescRef
  open_ : List Nat := []
  refused : Option (Nat × Status × Nat) := none
  deriving DecidableEq, Repr

/-- A guest-region claim as requester (R290). `claim` is the claim index of the ACK. -/
structure ReqClaim where
  tier : Nat
  dev : Nat
  base : Nat
  size : Nat
  claim : Nat
  deriving DecidableEq, Repr

/-- An arm in progress, or the claims of a pending swap: the tiers whose CLAIM is still to be answered, and the claims
made. -/
structure Claiming where
  desc : DescRef
  left : List Nat := []
  acked : List ReqClaim := []
  deriving DecidableEq, Repr

/-- Reserve states (R272). -/
inductive ReserveState where
  | empty | capturing | valid | frozen | invalid
  deriving DecidableEq, Repr

/-- An item of the replay reserve (R270). -/
inductive CapItem where
  | recd (stage mb layer ledger off dataLen : Nat) (is_sealed : Bool) (rc : Rec)
  | fetch (stage mb layer fetchNo cls ref : Nat)
  deriving DecidableEq, Repr

/-- The replay reserve of a context: state, the step held, and per station part the items and bytes. -/
structure Reserve where
  state : ReserveState := .empty
  step : W64 := 0
  jobSeed : W64 := 0
  planAddr : Nat := 0
  planCrc : W32 := 0
  aborted : Bool := false
  badRegion : Bool := false
  copying : Bool := false
  freezeReq : Bool := false
  /-- its step has closed, and the capture's last writes have no response yet (R272) -/
  closing : Bool := false
  /-- headers of its parts were lost with the stations: they are written at the return (R272, R386) -/
  headDue : Bool := false
  /-- where the reserve that holds the step lies, and the bytes of one of its parts -/
  base : Nat := 0
  part : Nat := 0
  items : Assoc (List CapItem) := []
  bytes : Assoc Nat := []
  deriving DecidableEq, Repr

/-- Where a checkpoint capture stands (R403): its first sections are written, then the rest, then the header, which
a host target reads back. -/
inductive CkptPhase where
  | pending | early | late | header | back
  deriving DecidableEq, Repr

/-- A checkpoint capture (R400–R405). `late` are the pieces written after the first sections. -/
structure Capture where
  desc : DescRef
  snapshot : Bool
  host : Bool
  rpl : Bool
  target : Nat
  size : Nat
  stepAt : W64
  ph : CkptPhase := .pending
  /-- the context is held in BOUNDARY until the first sections are written -/
  holds : Bool := false
  total : Nat := 0
  /-- the first sections, until the reads they need are back (R151) -/
  early : List (Nat × List Byte) := []
  /-- what the later sections copy, as address and length, until it is read -/
  reads : List (Nat × Nat) := []
  late : List (Nat × List Byte) := []
  header : List Byte := []
  readBacks : Nat := 0
  /-- where the reserve's section begins, 0 without one (R404) -/
  rplAt : Nat := 0
  deriving DecidableEq, Repr

/-- The counts of a close, latched until their writes have their responses (R265). `ph` is the kind of write that goes
out next: 0 the stage records, 1 the station records, 2 the rings, 3 the header; 4 when all are out. `homes` are the
stages recorded with their home stations, `stRecs` the stations recorded, `rings` the folded rings with their entries'
home stations. -/
structure TelLatch where
  ph : Nat := 0
  base : Nat := 0
  step : Nat := 0
  aborted : Bool := false
  replay : Bool := false
  merged : Bool := false
  records : Bool := false
  nent : Nat := 0
  stats : Assoc StageStats := []
  homes : List (Nat × Nat) := []
  stRecs : List Nat := []
  rings : List (Nat × Nat × List Byte) := []
  /-- stations whose channel 7 has been aborted: no further write of the close is issued there (R143) -/
  cut : List Nat := []
  deriving DecidableEq, Repr

/-- Telemetry of a context: UZ_TEL_STAT, the area header's SEQ, and the close whose writes are pending (R265). -/
structure TelState where
  st : Nat := 1
  seq : Nat := 0
  latch : Option TelLatch := none
  deriving DecidableEq, Repr

structure Ctx where
  state : CtxState := .idle
  step : W64 := 0
  act : ConfigSet := {}
  shd : ConfigSet := {}
  /-- an arm has started and not completed (R73): events are held -/
  arming : Bool := false
  /-- the bed table of its plan's guest region is being written: the region is not in service yet (R282) -/
  opening : Bool := false
  /-- a CTX_SAVE whose writes have no response yet, with the bytes of its image (R326) -/
  saving : Option (DescRef × Nat) := none
  claiming : Option Claiming := none
  /-- the claims of a pending plan swap (R93) -/
  swapClaiming : Option Claiming := none
  swap : Option PendSwap := none
  swapDone : Bool := false
  swapLast : Status := .ok
  withdraw : Option DescRef := none
  abortDescs : List (DescRef × Nat) := []
  abortSt : Option Status := none
  /-- when the abort was forced, and its place in the order of R390 -/
  abortAclk : Nat := 0
  abortRank : Nat := 0
  claims : List ReqClaim := []
  lostTiers : List Nat := []
  /-- lost tiers whose window is held again: lost until the next step begins (R301) -/
  regained : List Nat := []
  farLost : Bool := false
  farPtr : Assoc Nat := []
  farFull : List Nat := []
  stages : Assoc StageRun := []
  /-- at 2 × station + tier − 1: extra lead E and the run of on-time fetches (R163) -/
  extra : Assoc (Nat × Nat) := []
  /-- an arm has completed since reset (R73) -/
  armedOnce : Bool := false
  trap : NanTrap := {}
  demoteOn : Bool := false
  amax : Assoc Amax := []
  /-- segment and slot of the DROP segments whose ticket has been posted in the step (R56) -/
  ticketed : List (Nat × Nat) := []
  sentFired : List (Nat × Nat) := []
  dlPosted : Nat := 0
  tel : TelState := {}
  reserve : Reserve := {}
  replayReq : Bool := false
  replaying : Bool := false
  replayPtr : Assoc Nat := []
  lastCause : Nat := 0
  lastStage : Nat := 0
  capture : Option Capture := none
  histOn : Bool := false
  histLo : Nat := 0xF0
  histMask : W64 := 0
  deriving DecidableEq, Repr

/-! ## Station units -/

/-- A layer-progress event in a queue: the words, the core that posted it, and whether it came over the
station ring. -/
structure QEvent where
  w0 : W64
  w1 : W64
  poster : Nat
  fwd : Bool := false
  ecc : Ecc := .clean
  deriving DecidableEq, Repr

/-- An open LOOP or BATCH level of an engine (R104). -/
structure LoopLevel where
  isBatch : Bool
  bodyPc : Nat
  count : Nat
  iter : Nat
  dcore : Int
  doff : Int
  core0 : Int
  off0 : Int
  deriving DecidableEq, Repr

/-- An item of a stash engine's stream of core SRAM reads: a tile, or a close of the open block that
takes its place after the reads before it (R119). -/
inductive StreamItem where
  | tile (core off rows rowUnits pitch : Nat) (pad : Bool)
  | close
  | last
  deriving DecidableEq, Repr

structure Engine where
  task : Option Nat := none
  pc : Nat := 0
  core : Int := 0
  off : Int := 0
  loops : List LoopLevel := []
  landed : Bool := false
  reads : List StreamItem := []
  openCore : Option Nat := none
  openBytes : List Byte := []
  openLen : Nat := 0
  waiting : Option Nat := none
  waitOrder : Nat := 0
  /-- in a WAIT of KIND 1 (R116) -/
  draining : Bool := false
  done : Bool := false
  deriving DecidableEq, Repr

/-- Task-level settings a task keeps from its start (R448, R94). -/
structure TaskCfg where
  rt : Bool := false
  nanAct : Bool := false
  sentinel : Bool := false
  jump : Nat := 0
  sentAct : Bool := false
  /-- the scale settings and the freeze bits (R94) -/
  scaleCtl : W64 := 128
  frzNan : Bool := false
  frzSent : Bool := false
  stallThr : Assoc W32 := []
  /-- the base of the telemetry area of its set, when that is READY: where its entry's amax ring lies (R94, R253) -/
  tel : Option Nat := none
  deriving DecidableEq, Repr

inductive TaskKind where
  | stash | fetch | dropWait | dropFetch | demote | recall
  deriving DecidableEq, Repr

/-- How a stash task is carried out: raw to the Cellar, coded to the Cellar, to a peer, to the far tier
(R30, R378, R380). -/
inductive Path where
  | raw | husk | peer | far
  deriving DecidableEq, Repr

/-- Where a task stands. -/
inductive Phase where
  | ring         -- a stash whose entry's amax ring is being read (R253)
  | rooms        -- waits for the Inn rooms of step 1 (R32)
  | chunk        -- a stash that waits for a chunk (R50)
  | waitStash    -- a fetch whose record is not PENDING or RESIDENT yet (R53)
  | waitPrev     -- a fetch behind the previous fetch of its record (R162)
  | waitCkpt     -- a DROP stash whose checkpoint's FWD_DONE has not come (R33)
  | recRead      -- a fetch whose record read is not back
  | engine       -- waits for an engine (R103)
  | run          -- its program runs
  | move         -- its program has ended and its data moves
  | recWrite     -- its record write has no response yet
  | remote       -- its blocks await the tier's acknowledgement
  | final        -- the rewrite of its record has no response yet
  | ticket       -- a DROP fetch that waits for its segment's ticket
  | fail         -- failed or ended, its outstanding transfers end
  deriving DecidableEq, Repr

inductive BlkState where
  | closed | lane | ready | queued | sent | acked
  deriving DecidableEq, Repr

/-- A block of a task (R120): its core, its raw bytes or its raw length, and its stored bytes once coded
or received. -/
structure Blk where
  ix : Nat
  core : Nat
  rawLen : Nat
  raw : List Byte := []
  stored : List Byte := []
  st : BlkState := .closed
  deriving DecidableEq, Repr

structure Task where
  id : Nat := 0
  kind : TaskKind := .stash
  path : Path := .raw
  ph : Phase := .engine
  ctx : Nat := 0
  stage : Nat := 0
  mb : Nat := 0
  layer : Nat := 0
  tensor : Nat := 0
  /-- fill sequence of its record; none for a fetch whose FWD_DONE has not come -/
  fill : Option Nat := none
  ent : Nat := 0
  entry : Entry := {}
  cfg : TaskCfg := {}
  poster : Nat := 0
  sramBase : Nat := 0
  runLen : Nat := 0
  prog : Nat := 0
  /-- iterations of the trimmed loop (R111, R123); none when untrimmed -/
  iters : Option Nat := none
  scale : Nat := 0
  acorn : W64 := 0
  seed : W64 := 0
  chan : Nat := 8
  /-- the channel of a demotion's sends; its reads run on `chan` (R132) -/
  chan2 : Nat := 8
  eng : Option Nat := none
  nframes : Nat := 0
  landoff : Nat := 0
  blks : List Blk := []
  /-- every block of the run is closed (a stash) or mapped (a fetch) -/
  allClosed : Bool := false
  /-- the first core its record names until it has read one, and the cores it has read, in the order of reading -/
  coreFirst : Nat := 0
  readCores : List Nat := []
  rawTotal : Nat := 0
  /-- blocks the program gives for the run -/
  nexp : Nat := 0
  -- Cellar storage: slots needed and reserved from `slot0`, the bytes to be packed, and the slots issued and done (R44)
  slotsNeeded : Nat := 0
  reserved : Bool := false
  slot0 : Nat := 0
  gather : List Byte := []
  slotsIssued : Nat := 0
  slotsDone : Nat := 0
  slotData : Assoc (List Byte) := []
  /-- Inn rooms taken, returned, and needed at step 1 -/
  rooms : Nat := 0
  roomsBack : Nat := 0
  roomNeed : Nat := 0
  runMax : W32 := 0
  /-- of a stash: the H of the amax ring it started with, 0 where it has none (R94, R255, R267) -/
  ringH : W32 := 0
  -- fetches
  fetchNo : Nat := 0
  consume : Nat := 0
  cls : Nat := 1
  rc : Rec := {}
  /-- the cause under which the fetch is late, from the tick that made it so (R161, R166) -/
  late : Option Nat := none
  /-- its data is discarded: MB_CANCEL or ABORTING (R60, R61) -/
  cancelled : Bool := false
  parsed : Nat := 0
  /-- bytes of the record that have come into rooms, and those delivered or discarded -/
  rcvd : Nat := 0
  used : Nat := 0
  /-- served from retained rooms: it takes no room (R53) -/
  fromRooms : Bool := false
  /-- blocks whose elements have been observed (R245) -/
  seen : List Nat := []
  /-- requested bytes of its transfers that were never issued, once it is cut short (R143), on its channel and on that of
  a demotion's sends -/
  residue : Nat := 0
  residue2 : Nat := 0
  got : List (List Byte) := []
  delivered : Nat := 0
  noted : List Nat := []
  replayRec : Option (Nat × Nat) := none
  /-- the FETCH item of a replay fetch: one above its place in its station's part (R275) -/
  replayIx : Nat := 0
  -- tiers
  tierix : Nat := 0xFF
  /-- its first block has been sent, so the send is completed whatever the level (R49, R378); of a fetch from a peer, its
  GET has gone out -/
  started : Bool := false
  link : Option Nat := none
  retries : Nat := 0
  readBacks : Nat := 0
  loc : Nat := 0
  failing : Option Status := none
  /-- the rewrite of the record at the end of the task has its response (R30 step 8) -/
  finalDone : Bool := false
  /-- the PENDING record has its response -/
  pendDone : Bool := false
  /-- layer of the tick at which the fetch fell due (R270) -/
  dueTick : Nat := 0
  /-- of a fetch from a peer: the beds its GET has granted, with those of each MORE that is answered; and the MOREs that
  are not, each with its link and whether it has been sent (R296, R299) -/
  asked : Nat := 0
  mores : List (Nat × Bool) := []
  /-- blocks handed to the send queue (R135) -/
  sendsQueued : Nat := 0
  /-- bytes of its window that a far write has taken, once it has its place (R354) -/
  farCap : Nat := 0
  /-- beds whose last block has come, of a fetch from a peer (R296), and the bytes that had come by then -/
  beds : Nat := 0
  bedBase : Nat := 0
  /-- its room ring has been at its high mark and has not fallen to its low mark (R135) -/
  paused : Bool := false
  /-- a class 0 fetch that has been counted under C0_OVER in the step (R417) -/
  c0over : Bool := false
  /-- the SECDED state of the Inn words it holds (R395) -/
  ecc : Ecc := .clean
  deriving DecidableEq, Repr

/-- What a returning access means. -/
inductive Hook where
  | slotWrite (task ix : Nat)
  | recWrite (task : Nat)
  | ringRead (ctx ent part : Nat)
  | capWrite (ctx stage fill : Nat)
  | plain
  | slotRead (task ix : Nat)
  | recRead (task : Nat)
  | xferWrite (ring pos ix : Nat)
  | xferRead (ring pos ix : Nat) (target : Bool)
  | inlineWrite (ring pos : Nat)
  | guestWrite (put : Nat)
  | guestRead (get : Nat)
  | putSend (task blk : Nat)
  | farSend (task blk : Nat)
  | ckptWrite (ctx : Nat)
  /-- a peer fetch asks for the blocks of its rooms, by GET when `first`, else by MORE (R296) -/
  | peerAsk (task : Nat) (first : Bool)
  /-- a write of a pending telemetry latch, and that of its area header (R265) -/
  | telWrite (ctx : Nat)
  | telHead (ctx : Nat)
  /-- the write of a station record, made as it goes out (R264) -/
  | telStation (ctx : Nat)
  /-- the header of a replay part, and a FETCH item (R269, R270) -/
  | capHead (ctx : Nat)
  | capFetch (ctx : Nat)
  /-- a read of the image that the loader verifies (R76), and of the sequencer image (R451) -/
  | loadRead
  | seqRead
  /-- a write of the semaphore image of CTX_SAVE (R326), and of a bed table that enters service (R282) -/
  | ctxSave (ctx : Nat)
  | bedZero (ctx : Nat)
  /-- a read of what a checkpoint capture copies (R151, R403) -/
  | ckptRead (ctx : Nat)
  /-- the read-back of a host target's last line: a transfer's, and that of a capture's header (R352) -/
  | xferBack (ring pos : Nat)
  | ckptBack (ctx : Nat)
  /-- the read-back of the last line of a task's far write (R352) -/
  | farBack (task : Nat)
  deriving DecidableEq, Repr

/-- One access that waits for its channel slot and tokens, or is outstanding (R133, R152). `chan` is the
local channel index, 8 for a metadata access or an access of no channel. `share` is 0 read, 1 write,
2 remote, 3 none: toward the links and the CXL port. -/
structure Access where
  id : Nat := 0
  share : Nat := 0
  cls : Nat := 1
  ctx : Nat := 0
  chan : Nat := 8
  owner : Nat := 0
  cost : Nat := 64
  addr : Nat := 0
  len : Nat := 0
  data : List (Nat × Byte) := []
  write : Bool := false
  posted : Bool := false
  /-- the mark of a class 0 HBM read as it goes out to the HBM controllers (R414) -/
  urgent : Bool := false
  hook : Hook := .plain
  deriving DecidableEq, Repr

/-- A job of an encode lane: the task and the block. -/
structure LaneJob where
  task : Nat
  blk : Nat
  demote : Bool
  deriving DecidableEq, Repr

/-- A recompute ticket (R57), with the core it goes to. -/
structure Ticket where
  core : Nat
  ctx : Nat
  stage : Nat
  mb : Nat
  segFirst : Nat
  segLast : Nat
  ckpt : Nat
  ckptOff : Nat
  seed : W64
  ctrBase : W64
  segix : Nat
  cmax : Nat
  deriving DecidableEq, Repr

/-- An item of the cell-write path (R323): +n or an error wake to a cell, or a ticket. -/
inductive CellItem where
  | add (core cell n : Nat) (src : Nat)
  | err (core cell : Nat) (st : Status)
  | ticket (t : Ticket) (last : Bool)
  deriving DecidableEq, Repr

/-- What the home station keeps of a delivery made to a core in the step (R206). -/
structure DelivRec where
  core : Nat
  ctx : Nat
  off : Nat
  nblk : Nat
  tensor : Nat
  stage : Nat
  mb : Nat
  layer : Nat
  ledger : Nat
  deriving DecidableEq, Repr

/-- Station power states (R366). -/
inductive PwrState where
  | active | clockGated | powerGated | waking | off
  deriving DecidableEq, Repr

/-- A semaphore operation held at a station (R370, R326). -/
structure HeldOp where
  core : Nat
  w0 : W64
  w1 : W64
  deriving DecidableEq, Repr

structure Station where
  pwr : PwrState := .active
  evq : List QEvent := []
  evWait : List QEvent := []
  engines : Assoc Engine := []
  lanes : Assoc (Option LaneJob) := []
  laneQ : List LaneJob := []
  tasks : List Task := []
  acc : List Access := []
  outst : List Access := []
  /-- tokens by share 0 read, 1 write, 2 remote in sixths of a byte (R152); full at reset -/
  tokens : Assoc Nat := []
  /-- class 0 bucket (R154) and class 1 buckets at 1 + share (R155), in 24ths of a byte -/
  clsTokens : Assoc Nat := []
  /-- bytes of class 1 and 2 issued on each share while both waited (R153) -/
  wrr : Assoc (Nat × Nat) := []
  /-- at 4 × share + class: the context served last, plus 1 (R153) -/
  ctxTurn : Assoc Nat := []
  /-- at the key of `Access.turnKey`: whose transfer was issued last (R134, R153, R156) -/
  chanTurn : Assoc Nat := []
  /-- work of channel 7 that has been aborted and still has transfers outstanding, by `Access.taskKey`, with its residue
  (R143) -/
  cuts : List (Nat × Nat) := []
  cellq : List CellItem := []
  cellFly : List CellItem := []
  ticketHeld : List (Ticket × Bool) := []
  deliveries : List DelivRec := []
  delivTurn0 : Nat := 0
  delivTurn1 : Nat := 0
  held : List HeldOp := []
  waitSeq : Nat := 0
  progMem : Assoc (List (List Ins)) := []
  /-- the SECDED state of the words of program memory (R395), at 2^24 × context + 2^12 × program + instruction -/
  progEcc : Assoc Ecc := []
  sclk : Nat := 0
  slow : Nat := 0
  gated : Nat := 0
  wakes : Nat := 0
  engBusy : Nat := 0
  fengBusy : Nat := 0
  laneBusy : Nat := 0
  delivBusy : Nat := 0
  idleSclk : Nat := 0
  pgAclk : Nat := 0
  nextId : Nat := 1
  deriving DecidableEq, Repr

/-! ## Channels and descriptor transfers -/

structure Chan where
  status : Status := .ok
  count : Nat := 0
  residue : Nat := 0
  pend : Bool := false
  wrErr : Bool := false
  deriving DecidableEq, Repr

inductive XferMode where
  | copy | fill | compare | compareConst
  deriving DecidableEq, Repr

/-- A descriptor transfer on a channel 7 (R144). `issued` counts the requested bytes whose transfer has been put on
the channel, and `cuts` are the transfers under way, as offset and length of the requested bytes (R145). -/
structure Xfer where
  desc : DescRef
  st : Nat
  mode : XferMode
  src : Nat
  srcHost : Bool
  dst : Nat
  dstHost : Bool
  count : Nat
  cls : Nat
  posted : Bool
  pattern : W64
  cuts : List (Nat × Nat) := []
  issued : Nat := 0
  got : Assoc (List Byte) := []
  differ : Option Nat := none
  fail : Option Status := none
  /-- no further transfer is issued -/
  stop : Bool := false
  residue : Nat := 0
  /-- read-backs made of the last line of a host target (R352) -/
  readBack : Nat := 0
  backDone : Bool := false
  /-- the last line written to a host target, and all that was written there, by offset, to be written once more -/
  backLine : List Byte := []
  wrote : Assoc (List Byte) := []
  deriving DecidableEq, Repr

/-! ## Host side -/

inductive RingState where
  | disabled | running | halted
  deriving DecidableEq, Repr

inductive DescState where
  | reading | mismatch | matched | started | completed | entered
  deriving DecidableEq, Repr

/-- A descriptor in flight (R338): position, the 64 B line, re-reads made, and LATE of R344. -/
structure Desc where
  pos : Nat
  line : List W64 := []
  st : DescState := .reading
  rereads : Nat := 0
  age : Nat := 0
  late : Bool := false
  deriving DecidableEq, Repr

/-- A completion entry's content (R344). -/
structure CEntry where
  status : Status
  detail : Nat
  detail2 : Nat
  tag : Nat
  slot : Nat
  irq : Bool
  held : Bool := false
  late : Bool := false
  pos : Nat := 0
  /-- its write has failed: the descriptor is no longer in flight -/
  loose : Bool := false
  /-- index in the completion ring once it has been issued -/
  ix : Nat := 0
  deriving DecidableEq, Repr

structure Ring where
  state : RingState := .disabled
  base : Nat := 0
  log2 : Nat := 6
  cqBase : Nat := 0
  prod : Nat := 0
  cons : Nat := 0
  cqProd : Nat := 0
  cqCons : Nat := 0
  dispend : Bool := false
  haltSt : Status := .ok
  descs : List Desc := []
  /-- INDEX of the doorbell writes last accepted (R334) -/
  bell : Nat := 0
  cqBell : Nat := 0
  /-- entries kept until they can be written (R357, R359, R361) -/
  heldEntries : List CEntry := []
  deriving DecidableEq, Repr

/-- A report (R346) still in the gatehouse, or its 64 bytes less FLAGS and SEQ. -/
structure Report where
  status : Status
  seq : Nat
  body : List Byte
  deriving DecidableEq, Repr

structure RptRing where
  state : RingState := .disabled
  base : Nat := 0
  log2 : Nat := 6
  prod : Nat := 0
  cons : Nat := 0
  dispend : Bool := false
  haltSt : Status := .ok
  seq : Nat := 0
  bell : Nat := 0
  lostBefore : Bool := false
  heldReports : List Report := []
  deriving DecidableEq, Repr

/-- A completion event that the collector has not taken (R348): rank 0–47 a channel, 48–51 a context,
52 the loader. -/
structure CEvent where
  rank : Nat
  aclk : Nat
  desc : DescRef
  status : Status
  detail : Nat
  detail2 : Nat
  deriving DecidableEq, Repr

/-- What a host write or read is for. -/
inductive HostUse where
  | entry (ring : Nat) (e : CEntry)
  | report (ctx : Nat) (st : Status)
  | farLine (st task : Nat)
  | xferLine (ring pos ix : Nat)
  | ckptLine (ctx acc : Nat)
  | desc (ring pos : Nat)
  | farBack (st task : Nat)
  | farRead (st task ix : Nat)
  | xferRead (ring pos ix : Nat) (target : Bool)
  | xferBack (ring pos : Nat)
  | ckptBack (ctx : Nat)
  deriving DecidableEq, Repr

/-- A host write without GO or a host read without data (R331, R358). `issued` is false while the
attachment holds it. -/
structure HostOp where
  id : Nat
  use : HostUse
  port : Nat
  addr : Nat
  data : List (Nat × Byte) := []
  len : Nat := 0
  write : Bool
  issued : Bool
  retry : Bool := false
  deriving DecidableEq, Repr

inductive AttState where
  | attached | holding | detached
  deriving DecidableEq, Repr

/-- Where an install stands: its header is read, then the rest of its image (R76); the bed table of its region is
written once the plan is placed (R282). -/
inductive LoadPhase where
  | head | body | beds
  deriving DecidableEq, Repr

/-- An install that waits for the loader or is in its work, with the image as far as it has been read. -/
structure Install where
  desc : DescRef
  addr : Nat
  ctx : Nat
  shadow : Bool
  ph : LoadPhase := .head
  image : List (Nat × Byte) := []
  deriving DecidableEq, Repr

structure HostSide where
  rings : Assoc Ring := []
  rpts : Assoc RptRing := []
  events : List CEvent := []
  ops : List HostOp := []
  nextOp : Nat := 1
  rrNext : Nat := 0
  att : AttState := .attached
  portUp0 : Bool := false
  portUp1 : Bool := false
  holdAge : Nat := 0
  attachAge : Nat := 0
  portChg : Bool := false
  hostReset : Bool := false
  reattach : Bool := false
  heldDrop : Nat := 0
  lostRpt : Assoc Nat := []
  farFullCnt : Assoc Nat := []
  loaderCur : Option Install := none
  loaderQ : List Install := []
  swapDescs : List SwapDesc := []
  xfers : List Xfer := []
  /-- INLINE writes with their response whose completion waits for earlier posted writes of their channel 7, as
  (descriptor, station, status) (R141, R343) -/
  inlines : List (DescRef × Nat × Status) := []
  /-- INLINE descriptors whose write is out and whose channel has been aborted (R143) -/
  inlCut : List DescRef := []
  /-- the sequencer slot (R451), and the loads that wait -/
  seqSlot : Option (List Byte) := none
  seqLoading : Bool := false
  seqImage : List (Nat × Byte) := []
  seqWait : List Nat := []
  lastSnoop : Option W64 := none
  deriving DecidableEq, Repr

/-! ## Interrupts -/

structure Msix where
  /-- mask bits: `unmasked` lists the vectors whose mask is clear -/
  unmasked : List Nat := []
  pendingVecs : List Nat := []
  /-- messages sent, by vector (the model's observation of the crossing of R2), and the aclk after the last -/
  sent : Assoc Nat := []
  sentAt : Assoc Nat := []
  /-- messages kept while the attachment is not ATTACHED (R357) -/
  heldVecs : List Nat := []
  deriving DecidableEq, Repr

/-! ## Violation log -/

structure VEntry where
  seq : Nat := 0
  status : Status := .ok
  src : Nat := 0
  unit : Nat := 0
  ctx : Option Nat := none
  kind : Nat := 0
  sub : Nat := 7
  rept : Nat := 0
  foff : Nat := 0xFFFFFFFF
  aclk : Nat := 0
  value : Nat := 0
  addr : Nat := 0
  tensor : Nat := 0xFFFFF
  stage : Nat := 0
  mb : Nat := 0
  block : Nat := 0
  core : Nat := 0
  port : Nat := 0
  layer : Nat := 0
  step : Nat := 0
  aux0 : Nat := 0
  aux1 : Nat := 0
  deriving DecidableEq, Repr

structure VLog where
  slots : Assoc VEntry := []
  rd : Nat := 0
  wr : Nat := 0
  lost : Nat := 0
  waiting : List VEntry := []
  mark : Nat := 1
  sel : Nat := 0
  /-- WR − RD has risen to MARK and vector 30 has not been raised for it -/
  markDue : Bool := false
  deriving DecidableEq, Repr

/-! ## Lodging -/

/-- A message that waits to be sent on a link, with its class and what it is for. -/
structure TxMsg where
  msg : LMsg
  cls : Nat
  /-- a PUT takes a credit -/
  isPut : Bool := false
  req : Option Nat := none
  /-- a MORE of the fetch at this station and of this task -/
  more : Option (Nat × Nat) := none
  deriving DecidableEq, Repr

structure Link where
  st : Nat := 0
  dev : Nat := 0
  /-- the epoch of the peer's HELLO on this link -/
  epoch : Option Nat := none
  helloSent : Bool := false
  helloSeen : Bool := false
  credits : Nat := 0
  /-- tokens sent direction, in thirds of a byte; full at reset (R280) -/
  tokens : Nat := 49152
  tx : List TxMsg := []
  /-- messages that the link layer holds for a station that sleeps (R370) -/
  rx : List LMsg := []
  lastSent : Option LMsg := none
  deriving DecidableEq, Repr

structure Peer where
  epoch : Option Nat := none
  viol : Nat := 0
  violDue : Bool := false
  haltd : Bool := false
  /-- aclk since the first link to the peer left UP with requests outstanding, or 0 -/
  downAge : Nat := 0
  down : Bool := false
  deriving DecidableEq, Repr

/-- A claim held as innkeeper (R291): its window, and the guest region of this device that holds it. -/
structure InnClaim where
  dev : Nat
  ctx : Nat
  base : Nat
  size : Nat
  /-- the context of this device whose guest region holds the window, and that region's base -/
  owner : Nat
  region : Nat
  deriving DecidableEq, Repr

/-- A record kept for a requester (R294): its key (device, ledger address), claim index, step, bed addresses with
the bytes used in each, and the lengths of its blocks. `link` is the link it is open on, none once closed. -/
structure InnRec where
  dev : Nat
  ledger : Nat
  ctx : Nat
  claim : Nat
  step : Nat
  beds : List Nat := []
  used : List Nat := []
  lens : List Nat := []
  link : Option Nat
  deriving DecidableEq, Repr

/-- A PUT that has been taken and not answered: it holds a block buffer of its link (R293, R294). `fin` marks the
record's last block, answered with the record's LOC. -/
structure InnPut where
  id : Nat
  link : Nat
  dev : Nat
  ctx : Nat
  cls : Nat
  claim : Nat
  ledger : Nat
  blk : Nat
  fin : Bool
  loc : Nat
  /-- of an attempt that a later FIRST has replaced: it closes no record (R294) -/
  stale : Bool := false
  deriving DecidableEq, Repr

/-- An open GET (R296). `rooms` are rooms granted and not begun; `inBed` while the blocks of a begun room go out. -/
structure InnGet where
  id : Nat
  link : Nat
  dev : Nat
  ctx : Nat
  cls : Nat
  claim : Nat
  loc : Nat
  ledger : Nat
  nextBlk : Nat
  rooms : Nat
  inBed : Bool := false
  deriving DecidableEq, Repr

/-- What an unanswered request of this device is for (R290, R292, R294, R296, R298). -/
inductive ReqUse where
  | claim (ctx tier : Nat) (swap : Bool)
  /-- a CLAIM whose arm or swap is over: its window is given up when it is acknowledged -/
  | claimOld (ctx : Nat)
  | reclaim (ctx tier : Nat)
  | unclaim (ctx : Nat)
  | put (st task blk : Nat)
  /-- a PUT of an attempt given up; `free` when its record's beds are to be freed once LOC is known (R54, R298) -/
  | putOld (ctx : Nat) (free : Bool) (st task blk : Nat)
  | get (st task : Nat)
  | free (ctx : Nat)
  | release (ctx : Nat)
  deriving DecidableEq, Repr

/-- A request of this device without its answer. -/
structure Req where
  id : Nat
  use : ReqUse
  dev : Nat
  link : Option Nat
  msg : LMsg
  cls : Nat
  sent : Bool := false
  age : Nat := 0
  deriving DecidableEq, Repr

structure Lodge where
  links : Assoc Link := []
  peers : Assoc Peer := []
  claims : Assoc (Option InnClaim) := []
  recs : List InnRec := []
  puts : List InnPut := []
  gets : List InnGet := []
  reqs : List Req := []
  nextReq : Nat := 1
  deriving DecidableEq, Repr

/-! ## Expanders and cells -/

/-- A signal cell (R308); `status` is the 8 bit STATUS field. -/
structure Cell where
  err : Bool := false
  status : Nat := 0
  count : Nat := 0
  deriving DecidableEq, Repr

structure Note where
  valid : Bool := false
  landoff : Nat := 0
  nblk : Nat := 0
  ctx : Nat := 0
  maskp : Nat := 0
  base : W64 := 0
  seed : W64 := 0
  seq : Nat := 0
  deriving DecidableEq, Repr

structure CoreNotes where
  slots : Assoc Note := []
  seq : Nat := 0
  deriving DecidableEq, Repr

/-- A port command's four words (R212). -/
structure PortCmd where
  w0 : W64
  w1 : W64
  w2 : W64
  w3 : W64
  deriving DecidableEq, Repr

/-- A frame opened and not used up: its byte offset and context, its words left of `nwords`, the bounds of its start
(R224), its sideband (R211), and what its report would carry (R206). -/
structure FrameRun where
  off : Nat
  ctx : Nat
  words : List (List Byte) := []
  nwords : Nat := 0
  elemBytes : Nat := 1
  presented : Nat := 0
  acc : Nat := 0
  bmax : Nat := 0
  tmax : Nat := 0
  fmt : Nat := 0
  scale : Nat := 0
  retain : Bool := false
  tensorLo : Nat := 0
  stage : Nat := 0
  mb : Nat := 0
  block : Nat := 0
  payload : Nat := 0
  /-- the fault found before the frame's elements are complete and that found after the last word, each as status,
  LENFAULT kind and sub-stream (R206), and how many more are found at the same cclk (R207) -/
  faultFirst : Option (Status × Nat × Nat) := none
  faultLast : Option (Status × Nat × Nat) := none
  more : Nat := 0
  deriving DecidableEq, Repr

/-- A BYPASS command: its bytes left from `pos` on, and its mask parameters (R237). -/
structure BypassRun where
  off : Nat
  total : Nat
  pos : Nat := 0
  maskp : Nat := 0
  seed : W64 := 0
  base : W64 := 0
  width : Nat := 1
  epb : Nat := 1
  elem0 : Nat := 0
  blk0 : Nat := 0
  deriving DecidableEq, Repr

/-- The command an expander runs. `opened` frames have been opened; `prevO` and `prevT` are O and T of the last of them
(R224), and `sign` the fields all frames of the command share (R222). -/
inductive PortRun where
  | frame (cmd : PortCmd) (note : Note) (acc opened prevO : Nat) (prevT : List Nat) (sign : Option Nat)
  | bypass (acc : Nat) (run : BypassRun)
  deriving DecidableEq, Repr

structure Expander where
  queue : List PortCmd := []
  waiting : List PortCmd := []
  run : Option PortRun := none
  /-- frames opened, oldest first -/
  frames : List FrameRun := []
  /-- what is left of a BYPASS command whose first word has been presented -/
  tail : Option BypassRun := none
  /-- the cclk in which the next command may be accepted (R213), and the cclk after the last word -/
  mayAccept : Nat := 0
  w : Nat := 0
  /-- the cclk after the last operand request -/
  nextReq : Nat := 0
  stopped : Option Status := none
  /-- of a port stopped by a frame's header: the cclk in which its check ends, and the port stops (R224) -/
  stopAt : Nat := 0
  /-- R223: what the port presented last: valid bytes, FMT, SCALE -/
  lastWord : List Byte := []
  sideFmt : Nat := 0
  sideScale : Nat := 0
  cntStop : Nat := 0
  cntLand : Nat := 0
  cntDecode : Nat := 0
  /-- the fault count of R207 (DESIGN CHOICE, log entry 90) -/
  faults : Nat := 0
  deriving DecidableEq, Repr

end Sys2Proof.Machine
end

