-- ==== Sys2Proof/Machine/Assoc.lean ====
section
/-!
DEFINITION. Sparse tables and byte memories. A table lists what differs from its default in ascending key
order; a memory is such a table of bytes, an unlisted byte reading as 0 (DESIGN CHOICE, log entry 6).
-/
namespace Sys2Proof.Machine

/-- The entry of key `k`, or the default. -/
def aget {α : Type} (d : α) : Assoc α → Nat → α
  | [], _ => d
  | (k', v) :: m, k => if k' = k then v else aget d m k

/-- Puts an entry in front of the first larger key. -/
def ains {α : Type} (k : Nat) (v : α) : Assoc α → Assoc α
  | [] => [(k, v)]
  | (k', v') :: m => if k < k' then (k, v) :: (k', v') :: m else (k', v') :: ains k v m

/-- Takes key `k` out. -/
def adel {α : Type} (m : Assoc α) (k : Nat) : Assoc α := m.filter (fun p => p.1 != k)

/-- Sets the entry of key `k`; the default is not listed. -/
def aset {α : Type} [DecidableEq α] (d : α) (m : Assoc α) (k : Nat) (v : α) : Assoc α :=
  if v = d then adel m k else ains k v (adel m k)

/-- Changes the entry of key `k` by `f`. -/
def amod {α : Type} [DecidableEq α] (d : α) (m : Assoc α) (k : Nat) (f : α → α) : Assoc α :=
  aset d m k (f (aget d m k))

/-- The keys lie above `b` and rise, and no entry is the default. -/
def acanonFrom {α : Type} [DecidableEq α] (d : α) (b : Nat) : Assoc α → Bool
  | [] => true
  | (k, v) :: m => decide (b ≤ k) && decide (v ≠ d) && acanonFrom d (k + 1) m

/-- The canonical form of a table. -/
def acanon {α : Type} [DecidableEq α] (d : α) (m : Assoc α) : Bool := acanonFrom d 0 m

/-! ## Byte memories -/

/-- What an unlisted byte reads as. -/
def memDefault : Byte := 0

def memRead (m : List Host.Cell) (a : Nat) : Byte := aget memDefault m a

def memWrite (m : List Host.Cell) (a : Nat) (b : Byte) : List Host.Cell := aset memDefault m a b

/-- `n` bytes from `a` up. -/
def memReads (m : List Host.Cell) (a : Nat) : Nat → List Byte
  | 0 => []
  | n + 1 => memRead m a :: memReads m (a + 1) n

/-- Writes each byte at its address, in order. -/
def memWrites (m : List Host.Cell) : List (Nat × Byte) → List Host.Cell
  | [] => m
  | (a, b) :: l => memWrites (memWrite m a b) l

/-- A memory in its canonical form. -/
def Memory.wf (m : List Host.Cell) : Bool := acanon memDefault m

/-- The bytes `l` placed from `a` up, as address and byte pairs. -/
def placed (a : Nat) : List Byte → List (Nat × Byte)
  | [] => []
  | b :: l => (a, b) :: placed (a + 1) l

end Sys2Proof.Machine
end

