-- ==== Sys2Proof/Machine/Flags.lean ====
section
/-!
DEFINITION. The values of the status codes (R388), the NAK codes, the stall causes in their table's order
(R165), and the bits of UZ_IRQ_STAT (R433).
-/
namespace Sys2Proof.Machine

/-- R388: the 8 bit value of every status. -/
def Status.code : Status → Nat
  | .ok => 0x00 | .empty => 0x01 | .aborted => 0x02 | .miscompare => 0x03 | .wrerr => 0x04
  | .rderr => 0x05 | .innerr => 0x06
  | .lenfault => 0x10 | .huskHdr => 0x11 | .huskCrc => 0x12 | .huskData => 0x13 | .chkfault => 0x14
  | .ledgerCrc => 0x15 | .portCmd => 0x16 | .portNote => 0x17 | .telCrc => 0x18 | .reclost => 0x19
  | .nantrap => 0x20 | .sentinel => 0x21 | .dlmiss => 0x22
  | .ldgClaim => 0x30 | .ldgPeer => 0x31 | .ldgNak => 0x32 | .farerr => 0x33 | .hostloss => 0x34
  | .semunder => 0x40 | .semover => 0x41 | .semwait => 0x42 | .semcancel => 0x43 | .ctxBusy => 0x44
  | .ctxImage => 0x45 | .shedlvl => 0x48 | .stoff => 0x49
  | .violAddr => 0x80 | .violRsvd => 0x81 | .violEvent => 0x82 | .violCfg => 0x83 | .violMode => 0x84
  | .violSem => 0x85 | .violGl => 0x86 | .violLen => 0x87 | .violOp => 0x88 | .violDbell => 0x89
  | .violSeq => 0x8A | .violHostrd => 0x8B | .violHostwr => 0x8C | .violMmio => 0x8D
  | .ldrBusy => 0x50 | .ldrHeader => 0x51 | .ldrCrc => 0x52 | .ldrSect => 0x53 | .ldrRsvd => 0x54
  | .ldrRange => 0x55 | .ldrAlign => 0x56 | .ldrPool => 0x57 | .ldrOverlap => 0x58 | .ldrReserve => 0x59
  | .ldrMarks => 0x5A | .ldrCores => 0x5B | .ldrLedger => 0x5C | .ldrDup => 0x5D | .ldrDisp => 0x5E
  | .ldrSize => 0x5F | .ldrTier => 0x60 | .ldrKey => 0x61 | .ldrPartner => 0x62 | .ldrFetch => 0x63
  | .ldrClass => 0x64 | .ldrLead => 0x65 | .ldrRing => 0x66 | .ldrRooms => 0x67 | .ldrSegment => 0x68
  | .ldrProg => 0x69 | .ldrProgmem => 0x6A | .ldrLoop => 0x6B | .ldrExtent => 0x6C | .ldrBucket => 0x6D
  | .ldrChanged => 0x6E
  | .swapBusy => 0x70 | .swapNoplan => 0x71 | .rplBusy => 0x72 | .rplInvalid => 0x73 | .rplPlan => 0x74
  | .ckptBusy => 0x78 | .ckptSize => 0x79 | .ckptStep => 0x7A | .ckptState => 0x7B

end Sys2Proof.Machine
end

