-- ==== Sys2Proof/Machine/Bits.lean ====
section
/-!
DEFINITION. Bytes and numbers: little-endian values, bit fields laid out and read (R10), rounding helpers.
-/
namespace Sys2Proof.Machine

def ceilDiv (a b : Nat) : Nat := (a + b - 1) / b

/-- `a` rounded up to a multiple of `b`. -/
def roundUp (a b : Nat) : Nat := ceilDiv a b * b

/-- The `n` little-endian bytes of `v`. -/
def leBytes : Nat → Nat → List Byte
  | 0, _ => []
  | n + 1, v => BitVec.ofNat 8 v :: leBytes n (v / 256)

/-- The value of little-endian bytes. -/
def leNat : List Byte → Nat
  | [] => 0
  | b :: l => b.toNat + 256 * leNat l

/-- `n` bytes of `l` from offset `o`, missing bytes read as 0. -/
def sub (l : List Byte) (o n : Nat) : List Byte :=
  let x := (l.drop o).take n
  x ++ List.replicate (n - x.length) 0

def rdNat (l : List Byte) (o n : Nat) : Nat := leNat ((l.drop o).take n)

/-- `l` padded with zero bytes to `n` bytes. -/
def padTo (l : List Byte) (n : Nat) : List Byte := l ++ List.replicate (n - l.length) 0

/-- Bytes `o` onward of `l` replaced by `x`. -/
def splice (l : List Byte) (o : Nat) (x : List Byte) : List Byte :=
  l.take o ++ x ++ l.drop (o + x.length)

/-- A word from fields, each a value and the bit it starts at. -/
def word (fs : List (Nat × Nat)) : W64 :=
  fs.foldl (fun w f => w ||| (BitVec.ofNat 64 f.1 <<< f.2)) 0

def wordN (fs : List (Nat × Nat)) : Nat := fs.foldl (fun w f => w ||| (f.1 <<< f.2)) 0

def bit (w i : Nat) : Bool := w.testBit i

def b2n (b : Bool) : Nat := if b then 1 else 0

/-- The signed value of an `n` bit field. -/
def sext (v n : Nat) : Int := if v < 2 ^ (n - 1) then (v : Int) else (v : Int) - (2 ^ n : Nat)

/-- Cuts `l` into pieces of `n` bytes; `fuel` bounds the pieces. -/
def chop (n : Nat) : Nat → List Byte → List (List Byte)
  | 0, _ => []
  | fuel + 1, l => if l.isEmpty then [] else l.take n :: chop n fuel (l.drop n)

/-- Number of bits of `v`. -/
def bitLen (v : Nat) : Nat := if v = 0 then 0 else Nat.log2 v + 1

/-- A count that stops at `n` bits of ones. -/
def satAdd (n a b : Nat) : Nat := min (a + b) (2 ^ n - 1)

/-- Packs fields (value, width) from bit 0 of the first byte up (R187). -/
def packBits : List (Nat × Nat) → Nat
  | [] => 0
  | (v, w) :: l => v % 2 ^ w + 2 ^ w * packBits l

/-- Element `i` of `n` bits of a packed plane. -/
def fieldAt (plane n i : Nat) : Nat := (plane >>> (n * i)) % 2 ^ n

/-- The first element that satisfies `p`, with its place. -/
def findIx {α : Type} (p : α → Bool) : List α → Nat → Option (Nat × α)
  | [], _ => none
  | x :: l, i => if p x then some (i, x) else findIx p l (i + 1)

/-- Least number below `n` with the property. -/
def findNat (p : Nat → Bool) (n : Nat) : Option Nat := (List.range n).find? p

/-- Replaces the elements that satisfy `p`. -/
def modWhere {α : Type} (p : α → Bool) (f : α → α) (l : List α) : List α :=
  l.map (fun x => if p x then f x else x)

def sumNat (l : List Nat) : Nat := l.foldl (· + ·) 0

def maxNat (l : List Nat) : Nat := l.foldl max 0

end Sys2Proof.Machine
end

