-- ==== Sys2Proof/Machine/Acorn.lean ====
section
/-!
DEFINITION. Acorn, the counter-based generator (R227–R232), and the mask of an element (R235).
-/
namespace Sys2Proof.Machine

/-- The four 32 bit words of the state. -/
structure AcornX where
  x0 : W32
  x1 : W32
  x2 : W32
  x3 : W32
  deriving DecidableEq, Repr

/-- The four updates of a round, in the order written (R227). -/
def acornUpdate (ra rb : Nat) (rc : W32) (x : AcornX) : AcornX :=
  let x0 := x.x0 + (x.x3 ^^^ rc)
  let x1 := (x.x1 ^^^ x0).rotateLeft ra
  let x2 := x.x2 + x1
  let x3 := (x.x3 ^^^ x2).rotateLeft rb
  { x0, x1, x2, x3 }

/-- The key fold of round 2. -/
def acornFold (k0 k1 : W32) (x : AcornX) : AcornX := { x with x0 := x.x0 ^^^ k1, x2 := x.x2 ^^^ k0 }

/-- The word rotation that ends a round. -/
def acornTurn (x : AcornX) : AcornX := { x0 := x.x1, x1 := x.x2, x2 := x.x3, x3 := x.x0 }

/-- The load of counter and key. -/
def acornLoad (k0 k1 : W32) (hi lo : W64) : AcornX :=
  { x0 := lo.setWidth 32 ^^^ k0
    x1 := (lo >>> 32).setWidth 32 ^^^ k1
    x2 := hi.setWidth 32 ^^^ 0x5AC30E97
    x3 := (hi >>> 32).setWidth 32 ^^^ (k0 + k1) }

/-- The six rounds, with the constants of R228. -/
def acornMix (k0 k1 : W32) (x : AcornX) : AcornX :=
  let x := acornTurn (acornUpdate 20 12 0x3B1E96D4 x)
  let x := acornTurn (acornUpdate 8 24 0xC25A08F7 x)
  let x := acornTurn (acornFold k0 k1 (acornUpdate 28 4 0x6D9F41A3 x))
  let x := acornTurn (acornUpdate 12 16 0x147CE85B x)
  let x := acornTurn (acornUpdate 4 28 0xA8E32D6C x)
  acornTurn (acornUpdate 24 8 0x51B6F90E x)

def acorn (key hi lo : W64) : W64 :=
  let k0 : W32 := key.setWidth 32
  let k1 : W32 := (key >>> 32).setWidth 32
  let x := acornMix k0 k1 (acornLoad k0 k1 hi lo)
  let y0 := x.x0 + k0
  let y1 := x.x1 + k1
  (y1 ^^^ x.x3) ++ (y0 ^^^ x.x2)

/-- Domains of R230. -/
def domMask : Nat := 0
def domRound : Nat := 1
def domSeed : Nat := 2

/-- Draw for element `i` of block `b` with base `c` in domain `d` (R229, R232). -/
def acornDraw (seed base : W64) (d b i : Nat) : Nat :=
  W64.bits (acorn seed base (word [(d, 62), (b % 2 ^ 24, 9), (i / 4 % 512, 0)])) (16 * (i % 4) + 15) (16 * (i % 4))

/-- The stage seed of stage `s` in step `t` (R232). -/
def stageSeed (jobSeed step : W64) (s : Nat) : W64 := acorn jobSeed step (word [(domSeed, 62), (s, 0)])

/-- The counter base of a layer, slot and tensor id (R231). -/
def acornBase (layer mb tensor : Nat) : W64 := word [(layer, 44), (mb, 38), (tensor, 18)]

/-- R235: element `i` is kept. -/
def maskKeeps (maskp : Nat) (seed base : W64) (b i : Nat) : Bool :=
  maskp == 0 || decide (acornDraw seed base domMask b i < maskp)

end Sys2Proof.Machine
end

