-- ==== Sys2Proof/Machine/Aes.lean ====
section
/-!
DEFINITION. AES-256 in XTS mode, as R196 names it: the cipher over bytes, its inverse, and the XTS data unit
of whole 16 B blocks (no ciphertext stealing).
-/
namespace Sys2Proof.Machine

/-- Multiplication by x in GF(2^8) with the AES polynomial. -/
def xtime (b : Byte) : Byte := if b.getLsbD 7 then (b <<< 1) ^^^ 0x1B else b <<< 1

def gmulFuel : Nat → Byte → Byte → Byte
  | 0, _, _ => 0
  | n + 1, a, b => (if b.getLsbD 0 then a else 0) ^^^ gmulFuel n (xtime a) (b >>> 1)

def gmul (a b : Byte) : Byte := gmulFuel 8 a b

/-- The inverse in GF(2^8): the 254th power, 0 for 0. -/
def ginv (a : Byte) : Byte :=
  let a2 := gmul a a
  let a4 := gmul a2 a2
  let a8 := gmul a4 a4
  let a16 := gmul a8 a8
  let a32 := gmul a16 a16
  let a64 := gmul a32 a32
  let a128 := gmul a64 a64
  gmul a128 (gmul a64 (gmul a32 (gmul a16 (gmul a8 (gmul a4 a2)))))

def sbox (a : Byte) : Byte :=
  let b := ginv a
  b ^^^ b.rotateLeft 1 ^^^ b.rotateLeft 2 ^^^ b.rotateLeft 3 ^^^ b.rotateLeft 4 ^^^ 0x63

def sboxInv (a : Byte) : Byte :=
  ginv (a.rotateLeft 1 ^^^ a.rotateLeft 3 ^^^ a.rotateLeft 6 ^^^ 0x05)

def xorBytes : List Byte → List Byte → List Byte
  | a :: l, b :: m => (a ^^^ b) :: xorBytes l m
  | _, _ => []

def at8 (l : List Byte) (i : Nat) : Byte := (l[i]?).getD 0

/-- The next key-schedule word from the word before it and the word 8 before it. -/
def keyWord (i : Nat) (prev back : List Byte) (rcon : Byte) : List Byte :=
  let t :=
    if i % 8 = 0 then
      let r := (prev.drop 1 ++ prev.take 1).map sbox
      match r with
      | [] => []
      | a :: l => (a ^^^ rcon) :: l
    else if i % 8 = 4 then prev.map sbox
    else prev
  xorBytes back t

/-- `n` more words; `ws` holds the words so far, newest first. -/
def keyWords : Nat → Nat → Byte → List (List Byte) → List (List Byte)
  | 0, _, _, ws => ws
  | n + 1, i, rcon, ws =>
    let w := keyWord i ((ws[0]?).getD []) ((ws[7]?).getD []) rcon
    keyWords n (i + 1) (if i % 8 = 0 then xtime rcon else rcon) (w :: ws)

/-- The 15 round keys of a 32 B key. -/
def roundKeys (key : List Byte) : List (List Byte) :=
  let ws := (keyWords 52 8 1 (chop 4 8 key).reverse).reverse
  chop 16 15 ws.flatten

/-- Byte `4c + r` of the state comes from column `c + r` (ShiftRows), or `c − r` for the inverse. -/
def shiftRows (s : List Byte) : List Byte :=
  (List.range 16).map (fun i => at8 s (4 * ((i / 4 + i % 4) % 4) + i % 4))

def shiftRowsInv (s : List Byte) : List Byte :=
  (List.range 16).map (fun i => at8 s (4 * ((i / 4 + 4 - i % 4) % 4) + i % 4))

/-- Each column times the circulant matrix whose first row is `m0 m1 m2 m3`. -/
def mixColumns (m0 m1 m2 m3 : Byte) (s : List Byte) : List Byte :=
  (List.range 16).map (fun i =>
    let c := i / 4 * 4
    let r := i % 4
    gmul m0 (at8 s (c + r)) ^^^ gmul m1 (at8 s (c + (r + 1) % 4)) ^^^
      gmul m2 (at8 s (c + (r + 2) % 4)) ^^^ gmul m3 (at8 s (c + (r + 3) % 4)))

def aesRounds : List (List Byte) → List Byte → List Byte
  | [], s => s
  | [k], s => xorBytes (shiftRows (s.map sbox)) k
  | k :: ks, s => aesRounds ks (xorBytes (mixColumns 2 3 1 1 (shiftRows (s.map sbox))) k)

def aesEnc (key blk : List Byte) : List Byte :=
  match roundKeys key with
  | [] => blk
  | k :: ks => aesRounds ks (xorBytes blk k)

def aesRoundsInv : List (List Byte) → List Byte → List Byte
  | [], s => s
  | [k], s => xorBytes ((shiftRowsInv s).map sboxInv) k
  | k :: ks, s => aesRoundsInv ks (mixColumns 14 11 13 9 (xorBytes ((shiftRowsInv s).map sboxInv) k))

def aesDec (key blk : List Byte) : List Byte :=
  match (roundKeys key).reverse with
  | [] => blk
  | k :: ks => aesRoundsInv ks (xorBytes blk k)

/-- The tweak times the primitive element of GF(2^128), little-endian. -/
def tweakNext (t : List Byte) : List Byte :=
  let v := leNat t
  let d := v * 2 % 2 ^ 128
  leBytes 16 (if bit v 127 then d ^^^ 0x87 else d)

def xtsBlocks (f : List Byte → List Byte) : List (List Byte) → List Byte → List Byte
  | [], _ => []
  | b :: bs, t => xorBytes (f (xorBytes b t)) t ++ xtsBlocks f bs (tweakNext t)

/-- One data unit under the 64 B key slot and the ledger address `tweak` (R196). -/
def xtsEnc (slot : List Byte) (tweak : Nat) (data : List Byte) : List Byte :=
  xtsBlocks (aesEnc (slot.take 32)) (chop 16 (data.length / 16 + 1) data)
    (aesEnc (slot.drop 32) (leBytes 16 tweak))

def xtsDec (slot : List Byte) (tweak : Nat) (data : List Byte) : List Byte :=
  xtsBlocks (aesDec (slot.take 32)) (chop 16 (data.length / 16 + 1) data)
    (aesEnc (slot.drop 32) (leBytes 16 tweak))

end Sys2Proof.Machine
end

