-- ==== Sys2Proof/Machine/Crc.lean ====
section
/-!
DEFINITION. CRC-32C (R193) and the CRC-64 of the check trailer (R198), both processed reflected.
-/
namespace Sys2Proof.Machine

def crcBit {w : Nat} (poly c : BitVec w) : BitVec w :=
  if c.getLsbD 0 then (c >>> 1) ^^^ poly else c >>> 1

def crcByte {w : Nat} (poly c : BitVec w) (b : Byte) : BitVec w :=
  let c := c ^^^ b.setWidth w
  crcBit poly (crcBit poly (crcBit poly (crcBit poly
    (crcBit poly (crcBit poly (crcBit poly (crcBit poly c)))))))

def crcRun {w : Nat} (poly : BitVec w) : BitVec w → List Byte → BitVec w
  | c, [] => c
  | c, b :: l => crcRun poly (crcByte poly c b) l

def crc32c (l : List Byte) : W32 := crcRun 0x82F63B78 0xFFFFFFFF l ^^^ 0xFFFFFFFF

/-- The reflected form of polynomial 0x42F0E1EBA9EA3693. -/
def crc64 (l : List Byte) : W64 := crcRun 0xC96C5795D7870F42 0xFFFFFFFFFFFFFFFF l ^^^ 0xFFFFFFFFFFFFFFFF

def crcField (l : List Byte) : List Byte := leBytes 4 (crc32c l).toNat

end Sys2Proof.Machine
end

