-- ==== Sys2Proof/Machine/Float.lean ====
section
/-!
DEFINITION. Stored formats (R179), exact values, conversion and its rounding (R181–R183), the observation
marks (R246–R248), the amax in FP32 (R253), and the scale (R255).
-/
namespace Sys2Proof.Machine

/-- FMT and SRC codes (R174, R179). -/
def Fmt.code : Fmt → Nat
  | .fp32 => 0 | .bf16 => 1 | .fp16 => 2 | .e4m3 => 3 | .e5m2 => 4

def fmtOf : Nat → Option Fmt
  | 0 => some .fp32 | 1 => some .bf16 | 2 => some .fp16 | 3 => some .e4m3 | 4 => some .e5m2 | _ => none

def Fmt.bytes : Fmt → Nat
  | .fp32 => 4 | .bf16 | .fp16 => 2 | .e4m3 | .e5m2 => 1

def Fmt.ebits : Fmt → Nat
  | .fp32 | .bf16 => 8 | .fp16 | .e5m2 => 5 | .e4m3 => 4

def Fmt.mbits : Fmt → Nat
  | .fp32 => 23 | .bf16 => 7 | .fp16 => 10 | .e4m3 => 3 | .e5m2 => 2

def Fmt.bias : Fmt → Nat
  | .fp32 | .bf16 => 127 | .fp16 | .e5m2 => 15 | .e4m3 => 7

def Fmt.largest : Fmt → Nat
  | .fp32 => 0x7F7FFFFF | .bf16 => 0x7F7F | .fp16 => 0x7BFF | .e4m3 => 0x7E | .e5m2 => 0x7B

def Fmt.nonfinite : Fmt → Nat
  | .fp32 => 0x7F800000 | .bf16 => 0x7F80 | .fp16 => 0x7C00 | .e4m3 => 0x7F | .e5m2 => 0x7C

def Fmt.canonNan : Fmt → Nat
  | .fp32 => 0x7FC00000 | .bf16 => 0x7FC0 | .fp16 => 0x7E00 | .e4m3 => 0x7F | .e5m2 => 0x7E

def Fmt.is8 (f : Fmt) : Bool := f.bytes == 1

/-- An element's value, exactly: a NaN, an infinity with its sign, or `v · 2^e`. -/
inductive Num where
  | nan
  | inf (neg : Bool)
  | fin (v e : Int)
  deriving DecidableEq, Repr

/-- Sign, exponent field and mantissa field of a pattern. -/
def fltParts (f : Fmt) (x : Nat) : Nat × Nat × Nat :=
  (x >>> (f.ebits + f.mbits) % 2, natBits x (f.ebits + f.mbits - 1) f.mbits, x % 2 ^ f.mbits)

def isSubnormal (f : Fmt) (x : Nat) : Bool :=
  let p := fltParts f x
  p.2.1 == 0 && p.2.2 != 0

/-- The value of a pattern. -/
def fltVal (f : Fmt) (x : Nat) : Num :=
  let p := fltParts f x
  let neg := p.1 == 1
  let sgn : Int := if neg then -1 else 1
  let lo : Int := 1 - (f.bias : Int) - (f.mbits : Int)
  if p.2.1 == 2 ^ f.ebits - 1 && (f != .e4m3 || p.2.2 == 7) then
    if f != .e4m3 && p.2.2 == 0 then .inf neg else .nan
  else if p.2.1 == 0 then .fin (sgn * p.2.2) lo
  else .fin (sgn * ((2 ^ f.mbits + p.2.2 : Nat) : Int)) (lo + p.2.1 - 1)

/-- Both mantissas at the smaller exponent, and that exponent. -/
def alignDy (a ea b eb : Int) : Int × Int × Int :=
  let e := min ea eb
  (a * (2 ^ (ea - e).toNat : Nat), b * (2 ^ (eb - e).toNat : Nat), e)

def dyLt (a ea b eb : Int) : Bool :=
  let p := alignDy a ea b eb
  decide (p.1 < p.2.1)

/-- Exact order of two values that are no NaN. -/
def numLt : Num → Num → Bool
  | .inf true, .inf true => false
  | .inf true, _ => true
  | _, .inf true => false
  | .inf false, _ => false
  | _, .inf false => true
  | .fin a ea, .fin b eb => dyLt a ea b eb
  | _, _ => false

/-- Exact sum; an infinity stays. -/
def numAdd : Num → Num → Num
  | .fin a ea, .fin b eb => let p := alignDy a ea b eb; .fin (p.1 + p.2.1) p.2.2
  | .fin _ _, x => x
  | x, _ => x

/-- Binary exponent of a magnitude `m · 2^e`, `m > 0`. -/
def binExp (m : Nat) (e : Int) : Int := (Nat.log2 m : Int) + e

/-- R182 and R183: `m · 2^e` rounded to `mb + 1` significant bits; `draw` is the draw of ROUND 1. -/
def roundMag (mb : Nat) (draw : Option Nat) (m : Nat) (e : Int) : Nat × Int :=
  let sh := Nat.log2 m - mb
  if sh = 0 then (m, e)
  else
    let q := m >>> sh
    let r := m % 2 ^ sh
    let up :=
      match draw with
      | none => decide (2 ^ (sh - 1) < r) || (r == 2 ^ (sh - 1) && q % 2 == 1)
      | some u => decide (65536 ≤ r * 65536 / 2 ^ sh + u)
    (if up then q + 1 else q, e + sh)

/-- The pattern of a value that the format holds as a normal number. -/
def encodeMag (f : Fmt) (neg : Bool) (m : Nat) (e : Int) : Nat :=
  let l := Nat.log2 m
  let man := if l ≤ f.mbits then m <<< (f.mbits - l) else m >>> (l - f.mbits)
  let ex := (binExp m e + f.bias).toNat
  b2n neg <<< (f.ebits + f.mbits) ||| ex <<< f.mbits ||| (man - 2 ^ f.mbits)

/-- A magnitude rounded up to FP32 and held at most at the largest finite (R253). -/
def fp32Up (m : Nat) (e : Int) : W32 :=
  if m = 0 then 0
  else
    let k := max (binExp m e) (-126)
    let q := k - 23
    let n : Nat := if q ≤ e then m * 2 ^ (e - q).toNat else ceilDiv m (2 ^ (q - e).toNat)
    let v : Nat :=
      if n < 2 ^ 23 then n
      else if n = 2 ^ 24 then (k + 128).toNat <<< 23
      else (k + 127).toNat <<< 23 ||| (n - 2 ^ 23)
    BitVec.ofNat 32 (min v 0x7F7FFFFF)

/-- What one element shows where it is observed (R181, R246): its marks, an infinity in its source or a
non-finite result (R267), the value fed to amax, and the binary exponent of a nonzero value fed. -/
structure Obs where
  nan : Bool := false
  ovf : Bool := false
  vanish : Bool := false
  nonfin : Bool := false
  feed : Option W32 := none
  bexp : Option Int := none
  deriving DecidableEq, Repr

def feedOf (v e : Int) : Option W32 × Option Int :=
  (some (fp32Up v.natAbs e), if v = 0 then none else some (binExp v.natAbs e))

/-- A BIAS or clip bound as used: a subnormal is +0 (R178). -/
def constVal (x : W32) : Num := if isSubnormal .fp32 x.toNat then .fin 0 0 else fltVal .fp32 x.toNat

def isZeroNum : Num → Bool
  | .fin a _ => a == 0
  | _ => false

/-- R176 and R177: the entry passes its elements unchanged. -/
def identityPath (e : Entry) : Bool :=
  e.disp == .keep ||
    (e.fmt == e.src && isZeroNum (constVal e.bias) && e.clipLo == 0xFF800000 && e.clipHi == 0x7F800000)

/-- convert of R181: the stored pattern and what is observed. -/
def convertElem (en : Entry) (scale : Nat) (draw : Nat) (x : Nat) : Nat × Obs :=
  let f := en.fmt
  match fltVal en.src x with
  | .nan => (f.canonNan, { nan := true, nonfin := true })
  | x0 =>
    let sub := isSubnormal en.src x
    let srcInf := match x0 with | .inf _ => true | _ => false
    let x1 := if sub then .fin 0 0 else x0
    let v := numAdd x1 (constVal en.bias)
    let v := if numLt v (constVal en.clipLo) then constVal en.clipLo else v
    let v := if numLt (constVal en.clipHi) v then constVal en.clipHi else v
    match v with
    | .nan => (f.canonNan, { nan := true, nonfin := true })
    | .inf neg =>
      ((if en.sat then f.largest ||| b2n neg <<< (f.ebits + f.mbits)
        else f.nonfinite ||| b2n neg <<< (f.ebits + f.mbits)),
        { ovf := true, vanish := sub, nonfin := srcInf || !en.sat })
    | .fin a e =>
      let fd := feedOf a e
      let e := if f.is8 && scale != 0 then e + ((scale : Int) - 128) else e
      if a = 0 then (0, { vanish := sub, nonfin := srcInf, feed := fd.1, bexp := fd.2 })
      else
        let neg := decide (a < 0)
        let r := roundMag f.mbits (if en.stoch then some draw else none) a.natAbs e
        let big := match fltVal f f.largest with
          | .fin l el => dyLt l el r.1 r.2
          | _ => false
        if big then
          ((if en.sat then f.largest ||| b2n neg <<< (f.ebits + f.mbits)
            else f.nonfinite ||| b2n neg <<< (f.ebits + f.mbits)),
            { ovf := true, vanish := sub, nonfin := srcInf || !en.sat, feed := fd.1, bexp := fd.2 })
        else if binExp r.1 r.2 < 1 - (f.bias : Int) then
          (0, { vanish := true, nonfin := srcInf, feed := fd.1, bexp := fd.2 })
        else (encodeMag f neg r.1 r.2, { vanish := sub, nonfin := srcInf, feed := fd.1, bexp := fd.2 })

/-- The tap of the identity path (R246). -/
def tapElem (f : Fmt) (x : Nat) : Obs :=
  match fltVal f x with
  | .nan => { nan := true, nonfin := true }
  | .inf _ => { ovf := true, nonfin := true }
  | .fin a e => if isSubnormal f x then { feed := some 0 } else { feed := (feedOf a e).1 }

/-! ## Amax and scale -/

/-- A ring value that counts: finite and not negative (R254). -/
def amaxValid (x : W32) : Bool := x.toNat < 0x7F800000

/-- H, the largest valid value held, 0 with none. -/
def amaxH (a : Amax) : W32 :=
  BitVec.ofNat 32 (maxNat (((List.range (min a.count 16)).map (fun i =>
    ((a.vals[(a.head + 16 - i) % 16]?).getD 0))).map (fun x => if amaxValid x then x.toNat else 0)))

/-- Exact product test `H · 2^k ≤ M · 2^(−margin)`. -/
def scaleFits (h : W32) (f : Fmt) (margin : Nat) (s : Nat) : Bool :=
  match fltVal .fp32 h.toNat, fltVal f f.largest with
  | .fin a ea, .fin b eb => !dyLt b (eb - margin) a (ea + ((s : Int) - 128))
  | _, _ => false

/-- The scale index of a stash task (R255, R180). -/
def chooseScale (f : Fmt) (sc : W64) (ring : Option Amax) : Nat :=
  let init := if W64.bits sc 7 0 = 0 then 128 else W64.bits sc 7 0
  if !f.is8 then 0
  else
    match ring with
    | none => init
    | some a =>
      let h := amaxH a
      if a.count = 0 || h = 0 then init
      else (((List.range 255).reverse.map (· + 1)).find? (scaleFits h f (W64.bits sc 10 8))).getD 1

/-- R267: the running amax exceeds 2^JUMP × H. -/
def jumpExceeds (jump : Nat) (h amax : W32) : Bool :=
  match fltVal .fp32 h.toNat, fltVal .fp32 amax.toNat with
  | .fin a ea, .fin b eb => dyLt a (ea + jump) b eb
  | _, _ => false

end Sys2Proof.Machine
end

