-- ==== Sys2Proof/Machine/Husk.lean ====
section
/-!
DEFINITION. The Husk block: header (R174, R175), sub-streams (R184–R189), plain storage (R190–R192), CRC
(R193), check trailer and sealing (R195–R198), and the faults of a block (R200–R205).
-/
namespace Sys2Proof.Machine

/-- The header's fields (R174), as they stand. -/
structure HuskHdr where
  tensorLo : Nat := 0
  rawLen : Nat := 0
  stoch : Bool := false
  sat : Bool := false
  synth : Bool := false
  conv : Bool := false
  scale : Nat := 0
  src : Nat := 0
  fmt : Nat := 0
  mode : Nat := 0
  sign : Nat := 0x48
  len0 : Nat := 0
  len1 : Nat := 0
  len2 : Nat := 0
  len3 : Nat := 0
  block : Nat := 0
  stage : Nat := 0
  mb : Nat := 0
  rsvd : Bool := false
  crc : Nat := 0
  deriving DecidableEq, Repr

/-- Bytes 0–27 of the header. -/
def huskHead28 (h : HuskHdr) : List Byte :=
  leBytes 8 (wordN [(h.sign, 0), (h.mode, 8), (h.fmt, 10), (h.src, 13), (h.scale, 16), (b2n h.conv, 24),
    (b2n h.synth, 25), (b2n h.sat, 26), (b2n h.stoch, 27), (h.rawLen, 32), (h.tensorLo % 2 ^ 16, 48)]) ++
  leBytes 8 (wordN [(h.len0, 0), (h.len1, 16), (h.len2, 32), (h.len3, 48)]) ++
  leBytes 8 (wordN [(h.block % 2 ^ 24, 0), (h.stage, 24), (h.mb, 30)]) ++ leBytes 4 0

/-- A block: its header with the CRC of R193, and its payload. -/
def huskBlock (h : HuskHdr) (payload : List Byte) : List Byte :=
  let a := huskHead28 h
  a ++ crcField (a ++ payload) ++ payload

def huskParse (l : List Byte) : HuskHdr :=
  let a := rdNat l 0 8
  let b := rdNat l 8 8
  let c := rdNat l 16 8
  { sign := natBits a 7 0, mode := natBits a 9 8, fmt := natBits a 12 10, src := natBits a 15 13
    scale := natBits a 23 16, conv := bit a 24, synth := bit a 25, sat := bit a 26, stoch := bit a 27
    rawLen := natBits a 44 32, tensorLo := natBits a 63 48
    len0 := natBits b 15 0, len1 := natBits b 31 16, len2 := natBits b 47 32, len3 := natBits b 63 48
    block := natBits c 23 0, stage := natBits c 29 24, mb := natBits c 35 30
    rsvd := natBits a 31 28 != 0 || natBits a 47 45 != 0 || natBits c 63 36 != 0 || rdNat l 24 4 != 0
    crc := rdNat l 28 4 }

def HuskHdr.units (h : HuskHdr) : Nat := h.len0 + h.len1 + h.len2 + h.len3
def HuskHdr.blockLen (h : HuskHdr) : Nat := 32 + 16 * h.units
def HuskHdr.srcF (h : HuskHdr) : Fmt := (fmtOf h.src).getD .fp32
def HuskHdr.fmtF (h : HuskHdr) : Fmt := (fmtOf h.fmt).getD .fp32
def HuskHdr.elems (h : HuskHdr) : Nat := h.rawLen / h.srcF.bytes
def HuskHdr.plain (h : HuskHdr) : Nat := h.elems * h.fmtF.bytes
def HuskHdr.plainPad (h : HuskHdr) : Nat := roundUp h.plain 16

/-- R175. -/
def huskHdrBad (h : HuskHdr) : Bool :=
  h.sign != 0x48 || decide (2 ≤ h.mode) || decide (5 ≤ h.fmt) || decide (3 ≤ h.src) ||
  decide (h.srcF.bytes < h.fmtF.bytes) || (!h.conv && h.fmt != h.src) ||
  h.rawLen == 0 || decide (4096 < h.rawLen) || h.rawLen % 16 != 0 || (h.synth && h.mode != 0) || h.rsvd

/-- LENFAULT kinds (R398). -/
def kFrame : Nat := 0
def kBypass : Nat := 1
def kOverrun : Nat := 2
def kUnderrun : Nat := 3
def kRecord : Nat := 4

/-- FRAME and BYPASS of Table: Length faults. -/
def huskLenBad (h : HuskHdr) : Option Nat :=
  if 4128 < h.blockLen then some kFrame
  else if h.mode = 0 ∧ (h.len0 ≠ h.plainPad / 16 ∨ h.len1 ≠ 0 ∨ h.len2 ≠ 0 ∨ h.len3 ≠ 0) then some kBypass
  else none

def huskCrcOk (h : HuskHdr) (blk : List Byte) : Bool :=
  (crc32c (blk.take 28 ++ (blk.drop 32).take (16 * h.units))).toNat == h.crc

/-! ## Sub-streams -/

/-- The patterns of a byte list, `w` bytes each. -/
def elemsOf (w : Nat) (n : Nat) (l : List Byte) : List Nat := (List.range n).map (fun i => rdNat l (w * i) w)

def elemBytes (w : Nat) (xs : List Nat) : List Byte := (xs.map (leBytes w)).flatten

/-- Every fourth element from `k` (R184). -/
def everyFourth (k : Nat) (xs : List Nat) : List Nat :=
  (List.range ((xs.length + 3 - k) / 4)).map (fun p => (xs[4 * p + k]?).getD 0)

/-- Groups of eight positions. -/
def groups8 : Nat → List Nat → List (List Nat)
  | 0, _ => []
  | n + 1, xs => xs.take 8 :: groups8 n (xs.drop 8)

/-- A bit per element of `l`, from bit 0 up. -/
def boolBits : List Bool → Nat
  | [] => 0
  | b :: l => b2n b + 2 * boolBits l

/-- A sub-stream as the encoder writes it (R185–R188). -/
def subEncode (f : Fmt) (xs : List Nat) : List Byte :=
  let m := f.mbits
  let g := ceilDiv xs.length 8
  let gs := groups8 g xs
  let live := gs.map (fun l => l.any (· != 0))
  let nz := xs.filter (· != 0)
  let exps := nz.map (fun x => natBits x (f.ebits + m - 1) m)
  let lo := exps.foldl min (2 ^ f.ebits)
  let base := if nz.isEmpty then 0 else lo
  let width := bitLen (maxNat exps - base)
  let sm := nz.map (fun x => (x >>> (f.ebits + m)) % 2 * 2 ^ m + x % 2 ^ m)
  let body :=
    [BitVec.ofNat 8 base, BitVec.ofNat 8 width] ++ leBytes 2 nz.length ++
    leBytes (ceilDiv g 8) (boolBits live) ++
    (gs.filter (fun l => l.any (· != 0))).map (fun l => BitVec.ofNat 8 (boolBits (l.map (· != 0)))) ++
    leBytes (ceilDiv (nz.length * width) 8) (packBits (exps.map (fun e => (e - base, width)))) ++
    leBytes (ceilDiv (nz.length * (m + 1)) 8) (packBits (sm.map (fun v => (v, m + 1))))
  padTo body (roundUp body.length 16)

/-- What decoding a sub-stream gives: its elements and whether its declared length is longer than needed or its
pad is not zero (faults found after the last element), or a fault found before its elements are complete, with the
positions complete by then and their elements. -/
inductive SubOut where
  | good (xs : List Nat) (late : Option (Status × Nat))
  | bad (st : Status) (kind ok : Nat) (xs : List Nat)
  deriving DecidableEq, Repr

/-- The set bits of lane masks spread over `n` positions: for each position whether it is nonzero. -/
def lanePositions : List Bool → List Byte → List Bool
  | [], _ => []
  | false :: gs, ms => List.replicate 8 false ++ lanePositions gs ms
  | true :: gs, [] => List.replicate 8 false ++ lanePositions gs []
  | true :: gs, b :: ms => (List.range 8).map (fun j => b.getLsbD j) ++ lanePositions gs ms

/-- Puts the nonzero elements in their positions. -/
def spread : List Bool → List Nat → List Nat
  | [], _ => []
  | false :: ps, xs => 0 :: spread ps xs
  | true :: ps, [] => 0 :: spread ps []
  | true :: ps, x :: xs => x :: spread ps xs

/-- The position of the element after the first `z` nonzero ones. -/
def posAfter : Nat → Nat → List Bool → Nat
  | _, i, [] => i
  | z, i, false :: ps => posAfter z (i + 1) ps
  | 0, i, true :: _ => i
  | z + 1, i, true :: ps => posAfter z (i + 1) ps

/-- A fault in the elements of a sub-stream: the position of the element at which it is found, status and LENFAULT kind. -/
abbrev ElemFault := Nat × Status × Nat

/-- The fault at the lowest position; of those at one position the first of the list. -/
def firstAt : List ElemFault → Option ElemFault
  | [] => none
  | q :: qs => some (qs.foldl (fun b r => if r.1 < b.1 then r else b) q)

/-- What stands behind the preamble and the run map of a sub-stream: its element groups that are live, the lane masks held,
and where its planes begin. `nnz` places the mantissa plane. -/
structure SubParts where
  live : List Bool
  groups : List Nat
  masks : List Byte
  expAt : Nat
  manAt : Nat
  deriving DecidableEq, Repr

def subParts (g rmap avail nnz width : Nat) (l : List Byte) : SubParts :=
  let gb := ceilDiv g 8
  let groups := (List.range g).filter rmap.testBit
  let expAt := 4 + gb + groups.length
  { live := (List.range g).map rmap.testBit, groups, masks := sub l (4 + gb) (min groups.length (avail - (4 + gb)))
    expAt, manAt := expAt + ceilDiv (nnz * width) 8 }

/-- The faults of a sub-stream's masks and planes, each at the element at which a decoder that goes from element to element
meets it: a missing or malformed mask at its group's first element, NNZ where the count passes it or with the last mask, a
field that is missing or too large at its element, the exponent plane's pad at the last nonzero element (R189, R202, R203;
DESIGN CHOICE, log entry 22). -/
def SubParts.faults (x : SubParts) (f : Fmt) (n avail nnz base width : Nat) (l : List Byte) : List ElemFault :=
  let pos := lanePositions x.live x.masks
  let z := (pos.filter id).length
  let nth := fun (i : Nat) => posAfter i 0 pos
  let at_ := fun (i : Nat) => 8 * (x.groups[i]?).getD 0
  let nl := x.groups.length
  let badMask := fun (i : Nat) => (x.masks[i]?).getD 0 == 0 || ((List.range 8).any (fun j =>
    decide (n ≤ at_ i + j) && ((x.masks[i]?).getD 0).getLsbD j))
  let expHeld := if width = 0 then z else min z ((avail - x.expAt) * 8 / width)
  let manHeld := min z ((avail - x.manAt) * 8 / (f.mbits + 1))
  let ep := rdNat l x.expAt (x.manAt - x.expAt)
  let when_ := fun (b : Bool) (p : Nat) (st : Status) (k : Nat) => if b then [((p, st, k) : ElemFault)] else []
  when_ (decide (x.masks.length < nl)) (at_ x.masks.length) .lenfault kOverrun ++
  ((List.range x.masks.length).filter badMask).map (fun i => (at_ i, .huskData, 0)) ++
  when_ (x.masks.length == nl && decide (z < nnz)) (at_ (nl - 1)) .huskData 0 ++
  when_ (decide (nnz < z)) (nth nnz) .huskData 0 ++
  when_ (decide (expHeld < z)) (nth expHeld) .lenfault kOverrun ++
  ((List.range expHeld).filter (fun i => decide (2 ^ f.ebits ≤ base + fieldAt ep width i))).map (fun i => (nth i, .huskData, 0)) ++
  when_ (expHeld == z && decide (0 < z) && ep >>> (z * width) != 0) (nth (z - 1)) .huskData 0 ++
  when_ (decide (manHeld < z)) (nth manHeld) .lenfault kOverrun

/-- The first `n` elements of a sub-stream as its masks and planes give them. -/
def SubParts.elems (x : SubParts) (f : Fmt) (n base width : Nat) (l : List Byte) : List Nat :=
  let m := f.mbits
  let pos := lanePositions x.live x.masks
  let z := (pos.filter id).length
  let ep := rdNat l x.expAt (x.manAt - x.expAt)
  let mp := rdNat l x.manAt (ceilDiv (z * (m + 1)) 8)
  spread (pos.take n) ((List.range z).map (fun i =>
    let v := fieldAt mp (m + 1) i
    (v >>> m) <<< (f.ebits + m) ||| (base + fieldAt ep width i) <<< m ||| v % 2 ^ m))

/-- What is wrong behind the last element: the mantissa plane's pad or the pad bytes, or a length beyond need. -/
def SubParts.late (x : SubParts) (f : Fmt) (avail : Nat) (l : List Byte) : Option (Status × Nat) :=
  let m := f.mbits
  let z := ((lanePositions x.live x.masks).filter id).length
  let l2 := ceilDiv (z * (m + 1)) 8
  let used := x.manAt + l2
  if rdNat l x.manAt l2 >>> (z * (m + 1)) != 0 || rdNat l used (roundUp used 16 - used) != 0 then some (.huskData, 0)
  else if roundUp used 16 < avail then some (.lenfault, kUnderrun)
  else none

/-- R189, R202 and R203: decodes `n` elements from a sub-stream of `len` units. The preamble and the run map are judged
first; a part of them that does not fit is OVERRUN before its content is judged. Of the faults behind them the one at the
lowest element is found (DESIGN CHOICE, log entry 22). -/
def subDecode (f : Fmt) (n len : Nat) (l : List Byte) : SubOut :=
  let avail := 16 * len
  let g := ceilDiv n 8
  let gb := ceilDiv g 8
  let base := rdNat l 0 1
  let width := rdNat l 1 1
  let nnz := rdNat l 2 2
  let rmap := rdNat l 4 gb
  if avail < 4 then .bad .lenfault kOverrun 0 []
  else if 8 < width then .bad .huskData 0 0 []
  else if avail < 4 + gb then .bad .lenfault kOverrun 0 []
  else if rmap >>> g != 0 then .bad .huskData 0 0 []
  else
    let x := subParts g rmap avail nnz width l
    let xs := x.elems f n base width l
    match firstAt (x.faults f n avail nnz base width l) with
    | some (p, st, k) => .bad st k p xs
    | none => .good xs (x.late f avail l)

/-- The four element lists taken in turn. -/
def interleave (n : Nat) (p0 p1 p2 p3 : List Nat) : List Nat :=
  (List.range n).map (fun i =>
    let p := i / 4
    match i % 4 with
    | 0 => (p0[p]?).getD 0
    | 1 => (p1[p]?).getD 0
    | 2 => (p2[p]?).getD 0
    | _ => (p3[p]?).getD 0)

/-- A fault of a frame: status, LENFAULT kind, sub-stream or 7. -/
abbrev PortFault := Status × Nat × Nat

/-- What an expander gets from a block's payload: its stored elements; where some fault is found before all of them are
complete, the faults of its sub-streams, else those found after the last; each with the cclk from the start of its decoder
to the fault. `good` elements are complete in every sub-stream. -/
structure BlockOut where
  elems : List Nat := []
  firsts : List (Nat × PortFault) := []
  lasts : List (Nat × PortFault) := []
  good : Nat := 0
  deriving DecidableEq, Repr

/-- A fault in a sub-stream's preamble or run map is found as its 2 cclk of parsing end; one at element `ok` in the cclk in
which its decoder, at 16 B per cclk, would give that element (R224; DESIGN CHOICE, log entry 22). -/
def subFault (w k : Nat) : SubOut → Option (Nat × PortFault)
  | .bad st kd ok xs => some (if xs.isEmpty then 2 else 3 + ok * w / 16, (st, kd, k))
  | .good _ _ => none

/-- A fault found as the sub-stream ends, `q` cclk after its parsing (R224). -/
def subLate (q k : Nat) : SubOut → Option (Nat × PortFault)
  | .good _ (some (st, kd)) => some (2 + q, (st, kd, k))
  | _ => none

def subElems : SubOut → List Nat
  | .good xs _ => xs
  | .bad _ _ _ xs => xs

/-- The elements of `n` complete in index order when sub-stream `k` is as `o` says. -/
def subGood (n k : Nat) : SubOut → Nat
  | .good _ _ => n
  | .bad _ _ ok _ => min n (4 * ok + k)

/-- Q of Table: Frame timing quantities (R224). -/
def HuskHdr.q (h : HuskHdr) (k : Nat) : Nat :=
  if h.mode = 0 then ceilDiv h.plainPad 64
  else
    let len := match k with
      | 0 => h.len0
      | 1 => h.len1
      | 2 => h.len2
      | _ => h.len3
    max len (ceilDiv ((h.elems + 3 - k) / 4 * h.fmtF.bytes) 16)

/-- Decodes a block whose header is valid and whose FRAME and BYPASS checks pass. -/
def huskDecode (h : HuskHdr) (blk : List Byte) : BlockOut :=
  let f := h.fmtF
  let n := h.elems
  let pay := blk.drop 32
  let crcLate : List (Nat × PortFault) := if huskCrcOk h blk then [] else [(0, (.huskCrc, 0, 7))]
  if h.mode = 0 then
    let padBad := rdNat pay h.plain (h.plainPad - h.plain) != 0
    { elems := elemsOf f.bytes n pay, good := n, lasts := if padBad then [(0, (.huskData, 0, 7))] else crcLate }
  else
    let nk := fun k => (n + 3 - k) / 4
    let s0 := subDecode f (nk 0) h.len0 (pay.take (16 * h.len0))
    let s1 := subDecode f (nk 1) h.len1 ((pay.drop (16 * h.len0)).take (16 * h.len1))
    let s2 := subDecode f (nk 2) h.len2 ((pay.drop (16 * (h.len0 + h.len1))).take (16 * h.len2))
    let s3 := subDecode f (nk 3) h.len3 ((pay.drop (16 * (h.len0 + h.len1 + h.len2))).take (16 * h.len3))
    let fs := [subFault f.bytes 0 s0, subFault f.bytes 1 s1, subFault f.bytes 2 s2, subFault f.bytes 3 s3]
    let ls := [subLate (h.q 0) 0 s0, subLate (h.q 1) 1 s1, subLate (h.q 2) 2 s2, subLate (h.q 3) 3 s3]
    -- the faults in the order of the sub-streams, each of which has one at most
    let all := ([0, 1, 2, 3].map (fun i => match (fs[i]?).getD none with
      | some q => some q
      | none => (ls[i]?).getD none)).filterMap id
    let early := fs.any Option.isSome
    { elems := interleave n (subElems s0) (subElems s1) (subElems s2) (subElems s3)
      firsts := if early then all else []
      lasts := if early then [] else if all.isEmpty then crcLate else all
      good := min (min (subGood n 0 s0) (subGood n 1 s1)) (min (subGood n 2 s2) (subGood n 3 s3)) }

/-- The fault found first when decoder k starts at `bs` k, and how many more are found at the same cclk: the lowest
sub-stream is reported (R207). The faults stand in the order of their sub-streams. -/
def firstFound (bs : List Nat) (l : List (Nat × PortFault)) : Option PortFault × Nat :=
  let l := l.map (fun q => ((bs[q.2.2.2]?).getD 0 + q.1, q.2))
  match l with
  | [] => (none, 0)
  | q :: qs =>
    let t := qs.foldl (fun m r => min m r.1) q.1
    let at_ := l.filter (fun r => r.1 == t)
    ((at_.head?).map (·.2), at_.length - 1)

/-! ## Encoding a block -/

/-- The bytes of a block from its stored elements: CODED when coding saves an eighth (R190), else RAW. -/
def huskForm (h : HuskHdr) (xs : List Nat) : List Byte :=
  let f := h.fmtF
  let subs := (List.range 4).map (fun k => subEncode f (everyFourth k xs))
  let c := sumNat (subs.map List.length)
  let lenOf := fun k => ((subs[k]?).getD []).length / 16
  if 8 * c ≤ 7 * h.plainPad then
    huskBlock { h with mode := 1, len0 := lenOf 0, len1 := lenOf 1, len2 := lenOf 2, len3 := lenOf 3 } subs.flatten
  else
    huskBlock { h with mode := 0, len0 := h.plainPad / 16, len1 := 0, len2 := 0, len3 := 0 }
      (padTo (elemBytes f.bytes xs) h.plainPad)

/-- What a lane makes of a block: the block's bytes and, on the conversion path, what it observed per element. -/
def huskEncode (en : Entry) (scale : Nat) (seed base : W64) (stage mb blk : Nat) (raw : List Byte) :
    List Byte × List Obs :=
  let w := en.src.bytes
  let n := raw.length / w
  let xs := elemsOf w n raw
  if identityPath en then
    (huskForm { tensorLo := en.tensor, rawLen := raw.length, src := en.src.code, fmt := en.src.code, block := blk,
                stage, mb } xs, [])
  else
    let ys := (List.range n).map (fun i =>
      convertElem en scale (if en.stoch then acornDraw seed base domRound blk i else 0) ((xs[i]?).getD 0))
    (huskForm { tensorLo := en.tensor, rawLen := raw.length, stoch := en.stoch, sat := en.sat, conv := true,
                scale, src := en.src.code, fmt := en.fmt.code, block := blk, stage, mb } (ys.map (·.1)),
      ys.map (·.2))

/-- The landing frame of raw data (R192). -/
def synthFrame (en : Entry) (stage mb blk : Nat) (raw : List Byte) : List Byte :=
  huskBlock { tensorLo := en.tensor, rawLen := raw.length, synth := true, src := en.src.code, fmt := en.src.code,
              len0 := raw.length / 16, block := blk, stage, mb } raw

/-! ## Sealing -/

/-- A sealed block: ciphertext and check trailer (R195–R198). -/
def sealBlock (key : List Byte) (keySlot tweak : Nat) (blk : List Byte) : List Byte :=
  let c := xtsEnc key tweak blk
  let t := leBytes 2 (c.length / 16) ++ leBytes 1 keySlot ++ leBytes 5 0
  c ++ t ++ leBytes 8 (crc64 (c ++ t)).toNat

/-- Trailer fields of a sealed block `l`. -/
def trailer (l : List Byte) : List Byte := l.drop (l.length - 16)

def trailerCheckOk (l : List Byte) : Bool :=
  rdNat (trailer l) 8 8 == (crc64 (l.take (l.length - 8))).toNat

/-- What a station expects of a received block. -/
structure Expect where
  tensor : Nat
  stage : Nat
  mb : Nat
  block : Nat
  keySlot : Nat
  storLen : Nat
  deriving DecidableEq, Repr

/-- R200 steps 1–7: the decrypted block, or the status and LENFAULT kind of the first failure. A LENFAULT of
step 1 or 6 is of kind RECORD, and the lengths are checked for BYPASS after step 6 (R202; DEDUCED, log entry 23). -/
def openBlock (key : List Byte) (tweak : Nat) (x : Expect) (l : List Byte) : Except (Status × Nat) (List Byte) :=
  let t := trailer l
  let ct := rdNat t 0 2
  if ct < 3 ∨ 258 < ct ∨ x.storLen < 16 * ct + 16 ∨ l.length ≠ 16 * ct + 16 then .error (.lenfault, kRecord)
  else if rdNat t 2 1 ≠ x.keySlot ∨ rdNat t 3 5 ≠ 0 then .error (.chkfault, 0)
  else if !trailerCheckOk l then .error (.chkfault, 0)
  else
    let b := xtsDec key tweak (l.take (16 * ct))
    let h := huskParse b
    if huskHdrBad h ∨ h.block ≠ x.block ∨ h.tensorLo ≠ x.tensor % 2 ^ 16 ∨ h.stage ≠ x.stage ∨ h.mb ≠ x.mb then
      .error (.huskHdr, 0)
    else if h.blockLen ≠ 16 * ct then .error (.lenfault, kRecord)
    else
      match huskLenBad h with
      | some k => .error (.lenfault, k)
      | none => if huskCrcOk h b then .ok b else .error (.huskCrc, 0)

end Sys2Proof.Machine
end

