-- ==== Sys2Proof/Machine/Operands.lean ====
section
/-!
DEFINITION. The fields of the structures that cross into Uzoto: layer-progress events (R24), semaphore
operations (R311), port commands (R212), descriptors (R340, R342), lodging messages (R285, R286). A field is
read by the bits its table gives; the offset a log entry gives for a field is the byte that holds its lowest bit
(DESIGN CHOICE, log entry 12).
-/
namespace Sys2Proof.Machine

/-! ## Layer-progress events (R24, R25) -/

def evKind (w : W64) : Nat := W64.bits w 3 0
def evCtx (w : W64) : Nat := W64.bits w 5 4
def evStage (w : W64) : Nat := W64.bits w 11 6
def evMb (w : W64) : Nat := W64.bits w 17 12
def evLayer (w : W64) : Nat := W64.bits w 33 18
def evTensor (w : W64) : Nat := W64.bits w 53 34
def evRsvd0 (w : W64) : Nat := W64.bits w 63 54
def evCore (w : W64) : Nat := W64.bits w 14 0
def evRsvd15 (w : W64) : Nat := W64.bits w 15 15
def evRunLen (w : W64) : Nat := W64.bits w 31 16
def evSramBase (w : W64) : Nat := W64.bits w 50 32
def evRsvd1 (w : W64) : Nat := W64.bits w 63 51

def evFwdDone : Nat := 1
def evBwdTick : Nat := 2
def evStepEnd : Nat := 3
def evMbCancel : Nat := 4

/-! ## Semaphore operations (R311) -/

def soOp (w : W64) : Nat := W64.bits w 3 0
def soCtx (w : W64) : Nat := W64.bits w 5 4
def soStation (w : W64) : Nat := W64.bits w 8 6
def soSem (w : W64) : Nat := W64.bits w 21 9
def soN (w : W64) : Nat := W64.bits w 37 22
def soCell (w : W64) : Nat := W64.bits w 42 38
def soCore (w : W64) : Nat := W64.bits w 57 43
def soRsvd0 (w : W64) : Nat := W64.bits w 63 58
def soThresh (w : W64) : Nat := W64.bits w 15 0
def soTcore (w : W64) : Nat := W64.bits w 30 16
def soRsvd31 (w : W64) : Nat := W64.bits w 31 31
def soTcount (w : W64) : Nat := W64.bits w 46 32
def soRsvd1 (w : W64) : Nat := W64.bits w 63 47

def opSignal : Nat := 1
def opArrive : Nat := 2
def opTake : Nat := 3

/-! ## Port commands (R212) -/

def pcMode (w : W64) : Nat := W64.bits w 1 0
def pcCtx (w : W64) : Nat := W64.bits w 3 2
def pcRsvd4 (w : W64) : Nat := W64.bits w 4 4
def pcRetain (w : W64) : Nat := W64.bits w 5 5
def pcPar (w : W64) : Nat := W64.bits w 6 6
def pcSeedSel (w : W64) : Nat := W64.bits w 7 7
def pcEw (w : W64) : Nat := W64.bits w 9 8
def pcEpb (w : W64) : Nat := W64.bits w 21 10
def pcElem0 (w : W64) : Nat := W64.bits w 32 22
def pcBlk0 (w : W64) : Nat := W64.bits w 56 33
def pcRsvd57 (w : W64) : Nat := W64.bits w 63 57
def pcOff (w : W64) : Nat := W64.bits w 14 0
def pcRsvd15 (w : W64) : Nat := W64.bits w 31 15
def pcCount (w : W64) : Nat := W64.bits w 47 32
def pcMaskp (w : W64) : Nat := W64.bits w 63 48

/-! ## Descriptors (R340): a line of eight words -/

def dWord (l : List W64) (i : Nat) : W64 := (l[i]?).getD 0
def dOp (l : List W64) : Nat := W64.bits (dWord l 0) 7 0
def dFence (l : List W64) : Bool := W64.bits (dWord l 0) 8 8 == 1
def dIrq (l : List W64) : Bool := W64.bits (dWord l 0) 9 9 == 1
def dLen (l : List W64) : Nat := W64.bits (dWord l 0) 15 10
def dSeq (l : List W64) : Nat := W64.bits (dWord l 0) 31 16
def dTag (l : List W64) : Nat := W64.bits (dWord l 0) 63 32
def dAddr (l : List W64) : Nat := (dWord l 1).toNat

/-- Byte `o` onward of a descriptor, `n` bytes, as a number. -/
def dBytes (l : List W64) (o n : Nat) : Nat :=
  rdNat ((l.map (fun w => leBytes 8 w.toNat)).flatten) o n

/-- The line as 64 bytes. -/
def dLine (l : List W64) : List Byte := (l.map (fun w => leBytes 8 w.toNat)).flatten

/-! ## Lodging messages: the header word `h` (R285) -/

def lmOp (h : W64) : Nat := W64.bits h 7 0

/-! ## Addresses (R8) -/

/-- Device id of a fabric address. -/
def faDev (a : Nat) : Nat := natBits a 51 48
/-- Local byte address of a fabric address. -/
def faLocal (a : Nat) : Nat := a % 2 ^ 48

end Sys2Proof.Machine
end

