-- ==== Sys2Proof/Machine/State.lean ====
section
/-!
DEFINITION. The state of Uzoto: every register, table, queue, buffer, counter, mode and pin the manual
gives the gatehouse, the stations, the port expanders and the core signal cells, the memories they read
and write, and the queue of waiting commands. Tables that are all at their reset value are empty lists.
-/
namespace Sys2Proof.Machine

/-- Why the machine stops. -/
inductive Fault where
  /-- Raised by HBM_READ_RETURN and HBM_WRITE_RESPONSE for a local fabric address at or above 1,152 GiB,
  which R157 says is no HBM. Safe: the model stops where the manual gives no outcome. -/
  | hbmAbsent
  deriving DecidableEq, Repr

/-- Why a command has no meaning here. -/
inductive Refusal where
  /-- Raised by an arm of exec whose command has no meaning yet. Safe. -/
  | notModelled (mnemonic : String)
  deriving DecidableEq, Repr

/-- The byte memories on the far side of the crossings of R2: fabric addresses of 52 bits (device id in
bits 51:48, R8), core SRAM (byte `o` of core `n` at `n * 2^19 + o`), and host memory. -/
structure Mems where
  fab : List Host.Cell := []
  sram : List Host.Cell := []
  host : List Host.Cell := []
  deriving DecidableEq, Repr

/-- The gatehouse's own register words (R429–R441) and the lock of R426. -/
structure Regs where
  testCtl : W64 := 0
  irqStat : W64 := 0
  bwGrant : W64 := 0x101010101010
  bwSplit : W64 := 0x20608
  pwrCtl : W64 := 0x9C400040100
  shedThr : W64 := 0x6970787F87
  shedCtl : W64 := 0x190A0F
  glCtl : W64 := 0x10040000
  glEpoch : W64 := 0
  glTmo : W64 := 50000
  hostTmo : W64 := 5000000
  chanIen : W64 := 0x808080808080
  keyData : Assoc W64 := []
  locked : Bool := false
  deriving DecidableEq, Repr

/-- The supply monitor and shedding sequencer (R375–R384). `span` counts the samples at or above the fall
threshold since the last change or the last sample below it; `offSpan` the same for the return. -/
structure Shed where
  level : Nat := 0
  maxLevel : Nat := 0
  sample : Nat := 0
  prevMv : Option Nat := none
  span : Nat := 0
  offSpan : Nat := 0
  off : Bool := false
  offCount : Nat := 0
  dropped : Nat := 0
  deriving DecidableEq, Repr

/-- The memories a command may write. -/
inductive Space where
  | fab | sram | host
  deriving DecidableEq, Repr

/-- A posted write of bytes, each with its address. -/
structure MemWr where
  space : Space
  bytes : List (Nat × Byte)
  deriving DecidableEq, Repr

/-- Everything the manual gives Uzoto but the memories on the far side of its crossings. -/
structure Mach where
  devid : Nat := 0
  aclk : Nat := 0
  /-- MODEL's own: how many free values have been drawn -/
  freeNo : Nat := 0
  regs : Regs := {}
  /-- key slots: 64 B, or empty (R199) -/
  keys : Assoc (Option (List Byte)) := []
  shed : Shed := {}
  ctxs : Assoc Ctx := []
  sts : Assoc Station := []
  chans : Assoc Chan := []
  hs : HostSide := {}
  msix : Msix := {}
  vlog : VLog := {}
  lodge : Lodge := {}
  exps : Assoc Expander := []
  notes : Assoc CoreNotes := []
  /-- seed tables: entry p of context c of core n at 8 n + 2 c + p (R238) -/
  seeds : Assoc W64 := []
  /-- cell k of core n at 32 n + k (R308) -/
  cells : Assoc Cell := []
  /-- semaphore i of station s at 8,192 s + i (R306) -/
  sems : Assoc Nat := []
  /-- status code a core's last completed wait returned, by core: the crossing to the core (R309) -/
  waitDone : Assoc (Option Nat) := []
  /-- the present-width pins (R4) -/
  widthPin : Assoc Nat := []
  /-- the read latches of R424, by register word address -/
  latch : Assoc (Option W64) := []
  /-- one above the aclk in which Uzoto last set a W1C bit (R426): UZ_IRQ_STAT bits at 0–63, UZ_HOST_STAT bits at 64
  plus their place, PEND of channel n at 128 + n -/
  w1cAt : Assoc Nat := []
  /-- data of the last MMIO read: the crossing to the host -/
  lastRead : W64 := 0
  /-- tickets that landed in the core task queues, newest last: the crossing to the cores (R59) -/
  ticketsOut : List Ticket := []
  /-- MODEL's own: the memory writes of the command under way, oldest first; empty between commands -/
  out : List MemWr := []
  deriving DecidableEq, Repr

/-- The machine: the commands that wait, first in, first out; the memories; and Uzoto. -/
structure State where
  pending : List Instr := []
  mem : Mems := {}
  m : Mach := {}
  deriving DecidableEq, Repr

/-- The machine right after device reset, as R386 and the registers' tables give it. -/
def State.reset : State := {}

end Sys2Proof.Machine
end

