-- ==== Sys2Proof/WellFormed.lean ====
section
/-!
DEFINITION. Well-formed commands: the operands that name a unit of the part lie in the ranges of R13, R430 and
R13's identifiers, and a payload is a whole number of 16 B units (R285). A command that fails a check names no
unit, and exec gives it no effect.
-/
namespace Sys2Proof

def okSt (n : Nat) : Bool := decide (n < Config.nStation)
def okEng (n : Nat) : Bool := decide (n < 6)
def okCore (n : Nat) : Bool := decide (n < Config.nCore)
def okPort (n : Nat) : Bool := decide (n < 2)
def okCtx (n : Nat) : Bool := decide (n < Config.nCtx)
def okCell (n : Nat) : Bool := decide (n < 32)
/-- Command rings: ring 4 c + r belongs to context c (R333). -/
def okRing (n : Nat) : Bool := decide (n < 16)
/-- Ring indices of UZ_RINGCTL: 16 command rings and 4 report rings (R430). -/
def okRingIx (n : Nat) : Bool := decide (n < 20)
def okLink (n : Nat) : Bool := decide (n < Config.nLink)
def okKey (n : Nat) : Bool := decide (n < Config.nKey)
/-- Device ids are 0 to 7 (R13). -/
def okDev (n : Nat) : Bool := decide (n < 8)
def okVec (n : Nat) : Bool := decide (n < 64)
def okMsg (m : LMsg) : Bool := m.payload.length % 16 == 0

def Instr.wf : Instr → Bool
  | .eventPost core _ _ => okCore core
  | .eventForward st | .fwdDone st | .bwdTick st | .stepEnd st | .mbCancel st => okSt st
  | .extraLeadDecrease c st tier => okCtx c && okSt st && (tier == 1 || tier == 2)
  | .stepBoundary c | .abortingEnd c => okCtx c
  | .engineDispatch st => okSt st
  | .land st e | .seta st e | .loop st e | .batch st e | .endl st e | .skiplen st e | .emit st e
  | .waitSemaphore st e | .waitDrain st e | .fin st e => okSt st && okEng e
  | .roomTake st _ | .cellarChunkTake st _ => okSt st
  | .demoteChunk c => okCtx c
  | .laneBlockDone st lane => okSt st && decide (lane < 16)
  | .transferIssue st share => okSt st && decide (share < 4)
  | .hbmWriteResponse st _ _ | .hbmReadReturn st _ _ => okSt st
  | .deferredFetchIssue st _ => okSt st
  | .deliveryBlockWrite st e => okSt st && decide (e < 3)
  | .cellWritePathIssue st _ => okSt st
  | .ticketRetry st core _ | .cellWriteLand st core => okSt st && okCore core
  | .cellWait core cell => okCore core && okCell cell
  | .signal core _ _ | .arrive core _ _ | .take core _ _ => okCore core
  | .stallThreshold c g k => okCtx c && decide (g < 64) && decide (k < 11)
  | .portCommandWrite core port _ _ _ _ => okCore core && okPort port
  | .frameCommand core port _ | .bypassCommand core port _ | .frameOpen core port _
  | .operandRequest core port _ => okCore core && okPort port
  | .portReset core => okCore core
  | .nop r | .planInstall r => okRing r
  | .installVerified => true
  | .planArm r | .planWithdraw r | .cfgSwap r | .stepAbort r | .copy r | .fill r | .compare r | .compareConst r
  | .chanAbort r | .semAdj r | .semWakeSemaphore r | .semWakeCell r | .ctxSave r | .ctxRestore r | .replay r
  | .rplRelease r | .ckptCaptureBoundary r | .ckptCaptureSnapshot r | .inline r => okRing r
  | .descriptorRead => true
  | .descriptorReadReturn r _ _ | .descriptorReread r _ => okRing r
  | .completionEntryIssue => true
  | .hostWriteGo _ _ | .hostReadData _ _ | .snoop _ => true
  | .cxlPortDown p | .cxlPortUp p | .hostLinkReset p => okPort p
  | .hostTimeout => true
  | .heldEntryTimeout r => okRing r
  | .uzDbell r _ | .uzCqdbell r _ => okRing r
  | .uzRptdbell c _ => okCtx c
  | .enable r => okRingIx r
  | .sequencerLoadDone => true
  | .disable r => okRingIx r
  | .restart r _ _ => okRingIx r
  | .load k | .clear k => okKey k
  | .attach | .detach => true
  | .wake m => decide (m < 64)
  | .clrmax => true
  | .uzChanAbort _ => true
  | .nantrapClear c => okCtx c
  | .uzVlogPtr _ | .uzGlEpoch _ | .uzTestCtl _ => true
  | .msixUnmask v => okVec v
  | .registerReadLatch _ _ | .registerWrite _ _ _ => true
  | .linkUp l d => okLink l && okDev d
  | .linkDown l _ => okLink l
  | .lodgingTimeout _ => true
  | .peerLinkTimeout d | .vlimitReached d => okDev d
  | .lodgingSend l => okLink l
  | .hello l m | .claim l m | .unclaim l m | .put l m | .putAck l m | .get l m | .more l m | .data l m
  | .free l m | .release l m | .ack l m | .nak l m | .evict l m => okLink l && okMsg m
  | .supplySample _ | .shedLevelFall | .stationsReturn => true
  | .clockGate st | .powerGate st | .stationWake st => okSt st
  | .vlogEntryWrite | .vlogMark => true
  | .deviceReset d => okDev d
  | .coreSramReadReturn st e _ => okSt st && okEng e
  | .linkLayerAcceptance st _ => okSt st

end Sys2Proof
end

