-- ==== Sys2Proof/Machine/Ops.lean ====
section
/-!
DEFINITION. The named operations every command is written over: access to the tables of the machine, memory
writes, plan look-ups, the violation log, interrupts, reports, completion events, cells and semaphores.
-/
namespace Sys2Proof.Machine

/-! ## Outcome of a command -/

abbrev Out := Host.Outcome State Fault Refusal

/-- The memories after the writes of a command. -/
def applyWrites (mem : Mems) : List MemWr → Mems
  | [] => mem
  | w :: ws =>
    match w.space with
    | .fab => applyWrites { mem with fab := memWrites mem.fab w.bytes } ws
    | .sram => applyWrites { mem with sram := memWrites mem.sram w.bytes } ws
    | .host => applyWrites { mem with host := memWrites mem.host w.bytes } ws

/-- The state after a command has made `m`: its writes are carried out and the queue is kept. -/
def commit (s : State) (m : Mach) : State :=
  { pending := s.pending, mem := applyWrites s.mem m.out, m := { m with out := [] } }

/-- Every command: an ill-formed one has no effect (log entry 2); a well-formed one makes `f` of the memories and
the machine, and its writes are carried out. -/
def act (i : Instr) (s : State) (f : Mems → Mach → Mach) : Out :=
  .next (if i.wf then commit s (f s.mem s.m) else s)

/-! ## Tables of the machine -/

def Mach.ctx (s : Mach) (c : Nat) : Ctx := aget {} s.ctxs c
def Mach.modCtx (s : Mach) (c : Nat) (f : Ctx → Ctx) : Mach := { s with ctxs := amod {} s.ctxs c f }
def Mach.st (s : Mach) (n : Nat) : Station := aget {} s.sts n
def Mach.modSt (s : Mach) (n : Nat) (f : Station → Station) : Mach := { s with sts := amod {} s.sts n f }
def Mach.chan (s : Mach) (n : Nat) : Chan := aget {} s.chans n
def Mach.modChan (s : Mach) (n : Nat) (f : Chan → Chan) : Mach := { s with chans := amod {} s.chans n f }
def Mach.modHs (s : Mach) (f : HostSide → HostSide) : Mach := { s with hs := f s.hs }
def Mach.ring (s : Mach) (n : Nat) : Ring := aget {} s.hs.rings n
def Mach.modRing (s : Mach) (n : Nat) (f : Ring → Ring) : Mach :=
  s.modHs (fun h => { h with rings := amod {} h.rings n f })
def Mach.rpt (s : Mach) (c : Nat) : RptRing := aget {} s.hs.rpts c
def Mach.modRpt (s : Mach) (c : Nat) (f : RptRing → RptRing) : Mach :=
  s.modHs (fun h => { h with rpts := amod {} h.rpts c f })
def Mach.modLodge (s : Mach) (f : Lodge → Lodge) : Mach := { s with lodge := f s.lodge }
def Mach.link (s : Mach) (l : Nat) : Link := aget {} s.lodge.links l
def Mach.modLink (s : Mach) (l : Nat) (f : Link → Link) : Mach :=
  s.modLodge (fun x => { x with links := amod {} x.links l f })
def Mach.peer (s : Mach) (d : Nat) : Peer := aget {} s.lodge.peers d
def Mach.modPeer (s : Mach) (d : Nat) (f : Peer → Peer) : Mach :=
  s.modLodge (fun x => { x with peers := amod {} x.peers d f })
def Mach.stage (s : Mach) (c g : Nat) : StageRun := aget {} (s.ctx c).stages g
def Mach.modStage (s : Mach) (c g : Nat) (f : StageRun → StageRun) : Mach :=
  s.modCtx c (fun x => { x with stages := amod {} x.stages g f })
def Mach.modStats (s : Mach) (c g : Nat) (f : StageStats → StageStats) : Mach :=
  s.modStage c g (fun x => { x with stats := f x.stats })
def Mach.eng (s : Mach) (n e : Nat) : Engine := aget {} (s.st n).engines e
def Mach.modEng (s : Mach) (n e : Nat) (f : Engine → Engine) : Mach :=
  s.modSt n (fun x => { x with engines := amod {} x.engines e f })
def Mach.task (s : Mach) (n t : Nat) : Option Task := (s.st n).tasks.find? (fun x => x.id == t)
def Mach.modTask (s : Mach) (n t : Nat) (f : Task → Task) : Mach :=
  s.modSt n (fun x => { x with tasks := modWhere (fun y => y.id == t) f x.tasks })
def Mach.dropTask (s : Mach) (n t : Nat) : Mach :=
  s.modSt n (fun x => { x with tasks := x.tasks.filter (fun y => y.id != t) })
def Mach.exp (s : Mach) (core port : Nat) : Expander := aget {} s.exps (2 * core + port)
def Mach.modExp (s : Mach) (core port : Nat) (f : Expander → Expander) : Mach :=
  { s with exps := amod {} s.exps (2 * core + port) f }
def Mach.cell (s : Mach) (core k : Nat) : Cell := aget {} s.cells (32 * core + k)
def Mach.setCell (s : Mach) (core k : Nat) (x : Cell) : Mach :=
  { s with cells := aset {} s.cells (32 * core + k) x }
def Mach.sem (s : Mach) (st i : Nat) : Nat := aget 0 s.sems (8192 * st + i)
def Mach.setSem (s : Mach) (st i v : Nat) : Mach := { s with sems := aset 0 s.sems (8192 * st + i) v }
def Mach.key (s : Mach) (k : Nat) : List Byte := (aget none s.keys k).getD (List.replicate 64 0)

/-- Repeats `f` over a list of places. -/
def overList {α : Type} (f : Mach → α → Mach) (s : Mach) (l : List α) : Mach := l.foldl f s

/-- Repeats `f` over the tasks of a station, each as it stands when its turn comes; those gone by then are passed over. -/
def Mach.overTasks (n : Nat) (f : Mach → Task → Mach) (s : Mach) : Mach :=
  overList (fun s id => match s.task n id with
    | some t => f s t
    | none => s) s ((s.st n).tasks.map (fun t => t.id))

/-! ## Memory -/

def Mach.write (s : Mach) (sp : Space) (bytes : List (Nat × Byte)) : Mach :=
  { s with out := s.out ++ [{ space := sp, bytes }] }

/-- The bytes of a write that returned an error: free values (log entry 7). -/
def Mach.writeFailed (s : Mach) (sp : Space) (bytes : List (Nat × Byte)) : Mach :=
  { s.write sp (bytes.map (fun p => (p.1, Config.freeByte s.freeNo p.1))) with freeNo := s.freeNo + 1 }

/-- A local fabric address. -/
def Mach.fabAddr (s : Mach) (a : Nat) : Nat := s.devid * 2 ^ 48 + a % 2 ^ 48

/-- Byte `o` of core `n`'s SRAM in the SRAM memory. -/
def sramAddr (core off : Nat) : Nat := core * 2 ^ 19 + off

/-- Bytes at a fabric address: core SRAM where the surroundings place it there, else the memory of the board. -/
def fabReads (mem : Mems) (a n : Nat) : List Byte :=
  (List.range n).map (fun i =>
    match Config.sramOfFabric (a + i) with
    | some x => memRead mem.sram x
    | none => memRead mem.fab (a + i))

/-- Writes to fabric addresses, each byte to the memory that holds it. -/
def Mach.writeFab (s : Mach) (bytes : List (Nat × Byte)) (err : Bool) : Mach :=
  let toSram := bytes.filterMap (fun p => (Config.sramOfFabric p.1).map (fun x => (x, p.2)))
  let toFab := bytes.filter (fun p => (Config.sramOfFabric p.1).isNone)
  let w := fun (s : Mach) sp l => if l.isEmpty then s else if err then s.writeFailed sp l else s.write sp l
  w (w s .fab toFab) .sram toSram

/-! ## Plans -/

def Mach.plan (s : Mach) (c : Nat) : Option Plan := (s.ctx c).act.plan
def Plan.stage (p : Plan) (g : Nat) : Option StageEntry := p.stages.find? (fun e => e.stage == g)
def Mach.stageOf (s : Mach) (c g : Nat) : Option StageEntry := (s.plan c).bind (fun p => p.stage g)
/-- The home station of a stage under the active plan (R26). -/
def Mach.home (s : Mach) (c g : Nat) : Nat := ((s.stageOf c g).map (fun e => e.home)).getD 0
/-- The disposition entry of (stage, layer, tensor id), with its place in the table. -/
def Plan.entry (p : Plan) (g layer tensor : Nat) : Option (Nat × Entry) :=
  findIx (fun e => e.stage == g && e.layer == layer && e.tensor == tensor) p.entries 0
def Plan.tier (p : Plan) (i : Nat) : Tier := (p.tiers[i]?).getD {}
def StageEntry.hasCore (e : StageEntry) (n : Nat) : Bool :=
  decide (e.firstCore ≤ n) && decide (n < e.firstCore + e.ncores)
def StageEntry.cores (e : StageEntry) : List Nat := (List.range e.ncores).map (· + e.firstCore)
def fieldOf (core : Nat) : Nat := core / Config.coresPerField
/-- The stages of a context that put a core in them. -/
def Plan.stageOfCore (p : Plan) (core : Nat) : Option StageEntry := p.stages.find? (fun e => e.hasCore core)
/-- The stages of a context whose home is a station. -/
def Plan.homed (p : Plan) (n : Nat) : List StageEntry := p.stages.filter (fun e => e.home == n)
/-- Latched present width of a core (R4). -/
def Plan.width (p : Plan) (core : Nat) : Nat := aget 16 p.widths core
/-- Fabric address of record `n` of a stage (R35). -/
def ledgerAddr (e : StageEntry) (n : Nat) : Nat := e.ledgerBase + 64 * (n % e.ledgerCap)

/-- An exchange of a context is in progress: its new region's bed table is being written (R94). -/
def Ctx.exchanging (x : Ctx) : Bool :=
  match x.swap with
  | some w => w.exchanging
  | none => false

def Mach.shedEn (s : Mach) (lvl : Nat) : Bool := lvl == 5 || bit s.regs.shedCtl.toNat (lvl - 1)
def Mach.shedHyst (s : Mach) : Nat := W64.bits s.regs.shedCtl 11 8
def Mach.shedHold (s : Mach) : Nat := 100 * W64.bits s.regs.shedCtl 23 16
/-- FORCE; 6 and 7 are taken as 5. -/
def Mach.shedForce (s : Mach) : Nat := min 5 (W64.bits s.regs.shedCtl 26 24)

/-- The shedding level whose actions apply: the highest enabled level not above the level in force (R376). -/
def Mach.level (s : Mach) : Nat := ((List.range (s.shed.level + 1)).reverse.find? (fun k => k != 0 && s.shedEn k)).getD 0

/-- The step's seed of a stage (R232). -/
def Mach.seedOf (s : Mach) (c g : Nat) (step : W64) : W64 :=
  match s.plan c with
  | some p => stageSeed p.glob.jobSeed step g
  | none => 0

/-! ## The violation log (R397, R398) -/

def VLog.unread (l : VLog) : Nat := (l.wr + 65536 - l.rd) % 65536

/-- Equal in the fields R397 compares. -/
def sameEntry (a b : VEntry) : Bool :=
  a.status == b.status && a.src == b.src && a.unit == b.unit && a.ctx == b.ctx && a.foff == b.foff &&
    a.value == b.value

def bumpRepeat (e : VEntry) : VEntry := { e with rept := satAdd 16 e.rept 1 }

/-- A log that held `before` unread entries: vector 30 is due when their number has risen to MARK (R399). -/
def VLog.marked (l : VLog) (before : Nat) : VLog :=
  { l with markDue := l.markDue || (l.mark != 0 && decide (before < l.mark) && decide (l.mark ≤ l.unread)) }

/-- An entry arrives at the gatehouse: coalesced with the newest ahead of it, dropped, or made to wait. -/
def VLog.arrive (l : VLog) (e : VEntry) : VLog :=
  match l.waiting.getLast? with
  | some last =>
    if sameEntry last e then { l with waiting := l.waiting.dropLast ++ [bumpRepeat last] }
    else if 16 ≤ l.waiting.length ∨ l.unread = 512 then { l with lost := satAdd 16 l.lost 1 }
    else { l with waiting := l.waiting ++ [e] }
  | none =>
    let ix := (l.wr + 65535) % 512
    let newest := aget {} l.slots ix
    if l.unread ≠ 0 ∧ sameEntry newest e then { l with slots := aset {} l.slots ix (bumpRepeat newest) }
    else if l.unread = 512 then { l with lost := satAdd 16 l.lost 1 }
    else { l with waiting := [e] }

/-- SRC values (R398). -/
def srcGate : Nat := 0
def srcLoader : Nat := 1
def srcStation : Nat := 2
def srcAgent : Nat := 3
def srcExpander : Nat := 4
def srcRing : Nat := 5
def srcCqRing : Nat := 6
def srcPort : Nat := 7
def srcMmio : Nat := 8

/-- Logs an entry: the gatehouse stamps its aclk and the step of its context. -/
def Mach.logv (s : Mach) (e : VEntry) : Mach :=
  let e := { e with
    aclk := s.aclk % 2 ^ 32
    step := match e.ctx with
      | some c => (s.ctx c).step.toNat % 2 ^ 32
      | none => 0 }
  { s with vlog := s.vlog.arrive e }

/-- The newest of the entries not yet overwritten that satisfy `p` is made over. -/
def VLog.amend (l : VLog) (p : VEntry → Bool) (f : VEntry → VEntry) : VLog :=
  if l.waiting.any p then { l with waiting := modWhere p f l.waiting }
  else
    match ((List.range 512).map (fun i => (l.wr + 65535 - i) % 512)).find? (fun k => p (aget {} l.slots k)) with
    | some k => { l with slots := amod {} l.slots k f }
    | none => l

/-- The entry of a status that a context has logged in this aclk is made over. -/
def Mach.amendLog (s : Mach) (c : Nat) (st : Status) (f : VEntry → VEntry) : Mach :=
  { s with vlog := s.vlog.amend (fun e => e.status == st && e.ctx == some c && e.aclk == s.aclk % 2 ^ 32) f }

/-! ## Interrupts (R349, R350, R433) -/

/-- The message of a vector goes out, once per aclk; held while the attachment is not ATTACHED (R357). -/
def Mach.sendVec (s : Mach) (v : Nat) : Mach :=
  if s.hs.att != .attached then
    { s with msix := { s.msix with
        heldVecs := if s.msix.heldVecs.contains v then s.msix.heldVecs else s.msix.heldVecs ++ [v] } }
  else if aget 0 s.msix.sentAt v = s.aclk + 1 then s
  else
    { s with msix := { s.msix with sent := amod 0 s.msix.sent v (· + 1), sentAt := aset 0 s.msix.sentAt v (s.aclk + 1) } }

/-- Raises a vector: a masked one sets its pending bit. -/
def Mach.raiseVec (s : Mach) (v : Nat) : Mach :=
  if s.msix.unmasked.contains v then s.sendVec v
  else
    { s with msix := { s.msix with
        pendingVecs := if s.msix.pendingVecs.contains v then s.msix.pendingVecs else s.msix.pendingVecs ++ [v] } }

/-- Uzoto has set a W1C bit: a write in this aclk leaves it set (R426). -/
def Mach.markSet (s : Mach) (k : Nat) : Mach := { s with w1cAt := aset 0 s.w1cAt k (s.aclk + 1) }
def Mach.justSet (s : Mach) (k : Nat) : Bool := aget 0 s.w1cAt k == s.aclk + 1
def w1cHost (b : Nat) : Nat := 64 + b
def w1cPend (n : Nat) : Nat := 128 + n

def Mach.setIrq (s : Mach) (b : Nat) : Mach :=
  ({ s with regs := { s.regs with irqStat := s.regs.irqStat ||| (1#64 <<< b) } } : Mach).markSet b

/-- Causes of a context in UZ_IRQ_STAT. -/
def irqNan : Nat := 0
def irqSentinel : Nat := 1
def irqStall : Nat := 2
def irqSemwait : Nat := 3
def irqLdgpeer : Nat := 4
def irqShed : Nat := 32
def irqRinghalt : Nat := 33
def irqVlogmark : Nat := 34

/-- A context raises a cause: its bit and vector 20 + c. -/
def Mach.raiseCtx (s : Mach) (c k : Nat) : Mach := (s.setIrq (8 * c + k)).raiseVec (20 + c)

/-- The gatehouse raises a cause: its bit and vector 30. -/
def Mach.raiseGate (s : Mach) (k : Nat) : Mach := (s.setIrq k).raiseVec 30

/-! ## Completion events (R348) -/

def rankCtx (c : Nat) : Nat := 48 + c
def rankLoader : Nat := 52

/-- A descriptor's work ends: its completion event waits for the collector. -/
def Mach.complete (s : Mach) (rank : Nat) (d : DescRef) (st : Status) (detail detail2 : Nat) : Mach :=
  let e : CEvent :=
    { rank, aclk := s.aclk, desc := d, status := st, detail := detail % 2 ^ 32, detail2 := detail2 % 2 ^ 32 }
  let s := s.modHs (fun h => { h with events := h.events ++ [e] })
  s.modRing d.ring (fun r =>
    { r with descs := modWhere (fun x => x.pos == d.pos) (fun x => { x with st := .completed }) r.descs })

/-- A descriptor of a context's ring ends with an event of the context. -/
def Mach.completeCtx (s : Mach) (d : DescRef) (st : Status) (detail : Nat) : Mach :=
  s.complete (rankCtx (d.ring / 4)) d st detail 0

/-! ## Host traffic (R331, R332, R357) -/

/-- Traffic goes out while the attachment is ATTACHED. -/
def Mach.hostLive (s : Mach) : Bool := s.hs.att == .attached

/-- The port that carries traffic meant for `p`: the other one while `p` is not UP and the other is. -/
def Mach.portFor (s : Mach) (p : Nat) : Nat :=
  let up := fun q => if q = 0 then s.hs.portUp0 else s.hs.portUp1
  if !up p && up (1 - p) then 1 - p else p

def Mach.hostWrite (s : Mach) (port : Nat) (use : HostUse) (addr : Nat) (bytes : List Byte) (retry : Bool) : Mach :=
  let op : HostOp := { id := s.hs.nextOp, use, port := s.portFor port, addr, data := placed addr bytes,
                       len := bytes.length, write := true, issued := s.hostLive, retry }
  s.modHs (fun h => { h with ops := h.ops ++ [op], nextOp := h.nextOp + 1 })

def Mach.hostRead (s : Mach) (port : Nat) (use : HostUse) (addr len : Nat) (retry : Bool) : Mach :=
  let op : HostOp :=
    { id := s.hs.nextOp, use, port := s.portFor port, addr, len, write := false, issued := s.hostLive, retry }
  s.modHs (fun h => { h with ops := h.ops ++ [op], nextOp := h.nextOp + 1 })

/-- Entries of a ring. -/
def Ring.size (r : Ring) : Nat := 2 ^ r.log2
def RptRing.size (r : RptRing) : Nat := 2 ^ r.log2

/-- A difference of free-running 32 bit indices (R334). -/
def ixDiff (a b : Nat) : Nat := (a + 2 ^ 32 - b % 2 ^ 32) % 2 ^ 32

/-- PHASE of the entry at index `k`: 1 in the first pass, inverted on each later one (R345). -/
def phaseOf (k size : Nat) : Nat := (k / size + 1) % 2

/-! ## Reports (R346, R347) -/

def reportBytes (r : Report) (phase : Nat) (lostBefore : Bool) : List Byte :=
  leBytes 1 r.status.code ++ leBytes 1 (phase + 2 * b2n lostBefore) ++ leBytes 2 0 ++ leBytes 4 r.seq ++
    padTo r.body 56

/-- Writes a report into the next slot of its ring. -/
def Mach.writeReport (s : Mach) (c : Nat) (r : Report) : Mach :=
  let g := s.rpt c
  let s := s.hostWrite 0 (.report c r.status) (g.base + 64 * (g.prod % g.size))
    (reportBytes r (phaseOf g.prod g.size) g.lostBefore) false
  s.modRpt c (fun g => { g with prod := (g.prod + 1) % 2 ^ 32, lostBefore := false })

/-- A report is dropped (R347). -/
def Mach.dropReport (s : Mach) (c : Nat) : Mach :=
  (s.modRpt c (fun g => { g with lostBefore := true })).modHs
    (fun h => { h with lostRpt := amod 0 h.lostRpt c (satAdd 16 1) })

/-- Posts a report: it takes its SEQ, then is written, held while the attachment is HOLDING, or dropped. The 64 that R357
keeps in HOLDING are those not yet written to the port (DESIGN CHOICE, log entry 135). -/
def Mach.postReport (s : Mach) (c : Nat) (st : Status) (body : List Byte) : Mach :=
  let s := s.modRpt c (fun g => { g with seq := (g.seq + 1) % 2 ^ 32 })
  let g := s.rpt c
  let r : Report := { status := st, seq := g.seq, body }
  if g.state != .running || decide (g.size ≤ ixDiff g.prod g.cons + g.heldReports.length) then s.dropReport c
  else if s.hs.att == .attached then s.writeReport c r
  else if g.heldReports.length < 64 then s.modRpt c (fun g => { g with heldReports := g.heldReports ++ [r] })
  else s.dropReport c

/-! ## Ring halts (R361) -/

/-- A ring halts at a descriptor: it and the later ones are dropped (R341). -/
def Mach.haltRingAt (s : Mach) (n : Nat) (st : Status) (pos : Nat) : Mach :=
  let s := s.modRing n (fun r => { r with
    state := .halted, haltSt := st
    cons := pos
    descs := r.descs.takeWhile (fun d => d.pos != pos) })
  let s := s.modHs (fun h => { h with ops := h.ops.filter (fun o =>
    match o.use with
    | .desc g p => g != n || decide ((s.ring n).descs.any (fun d => d.pos == p))
    | _ => true) })
  s.raiseGate irqRinghalt

/-- A ring halts with no halted descriptor. -/
def Mach.haltRing (s : Mach) (n : Nat) (st : Status) : Mach :=
  (s.modRing n (fun r => { r with state := .halted, haltSt := st })).raiseGate irqRinghalt

def Mach.haltRpt (s : Mach) (c : Nat) (st : Status) : Mach :=
  (s.modRpt c (fun r => { r with state := .halted, haltSt := st })).raiseGate irqRinghalt

/-! ## Signal cells (R310) -/

/-- An error wake sets ERR, or is logged only when ERR is 1 already. -/
def Mach.cellErr (s : Mach) (unit core k : Nat) (st : Status) : Mach :=
  let x := s.cell core k
  if x.err then s.logv { status := st, src := srcStation, unit, core, value := k }
  else s.setCell core k { x with err := true, status := st.code }

/-- A posted write of +n; one that would pass 65,535 sets ERR with SEMOVER and is logged with the core, the cell
and its source. -/
def Mach.cellAdd (s : Mach) (unit core k n src : Nat) : Mach :=
  let x := s.cell core k
  if x.count + n ≤ 65535 then s.setCell core k { x with count := x.count + n }
  else
    let s := s.logv { status := .semover, src := srcStation, unit, core, value := k, addr := src }
    if x.err then s else s.setCell core k { x with err := true, status := Status.semover.code }

/-- Of two tickets of a slot to one core the one whose segment is consumed first, at the higher layer, goes first (R59). -/
def Ticket.before (a b : Ticket) : Bool :=
  a.core == b.core && a.ctx == b.ctx && a.stage == b.stage && a.mb == b.mb && decide (b.cmax < a.cmax)

/-- The tickets of a slot that wait and are consumed after `t` let it go first, where its core is not above theirs: those
to its own core, and of the others those that leave after them in ascending core order (DEDUCED, log entry 99). -/
def Ticket.yields (u t : Ticket) : Bool :=
  u.ctx == t.ctx && u.stage == t.stage && u.mb == t.mb && decide (u.cmax < t.cmax) && decide (t.core ≤ u.core)

def CellItem.yields (t : Ticket) : CellItem → Bool
  | .ticket u _ => u.yields t
  | _ => false

/-- A ticket joins the path behind everything queued there but the tickets that let it go first (R59). -/
def pushTicket (l : List CellItem) (t : Ticket) (last : Bool) : List CellItem :=
  l.filter (fun i => !i.yields t) ++ [.ticket t last] ++ l.filter (CellItem.yields t)

/-- A held ticket, in the order of the tickets to its core. -/
def holdTicket : List (Ticket × Bool) → Ticket × Bool → List (Ticket × Bool)
  | [], p => [p]
  | q :: qs, p => if p.1.before q.1 then p :: holdTicket qs q else q :: holdTicket qs p

/-- A posted cell write joins the cell-write path of a station (R323). -/
def Mach.cellPush (s : Mach) (n : Nat) (i : CellItem) : Mach :=
  s.modSt n (fun x => { x with cellq := match i with
    | .ticket t l => pushTicket x.cellq t l
    | i => x.cellq ++ [i] })

/-! ## Station semaphores (R313–R318) -/

/-- The engine of a station that began its wait on semaphore `i` first. -/
def Mach.firstWaiter (s : Mach) (n i : Nat) : Option Nat :=
  ((List.range 6).filter (fun e => (s.eng n e).waiting == some i)).foldl (fun (b : Option Nat) e =>
    match b with
    | none => some e
    | some q => if (s.eng n e).waitOrder < (s.eng n q).waitOrder then some e else b) none

/-- R317: each waiting engine served takes 1 and passes its WAIT. `fuel` bounds the engines of a station. -/
def Mach.serveWaits (s : Mach) (n i : Nat) : Nat → Mach
  | 0 => s
  | fuel + 1 =>
    if s.sem n i = 0 then s
    else
      match s.firstWaiter n i with
      | none => s
      | some e =>
        Mach.serveWaits ((s.setSem n i (s.sem n i - 1)).modEng n e
          (fun g => { g with waiting := none, pc := g.pc + 1 })) n i fuel

/-- An increment with the engines it wakes, or none where it is refused (R318). -/
def Mach.semInc (s : Mach) (n i amount : Nat) : Option Mach :=
  if 65535 < s.sem n i + amount then none
  else some ((s.setSem n i (s.sem n i + amount)).serveWaits n i 6)

/-- The semaphores of a context are 0 again (R325). -/
def Mach.clearSems (s : Mach) (c : Nat) : Mach :=
  { s with sems := s.sems.filter (fun p => p.1 % 8192 / 2048 != c) }

/-- All 32 cells of the cores are 0 (R325). -/
def Mach.clearCells (s : Mach) (cores : List Nat) : Mach :=
  { s with cells := s.cells.filter (fun p => !cores.contains (p.1 / 32)) }

def Plan.allCores (p : Plan) : List Nat := (p.stages.map StageEntry.cores).flatten

/-! ## Accesses (R133, R152) -/

/-- A gated station is asked to wake (R370). -/
def Station.askedAwake (x : Station) : Station :=
  if x.pwr == .clockGated || x.pwr == .powerGated then { x with pwr := .waking, wakes := satAdd 32 x.wakes 1 } else x

/-- Work reaches a station: it wakes, and its idle times begin again (R368–R370). -/
def Mach.wakeStation (s : Mach) (n : Nat) : Mach :=
  s.modSt n (fun x => { x.askedAwake with idleSclk := 0, pgAclk := 0 })

/-- An access joins those that wait for their slot and tokens. -/
def Mach.queueAcc (s : Mach) (n : Nat) (a : Access) : Mach :=
  (s.wakeStation n).modSt n (fun x => { x with acc := x.acc ++ [{ a with id := x.nextId }], nextId := x.nextId + 1 })

/-- A class 2 access on channel 7 of a station: telemetry, capture, checkpoint, the loader's reads (R132, R149). It costs
a whole block slot of its share (R152). -/
def Mach.queue2 (s : Mach) (n share c addr : Nat) (bytes : List Byte) (hook : Hook) : Mach :=
  s.queueAcc n { share, cls := 2, ctx := c, chan := 7, cost := 4096, addr, len := bytes.length, write := true
                 data := placed addr bytes, hook }

def Mach.read2 (s : Mach) (n c addr len : Nat) (hook : Hook) : Mach :=
  s.queueAcc n { share := 0, cls := 2, ctx := c, chan := 7, cost := 4096, addr, len, hook }

/-- Work of channel 7 of a station has been aborted and is not over yet (R143). -/
def Station.isCut (x : Station) (key : Nat) : Bool := x.cuts.any (fun p => p.1 == key)

/-- Some access of this hook waits or is outstanding at some station. -/
def Mach.pendingHook (s : Mach) (p : Hook → Bool) : Bool :=
  (List.range 6).any (fun n => ((s.st n).acc ++ (s.st n).outst).any (fun a => p a.hook))

/-- The accesses of these hooks that have not been issued are given up. -/
def Mach.dropWaiting (s : Mach) (p : Hook → Bool) : Mach :=
  overList (fun s n => s.modSt n (fun x => { x with acc := x.acc.filter (fun a => !p a.hook) })) s (List.range 6)

/-- Writes of a closed step or of the replay reserve: what Uzoto reads back of them is what it has latched (R253, R265). -/
def Hook.latched : Hook → Bool
  | .telWrite _ => true
  | .telHead _ => true
  | .telStation _ => true
  | .capWrite _ _ _ => true
  | .capHead _ => true
  | .capFetch _ => true
  | _ => false

/-- The memories with everything written that has been latched for writing. -/
def Mach.memNow (s : Mach) (mem : Mems) : Mems :=
  let pending := (List.range 6).flatMap (fun n =>
    (((s.st n).outst ++ (s.st n).acc).filter (fun a => a.write && a.hook.latched)).map (fun a => a.data))
  let rings := (List.range 4).flatMap (fun c => match (s.ctx c).tel.latch with
    | some l => if l.ph ≤ 2 then l.rings.map (fun r => placed (l.base + 0x12000 + 128 * r.1) r.2.2) else []
    | none => [])
  applyWrites mem (overList (fun s l => s.writeFab l false) s (pending ++ rings)).out

/-- The next identity a station gives (a task or an access). -/
def Mach.freshId (s : Mach) (n : Nat) : Nat × Mach :=
  ((s.st n).nextId, s.modSt n (fun x => { x with nextId := x.nextId + 1 }))

end Sys2Proof.Machine
end

