-- ==== Sys2Proof/Machine/Prog.lean ====
section
/-!
DEFINITION. Stream programs: instruction encoding (R105, R106), shape (R107), what a program emits (R108–R114),
its blocks (R119, R120), and the trimmed count of a run (R111, R112, R123).
-/
namespace Sys2Proof.Machine

/-! ## Instruction words -/

def insOpcode (w : Nat) : Nat := natBits w 63 56

/-- Bits that Table: Instruction fields does not list are not 0 (R106). -/
def insRsvdBad (w : Nat) : Bool :=
  match insOpcode w with
  | 0x01 => natBits w 47 15 != 0
  | 0x02 => natBits w 55 30 != 0
  | 0x03 | 0x04 => natBits w 7 0 != 0
  | 0x05 | 0x0F => natBits w 55 0 != 0
  | 0x06 => natBits w 39 0 != 0
  | 0x07 => natBits w 51 36 != 0 || natBits w 11 0 != 0
  | 0x08 => natBits w 53 13 != 0
  | _ => false

/-- The instruction of a word, or none for what order 27 refuses in one word (R130). COLS is kept in `rows`. -/
def insOf (w : Nat) : Option Ins :=
  match insOpcode w with
  | 0x01 =>
    let n := natBits w 55 48
    if n = 0 ∨ 64 < n then none else some (.land n (natBits w 14 0))
  | 0x02 => some (.seta (natBits w 29 15) (natBits w 14 0))
  | 0x03 => some (.loop (natBits w 55 40) (sext (natBits w 39 24) 16) (sext (natBits w 23 8) 16))
  | 0x04 => some (.batch (natBits w 55 40) (sext (natBits w 39 24) 16) (sext (natBits w 23 8) 16))
  | 0x05 => some .endl
  | 0x06 => if natBits w 55 40 = 0 then none else some (.skiplen (natBits w 55 40))
  | 0x07 =>
    let n := natBits w 23 12
    if n = 0 then none
    else
      match natBits w 55 54 with
      | 0 => if natBits w 53 52 ≠ 0 ∨ natBits w 35 24 ≠ 0 then none else some (.linear n)
      | 1 => if natBits w 53 52 = 3 then none else some (.rows (natBits w 53 52) (natBits w 35 24) n)
      | _ => none
  | 0x08 =>
    match natBits w 55 54 with
    | 0 => some (.waitSem (natBits w 12 0))
    | 1 => if natBits w 12 0 ≠ 0 then none else some .waitDrain
    | _ => none
  | 0x0F => some .fin
  | _ => none

/-! ## Programs as trees -/

/-- A program's body: what runs, in order. `trim` holds UNITS of a SKIPLEN that stands directly in the loop. -/
inductive Node where
  | done
  | seta (core off : Nat) (rest : Node)
  | emit (ix : Nat) (lin : Bool) (cols pitch n : Nat) (rest : Node)
  | pause (rest : Node)
  | loop (isBatch : Bool) (count : Nat) (dcore doff : Int) (trim : Option Nat) (body rest : Node)
  deriving DecidableEq, Repr

/-- Parses the instructions after LAND up to the ENDL that closes `depth`, or END at depth 0; answers the rest.
`lv` counts the open LOOP levels, and `total` the instructions, so that an EMIT keeps its place. The shape rules of R107 that concern nesting are judged here. -/
def parseNode (total : Nat) : Nat → Nat → Nat → List Ins → Option (Node × List Ins)
  | 0, _, _, _ => none
  | fuel + 1, depth, lv, is =>
    match is with
    | [] => none
    | .fin :: r => if depth = 0 ∧ r = [] then some (.done, []) else none
    | .endl :: r => if depth = 0 then none else some (.done, r)
    | .seta c o :: r => (parseNode total fuel depth lv r).map (fun x => (.seta c o x.1, x.2))
    | .linear n :: r => (parseNode total fuel depth lv r).map (fun x => (.emit (total - r.length - 1) true 0 0 n x.1, x.2))
    | .rows c p n :: r => (parseNode total fuel depth lv r).map (fun x => (.emit (total - r.length - 1) false c p n x.1, x.2))
    | .waitSem _ :: r => (parseNode total fuel depth lv r).map (fun x => (.pause x.1, x.2))
    | .waitDrain :: r => (parseNode total fuel depth lv r).map (fun x => (.pause x.1, x.2))
    | .loop n dc d :: r =>
      if 5 ≤ lv then none
      else
        let t : Option Nat × List Ins := match r with
          | .skiplen u :: r' => (some u, r')
          | _ => (none, r)
        match parseNode total fuel (depth + 1) (lv + 1) t.2 with
        | none => none
        | some (body, r2) =>
          (parseNode total fuel depth lv r2).map (fun x => (.loop false n dc d t.1 body x.1, x.2))
    | .batch n dc d :: r =>
      match parseNode total fuel (depth + 1) lv r with
      | none => none
      | some (body, r2) =>
        if r2 = [.fin] then (parseNode total fuel depth lv r2).map (fun x => (.loop true n dc d none body x.1, x.2))
        else none
    | .land _ _ :: _ => none
    | .skiplen _ :: _ => none

def isSkiplen : Ins → Bool
  | .skiplen _ => true
  | _ => false

def isBatchIns : Ins → Bool
  | .batch _ _ _ => true
  | _ => false

def isLand : Ins → Bool
  | .land _ _ => true
  | _ => false

def isEnd : Ins → Bool
  | .fin => true
  | _ => false

/-- A program of the shape of R107 as NFRAMES, LANDOFF and its body. -/
def progTree (is : List Ins) : Option (Nat × Nat × Node) :=
  match is with
  | .land n o :: r =>
    if 1 < (r.filter isSkiplen).length ∨ 1 < (r.filter isBatchIns).length ∨ (r.drop 1).any isBatchIns then none
    else (parseNode is.length (r.length + 1) 0 0 r).map (fun x => (n, o, x.1))
  | _ => none

/-- The place of the first instruction that breaks the shape of R107 or is none at all (R130). `opens` holds the open
levels, innermost first, true for BATCH; `skip` tells that a SKIPLEN has come, and `inLoop` that a LOOP stands just before. -/
def shapeFault : Nat → List Bool → Bool → Bool → List (Option Ins) → Option Nat
  | i, _, _, _, [] => some (i - 1)
  | i, opens, skip, inLoop, x :: r =>
    let next := fun opens skip inLoop => shapeFault (i + 1) opens skip inLoop r
    match x with
    | none => some i
    | some (.land _ _) => if i = 0 then next opens skip false else some i
    | some .fin => if i = 0 ∨ opens ≠ [] then some i else none
    | some (.batch _ _ _) => if i = 1 then next (true :: opens) skip false else some i
    | some (.loop _ _ _) =>
      if i = 0 ∨ 5 ≤ (opens.filter (fun b => !b)).length then some i else next (false :: opens) skip true
    | some .endl =>
      match opens with
      | [] => some i
      | true :: o => if (r.map (fun y => y == some .fin)).head?.getD false then next o skip false else some i
      | false :: o => next o skip false
    | some (.skiplen _) => if skip || !inLoop then some i else next opens true false
    | _ => if i = 0 then some i else next opens skip false

/-! ## What a run emits -/

/-- Iterations of a loop: COUNT, or the trimmed count `k` where SKIPLEN stands (R111). -/
def iters (k : Option Nat) (count : Nat) (trim : Option Nat) : Nat :=
  match trim, k with
  | some _, some k => min count k
  | _, _ => count

/-- Bytes of one tile (R113). -/
def tileBytes (src : Fmt) (lin : Bool) (n : Nat) : Nat := if lin then 16 * n else n * 16 * src.bytes

/-- Bytes that a body emits when its SKIPLEN loop runs `k` iterations. -/
def Node.bytes (src : Fmt) (k : Option Nat) : Node → Nat
  | .done => 0
  | .seta _ _ r => r.bytes src k
  | .pause r => r.bytes src k
  | .emit _ lin _ _ n r => tileBytes src lin n + r.bytes src k
  | .loop _ c _ _ t b r => iters k c t * b.bytes src k + r.bytes src k

/-- COUNT and UNITS of the loop that SKIPLEN trims. -/
def Node.trimmed : Node → Option (Nat × Nat)
  | .done => none
  | .seta _ _ r => r.trimmed
  | .pause r => r.trimmed
  | .emit _ _ _ _ _ r => r.trimmed
  | .loop _ c _ _ t b r =>
    match t with
    | some u => some (c, u)
    | none => match b.trimmed with
      | some x => some x
      | none => r.trimmed

/-- A tile at the registers where it is emitted, or the cut at the start of a BATCH iteration (R110). -/
inductive PItem where
  | tile (ix : Nat) (core off : Int) (lin : Bool) (cols pitch n : Nat)
  | cut
  deriving DecidableEq, Repr

/-- Core and offset registers, and the tiles so far, newest first. -/
structure PRun where
  core : Int := 0
  off : Int := 0
  out : List PItem := []
  deriving DecidableEq, Repr

def repeatRun (f : PRun → PRun) : Nat → PRun → PRun
  | 0, x => x
  | n + 1, x => repeatRun f n (f x)

/-- R108–R110: runs a body. -/
def Node.run (k : Option Nat) : Node → PRun → PRun
  | .done, x => x
  | .seta c o r, x => r.run k { x with core := c, off := o }
  | .pause r, x => r.run k x
  | .emit ix lin cols p n r, x => r.run k { x with out := .tile ix x.core x.off lin cols p n :: x.out }
  | .loop isB c dc d t b r, x =>
    let y := repeatRun (fun z =>
      let z := if isB then { z with out := .cut :: z.out } else z
      let z := b.run k z
      { z with core := z.core + dc, off := z.off + d }) (iters k c t) x
    r.run k { y with core := x.core, off := x.off }

/-- The items of a run, in order. -/
def Node.items (k : Option Nat) (b : Node) : List PItem := (b.run k {}).out.reverse

/-! ## Blocks (R119, R120) -/

/-- Takes `n` bytes of core `c` into the open block; closes blocks of 4,096. Closed blocks newest first. -/
def feedBytes : Nat → Int → Nat → (Option (Int × Nat) × List (Int × Nat)) → (Option (Int × Nat) × List (Int × Nat))
  | 0, _, _, st => st
  | fuel + 1, c, n, (op, cl) =>
    if n = 0 then (op, cl)
    else
      match op with
      | none => feedBytes fuel c n (some (c, 0), cl)
      | some (oc, h) =>
        if oc ≠ c then feedBytes fuel c n (none, (if h = 0 then cl else (oc, h) :: cl))
        else
          let take := min n (4096 - h)
          if h + take = 4096 then feedBytes fuel c (n - take) (none, (oc, 4096) :: cl)
          else (some (oc, h + take), cl)

def closeOpen (st : Option (Int × Nat) × List (Int × Nat)) : Option (Int × Nat) × List (Int × Nat) :=
  match st.1 with
  | some (c, h) => (none, if h = 0 then st.2 else (c, h) :: st.2)
  | none => st

/-- The blocks of a run as (stage core, raw bytes), in block-index order. -/
def blocksOf (src : Fmt) (is : List PItem) : List (Int × Nat) :=
  (closeOpen (is.foldl (fun st i =>
    match i with
    | .tile _ c _ lin _ _ n =>
      let b := tileBytes src lin n
      feedBytes (2 * (b / 4096) + 4) c b st
    | .cut => closeOpen st) (none, []))).2.reverse

/-! ## A program as a plan's entry runs it -/

def Plan.progIns (p : Plan) (home i : Nat) : List Ins := (((p.progs[home]?).getD [])[i]?).getD []
def Plan.progNode (p : Plan) (home i : Nat) : Node := ((progTree (p.progIns home i)).map (·.2.2)).getD .done
def Plan.progLand (p : Plan) (home i : Nat) : Nat × Nat :=
  ((progTree (p.progIns home i)).map (fun x => (x.1, x.2.1))).getD (1, 0)

/-- The bucket group of an entry, from its first bucket to LAST (R83). -/
def Plan.bucketGroup (p : Plan) (i : Nat) : List Bucket :=
  let l := (p.buckets.drop i).take 8
  match findIx (fun b => b.last) l 0 with
  | some (n, _) => l.take (n + 1)
  | none => l

/-- Planned full length of an entry (R112, R85). -/
def Plan.fullLen (p : Plan) (home : Nat) (e : Entry) : Nat :=
  if p.bucketed then (((p.bucketGroup e.prog).getLast?).map (fun b => b.bound)).getD 0
  else match (p.progNode home e.prog).trimmed with
    | some (c, u) => c * u
    | none => 65534

/-- The program a stash of RUNLEN `rl` runs, and its trimmed count (R84, R111). -/
def Plan.stashProg (p : Plan) (home : Nat) (e : Entry) (rl : Nat) : Nat × Option Nat :=
  if p.bucketed then
    let g := p.bucketGroup e.prog
    if rl = 0xFFFF then (((g.getLast?).map (fun b => b.prog)).getD 0, none)
    else (((g.find? (fun b => decide (rl ≤ b.bound))).map (fun b => b.prog)).getD 0, none)
  else
    match (p.progNode home e.prog).trimmed with
    | some (c, u) => (e.prog, if rl = 0xFFFF then none else some (min c (ceilDiv rl u)))
    | none => (e.prog, none)

/-- The program a fetch runs for a record of `rawLen` raw bytes, and its trimmed count; none is the LENFAULT of
R125 (R123, R124). A trimmed loop of COUNT 0 is never entered, so B is 0 (DESIGN CHOICE, log entry 114). -/
def Plan.fetchProg (p : Plan) (home : Nat) (e : Entry) (rawLen : Nat) : Option (Nat × Option Nat) :=
  if p.bucketed then
    ((p.bucketGroup e.prog).find? (fun b => b.rawLen == rawLen)).map (fun b => (b.prog, none))
  else
    let nd := p.progNode home e.prog
    match nd.trimmed with
    | none => if rawLen = nd.bytes e.src none then some (e.prog, none) else none
    | some (c, _) =>
      let a := nd.bytes e.src (some 0)
      let b := nd.bytes e.src (some 1) - a
      if b = 0 then (if rawLen = a then some (e.prog, none) else none)
      else
        let k := (rawLen - a) / b
        if a ≤ rawLen ∧ (rawLen - a) % b = 0 ∧ 1 ≤ k ∧ k ≤ c then some (e.prog, some k) else none

/-- Core-side extent of a run in bytes: the end of the highest byte a tile reads, relative to SRAMBASE 0. -/
def tileEnd (src : Fmt) : PItem → Int
  | .cut => 0
  | .tile _ _ o lin _ p n =>
    if lin then 16 * o + 16 * n else 16 * (o + ((n - 1) * p : Nat)) + (16 * src.bytes : Nat)

def extentOf (src : Fmt) (is : List PItem) : Int := is.foldl (fun m i => max m (tileEnd src i)) 0

end Sys2Proof.Machine
end

