-- ==== Sys2Proof/Machine/Records.lean ====
section
/-!
DEFINITION. The records Uzoto writes and reads, byte for byte: ledger record (R36, R37), recompute ticket (R57),
NaN trap record (R250), amax ring (R254), telemetry records (R262–R264), capture item header (R270) and log entry
(R398).
-/
namespace Sys2Proof.Machine

/-! ## Ledger record -/

def RecState.code : RecState → Nat
  | .free => 0 | .pending => 1 | .resident => 2 | .demoting => 3 | .lost => 4 | .empty => 5 | .reference => 6
  | .reserved v => v

def recStateOf : Nat → RecState
  | 0 => .free | 1 => .pending | 2 => .resident | 3 => .demoting | 4 => .lost | 5 => .empty | 6 => .reference
  | v => .reserved v

def Disp.code : Disp → Nat
  | .keep => 0 | .husk => 1 | .lodge => 2 | .far => 3 | .drop => 4

/-- Bytes 0–59 of a record. -/
def recHead (r : Rec) : List Byte :=
  leBytes 8 (wordN [(r.tensor, 0), (r.disp, 20), (r.tier, 23), (r.state.code, 25), (r.ctx, 29),
    (b2n r.demoted, 31), (r.stage, 32), (r.mb, 38), (r.layer, 44), (r.fmt, 60)]) ++
  leBytes 8 r.loc ++ leBytes 4 r.rawLen ++ leBytes 4 r.storLen ++ leBytes 1 r.scale ++ leBytes 1 r.keySlot ++
  leBytes 2 r.lead ++ leBytes 4 r.step ++ leBytes 8 r.acorn.toNat ++ leBytes 2 r.segFirst ++ leBytes 2 r.segLast ++
  leBytes 4 (wordN [(r.coreFirst, 0), (r.coreCount, 16)]) ++ leBytes 4 r.age ++ leBytes 8 0

/-- The 64 bytes of a record, with its CRC (R39). -/
def recBytes (r : Rec) : List Byte := recHead r ++ crcField (recHead r)

def recCrcOk (l : List Byte) : Bool := rdNat l 60 4 == (crc32c (l.take 60)).toNat

def recParse (l : List Byte) : Rec :=
  let a := rdNat l 0 8
  { tensor := natBits a 19 0, disp := natBits a 22 20, tier := natBits a 24 23
    state := recStateOf (natBits a 28 25), ctx := natBits a 30 29, demoted := bit a 31, stage := natBits a 37 32
    mb := natBits a 43 38, layer := natBits a 59 44, fmt := natBits a 62 60
    loc := rdNat l 8 8, rawLen := rdNat l 16 4, storLen := rdNat l 20 4, scale := rdNat l 24 1
    keySlot := rdNat l 25 1 % 4, lead := rdNat l 26 2, step := rdNat l 28 4
    acorn := BitVec.ofNat 64 (rdNat l 32 8), segFirst := rdNat l 40 2, segLast := rdNat l 42 2
    coreFirst := natBits (rdNat l 44 4) 14 0, coreCount := natBits (rdNat l 44 4) 30 16, age := rdNat l 48 4 }

/-! ## Recompute ticket -/

def ticketBytes (t : Ticket) : List Byte :=
  leBytes 8 (wordN [(1, 0), (t.ctx, 4), (t.stage, 6), (t.mb, 12), (t.segFirst, 18), (t.segLast, 34)]) ++
  leBytes 4 t.ckpt ++ leBytes 4 t.ckptOff ++ leBytes 8 t.seed.toNat ++ leBytes 8 t.ctrBase.toNat

/-! ## NaN trap record -/

def trapWord0 (t : NanTrap) : W64 :=
  word [(t.ctx, 0), (t.stage, 2), (t.mb, 8), (t.layer, 14), (t.tensor, 30), (t.lane, 50), (t.path, 55),
    (b2n t.valid, 63)]
def trapWord1 (t : NanTrap) : W64 := word [(t.block, 0), (t.elem, 24), (t.src, 35)]
def trapWord3 (t : NanTrap) : W64 := word [(t.sclk % 2 ^ 32, 0), (t.more, 32)]

def trapBytes (t : NanTrap) : List Byte :=
  leBytes 8 (trapWord0 t).toNat ++ leBytes 8 (trapWord1 t).toNat ++ leBytes 8 t.step ++
    leBytes 8 (trapWord3 t).toNat

/-! ## Amax ring -/

def ringHead (a : Amax) (step : Nat) : List Byte :=
  ((List.range 16).map (fun i => leBytes 4 (((a.vals[i]?).getD 0)).toNat)).flatten ++
  leBytes 1 a.head ++ leBytes 1 a.count ++ leBytes 1 a.lastScale ++ leBytes 1 0 ++ leBytes 4 step ++ leBytes 52 0

def ringBytes (a : Amax) (step : Nat) : List Byte := ringHead a step ++ crcField (ringHead a step)

/-- R254: a bad CRC, a COUNT above 16 or a nonzero reserved field empties a ring. -/
def ringBad (l : List Byte) : Bool :=
  rdNat l 124 4 != (crc32c (l.take 124)).toNat || decide (16 < rdNat l 65 1) || decide (16 ≤ rdNat l 64 1) ||
    rdNat l 67 1 != 0 || rdNat l 72 52 != 0

def ringParse (l : List Byte) : Amax :=
  { loaded := true
    vals := (List.range 16).map (fun i => BitVec.ofNat 32 (rdNat l (4 * i) 4))
    head := rdNat l 64 1, count := rdNat l 65 1, lastScale := rdNat l 66 1, stepLow := rdNat l 68 4 }

/-- The fold of R253. -/
def ringFold (a : Amax) (scale step : Nat) : Amax :=
  let h := (a.head + 1) % 16
  let v := padVals a.vals
  { a with vals := v.set h a.running, head := h, count := min (a.count + 1) 16, lastScale := scale
           stepLow := step % 2 ^ 32, running := 0, used := false }
where
  padVals (l : List W32) : List W32 := l ++ List.replicate (16 - l.length) 0

/-! ## Telemetry (R262–R264) -/

def sat64 (n : Nat) : Nat := min n (2 ^ 64 - 1)
def sat32 (n : Nat) : Nat := min n (2 ^ 32 - 1)

/-- A count of the record saturated. -/
def statsSat (x : StageStats) : Bool :=
  (x.stall ++ x.late ++ x.port ++ x.fmtCnt).any (fun p => decide (2 ^ 64 - 1 ≤ p.2)) ||
  (x.miss ++ x.hist).any (fun p => decide (2 ^ 32 - 1 ≤ p.2)) ||
  decide (2 ^ 64 - 1 ≤ x.wasted) || decide (2 ^ 32 - 1 ≤ x.dlPost) || decide (2 ^ 32 - 1 ≤ x.unfetched) ||
  decide (2 ^ 32 - 1 ≤ x.discarded)

def stageRecHead (x : StageStats) (step : Nat) (aborted replay merged : Bool) (home : Nat) : List Byte :=
  leBytes 8 step ++
  leBytes 4 (wordN [(b2n aborted, 0), (b2n replay, 1), (b2n x.histPart, 2), (b2n (statsSat x), 3), (b2n merged, 4)]) ++
  leBytes 1 home ++ leBytes 3 0 ++ leBytes 8 x.tFirst ++ leBytes 8 x.tFwdLast ++ leBytes 8 x.tBwdFirst ++
  leBytes 8 x.tEnd ++ leBytes 8 x.tClose ++ leBytes 8 x.slow ++
  ((List.range 11).map (fun k => leBytes 8 (sat64 (aget 0 x.stall k)))).flatten ++
  ((List.range 3).map (fun k => leBytes 8 (sat64 (aget 0 x.port k)))).flatten ++
  ((List.range 11).map (fun k => leBytes 4 (sat32 (aget 0 x.miss k)))).flatten ++
  leBytes 4 (sat32 x.dlPost) ++
  ((List.range 11).map (fun k => leBytes 8 (sat64 (aget 0 x.late k)))).flatten ++
  leBytes 8 (sat64 x.wasted) ++ leBytes 4 (sat32 x.unfetched) ++ leBytes 4 (sat32 x.discarded) ++ leBytes 8 0 ++
  ((List.range 20).map (fun k => leBytes 8 (sat64 (aget 0 x.fmtCnt k)))).flatten ++ leBytes 16 0 ++
  ((List.range 32).map (fun k => leBytes 4 (sat32 (aget 0 x.hist k)))).flatten ++ leBytes 380 0

def stageRecBytes (x : StageStats) (step : Nat) (aborted replay merged : Bool) (home : Nat) : List Byte :=
  let h := stageRecHead x step aborted replay merged home
  h ++ crcField h

def stationRecBytes (x : Station) (aclk : Nat) : List Byte :=
  let h := leBytes 8 x.sclk ++ leBytes 8 aclk ++ leBytes 8 x.slow ++ leBytes 8 x.gated ++ leBytes 4 x.wakes ++
    leBytes 4 0 ++ leBytes 8 x.engBusy ++ leBytes 8 x.fengBusy ++ leBytes 8 x.laneBusy ++ leBytes 8 x.delivBusy ++
    leBytes 180 0
  h ++ crcField h

def areaHeadBytes (step seq nent : Nat) : List Byte :=
  let h := leBytes 8 step ++ leBytes 4 seq ++ leBytes 4 nent ++ leBytes 44 0
  h ++ crcField h

/-! ## Capture items (R270) -/

def capItemHead (stage mb flags layer fetchNo ledger ref dataLen kind : Nat) : List Byte :=
  let h := leBytes 1 kind ++ leBytes 1 stage ++ leBytes 1 mb ++ leBytes 1 flags ++ leBytes 2 layer ++
    leBytes 1 fetchNo ++ leBytes 1 0 ++ leBytes 8 ledger ++ leBytes 8 ref ++ leBytes 4 dataLen ++ leBytes 32 0
  h ++ crcField h

/-! ## Log entry (R398) -/

def vEntryBytes (e : VEntry) : List Byte :=
  leBytes 8 (wordN [(e.rept, 0), (e.sub, 21), (e.kind, 24), (b2n e.ctx.isSome, 27), (e.ctx.getD 0, 28),
    (e.unit, 30), (e.src, 36), (e.status.code, 40), (e.seq, 48)]) ++
  leBytes 4 e.foff ++ leBytes 4 e.aclk ++ leBytes 8 e.value ++ leBytes 8 e.addr ++
  leBytes 8 (wordN [(e.tensor, 0), (e.stage, 20), (e.mb, 26), (e.block % 2 ^ 24, 32)]) ++
  leBytes 4 (wordN [(e.core, 0), (e.port, 15), (e.layer, 16)]) ++ leBytes 4 e.step ++ leBytes 4 e.aux0 ++
  leBytes 4 e.aux1 ++ leBytes 8 0

/-! ## Completion entry (R344) -/

def centryBytes (e : CEntry) (phase : Nat) : List Byte :=
  leBytes 4 e.detail ++ leBytes 4 e.tag ++ leBytes 2 e.slot ++ leBytes 1 e.status.code ++
  leBytes 1 (wordN [(phase, 0), (b2n e.held, 1), (b2n e.late, 2)]) ++ leBytes 4 e.detail2

end Sys2Proof.Machine
end

