-- ==== Sys2Proof/Machine/Tasks.lean ====
section
/-!
DEFINITION. What tasks share: counts, records of the current step, Cellar storage (R43–R45), record writes, the
released signal (R31), Inn rooms (R136, R137), fetch completion, failing tasks (R391, R392), and entering ABORTING
(R390, R61).
-/
namespace Sys2Proof.Machine

/-! ## Counts (R165, R20) -/

def causeEventFull : Nat := 0
def causeStashWait : Nat := 1
def causeEngineWait : Nat := 2
def causeRoomWait : Nat := 3
def causeCellarFull : Nat := 4
def causeChanWait : Nat := 5
def causeBwWait : Nat := 6
def causeC0Over : Nat := 7
def causeTierWait : Nat := 8
def causeDeliverWait : Nat := 9
def causeTicketWait : Nat := 10

/-- R266: the entry (layer, tensor) of a stage is designated by a slot of the set's sentinel table. -/
def ConfigSet.isSentinel (x : ConfigSet) (g layer tensor : Nat) : Bool :=
  (List.range 4).any (fun j =>
    let w := aget 0 x.sentTab (4 * g + j)
    W64.bits w 63 63 == 1 && W64.bits w 51 36 == layer && W64.bits w 19 0 == tensor)

/-- The task-level settings of the active set that a task of a stage, layer and tensor keeps from its start (R94, R448). -/
def ConfigSet.taskCfg (x : ConfigSet) (g layer tensor : Nat) : TaskCfg :=
  { rt := W64.bits x.ctxCtl 0 0 == 1, nanAct := W64.bits x.ctxCtl 1 1 == 1
    sentinel := x.isSentinel g layer tensor, jump := W64.bits x.sentCtl 3 0, sentAct := W64.bits x.sentCtl 4 4 == 1
    scaleCtl := x.scaleCtl, frzNan := W64.bits x.rplCtl 1 1 == 1, frzSent := W64.bits x.rplCtl 2 2 == 1
    stallThr := x.stallThr }

/-- Level 1 or above in a step: the histograms of its records are partial (R259). -/
def Mach.histPartial (s : Mach) (c : Nat) : Mach :=
  let st := (s.ctx c).state
  if s.level = 0 || !(st == .running || st == .draining || st == .aborting) then s
  else overList (fun s (e : StageEntry) => s.modStats c e.stage (fun y => { y with histPart := true })) s
    (((s.plan c).map (fun p => p.stages)).getD [])

def Mach.addWasted (s : Mach) (c g n : Nat) : Mach :=
  s.modStats c g (fun x => { x with wasted := satAdd 64 x.wasted n })

/-- `n` sclk under a stall cause. The cause falls due for its interrupt once the count has reached one of the thresholds
`thrs` that bind what waits (R168, R448); a threshold of 0 never does. -/
def Mach.addStall (s : Mach) (c g k n : Nat) (thrs : List Nat) : Mach :=
  let s := s.modStats c g (fun x => { x with stall := amod 0 x.stall k (fun v => satAdd 64 v n) })
  let reached := thrs.any (fun thr => decide (thr ≠ 0) && decide (thr ≤ aget 0 (s.stage c g).stats.stall k))
  if reached && !((s.stage c g).stallDue ++ (s.stage c g).stallRaised).contains k then
    s.modStage c g (fun y => { y with stallDue := y.stallDue ++ [k] })
  else s

/-- The threshold of the active set for a stall cause: it binds what waits as no task (R446, R448). -/
def Mach.stallThr (s : Mach) (c k : Nat) : Nat := (aget 0 (s.ctx c).act.stallThr k).toNat

def Mach.addDiscarded (s : Mach) (c g : Nat) : Mach :=
  s.modStats c g (fun x => { x with discarded := satAdd 32 x.discarded 1 })

/-! ## Records of the step -/

def Mach.recInfo (s : Mach) (c g n : Nat) : Option RecInfo := (s.stage c g).recs[n]?

def Mach.modRec (s : Mach) (c g n : Nat) (f : RecInfo → RecInfo) : Mach :=
  s.modStage c g (fun x =>
    match x.recs[n]? with
    | some r => { x with recs := x.recs.set n (f r) }
    | none => x)

/-- The record of (slot, layer, tensor id) in the index of R160. -/
def StageRun.find (x : StageRun) (mb layer tensor : Nat) : Option (Nat × RecInfo) :=
  findIx (fun r => r.mb == mb && r.layer == layer && r.tensor == tensor) x.recs 0

def Mach.recAddr (s : Mach) (c g n : Nat) : Nat :=
  match s.stageOf c g with
  | some e => ledgerAddr e n
  | none => 0

/-! ## Cellar storage (R41–R45) -/

/-- Chunks that the stages of a context hold, by their index in the pool. -/
def Ctx.usedChunks (x : Ctx) : List Nat := (x.stages.map (fun p => p.2.chain)).flatten

def Mach.freeChunks (s : Mach) (c : Nat) : Nat :=
  match s.plan c with
  | some p => p.glob.poolChunks - (s.ctx c).usedChunks.length
  | none => 0

/-- The free chunk of the lowest address. -/
def Mach.lowestFree (s : Mach) (c : Nat) : Option Nat :=
  match s.plan c with
  | some p => findNat (fun k => !(s.ctx c).usedChunks.contains k) p.glob.poolChunks
  | none => none

/-- The unused reserve of the other stages (R43). -/
def Mach.unusedReserve (s : Mach) (c g : Nat) : Nat :=
  match s.plan c with
  | some p => sumNat ((p.stages.filter (fun e => e.stage != g)).map (fun e => e.reserve - (s.stage c e.stage).chain.length))
  | none => 0

/-- A stage may take a chunk (R43, R42). -/
def Mach.mayTakeChunk (s : Mach) (c g : Nat) (fallback : Bool) : Bool :=
  match s.stageOf c g with
  | none => false
  | some e =>
    let held := (s.stage c g).chain.length
    (s.lowestFree c).isSome &&
    (fallback || decide (held < e.cap)) &&
    ((!fallback && decide (held < e.reserve)) || decide (s.unusedReserve c g < s.freeChunks c))

/-- The top of a stage's chain as a slot number. -/
def StageRun.topSlot (x : StageRun) : Nat := Config.slotsPerChunk * (x.chainBase + x.chain.length)

/-- Local address of a slot of a stage's chain; none beyond the chain. -/
def Mach.slotAddr (s : Mach) (c g slot : Nat) : Option Nat :=
  let x := s.stage c g
  let k := slot / Config.slotsPerChunk
  if k < x.chainBase then none
  else
    match x.chain[k - x.chainBase]?, s.plan c with
    | some ch, some p =>
      some (p.glob.poolBase + Config.chunkBytes * ch + Config.slotBytes * (slot % Config.slotsPerChunk))
    | _, _ => none

/-- Reserves `n` slots at the fill pointer when the chain holds them. -/
def Mach.tryReserve (s : Mach) (c g n : Nat) : Option (Nat × Mach) :=
  let x := s.stage c g
  if x.fillPtr + n ≤ x.topSlot then some (x.fillPtr, s.modStage c g (fun x => { x with fillPtr := x.fillPtr + n }))
  else none

/-- The chunks above the fill pointer go back to the free list (R45), those too that were linked for a stash that still waits
for more slots (DESIGN CHOICE, log entry 129). -/
def StageRun.dropTop (x : StageRun) : StageRun :=
  { x with chain := x.chain.take (ceilDiv x.fillPtr Config.slotsPerChunk - x.chainBase) }

/-- The record holds its storage: it is not drained or its capture is owed (R45, R271). -/
def RecInfo.holds (r : RecInfo) : Bool := decide (0 < r.slots) && !(r.drained && r.captured)

/-- Bytes of the slots of a record that hold none of its data (R43, R380). -/
def RecInfo.spare (r : RecInfo) : Nat :=
  Config.slotBytes * (r.slots - ceilDiv r.rc.storLen Config.slotBytes + r.hole)

/-- R46: demotion starts below the start mark and stops at the stop mark. -/
def Mach.demoteMarks (s : Mach) (c : Nat) : Mach :=
  match s.plan c with
  | none => s
  | some p =>
    let free := s.freeChunks c
    s.modCtx c (fun x => { x with
      demoteOn := if free < p.glob.dstart then true else if p.glob.dstop ≤ free then false else x.demoteOn })

/-- Reclamation from the top: past each drained record (R45). Slots kept beyond a record's data count as wasted. -/
def Mach.reclaim (s : Mach) (c g : Nat) : Mach :=
  let x := s.stage c g
  let low := maxNat (x.recs.map (fun r => if r.holds then r.slot0 + r.slots else x.chainBase * Config.slotsPerChunk))
  let newPtr := min x.fillPtr (max low (x.chainBase * Config.slotsPerChunk))
  let gone := x.recs.filter (fun r => !r.holds && !r.reclaimed && decide (0 < r.slots) && decide (newPtr ≤ r.slot0))
  let waste := sumNat (gone.map RecInfo.spare)
  let s := if waste = 0 then s else s.addWasted c g waste
  (s.modStage c g (fun x =>
    { x with
      fillPtr := newPtr
      recs := modWhere (fun r => !r.holds && decide (newPtr ≤ r.slot0)) (fun r => { r with reclaimed := true }) x.recs }.dropTop)).demoteMarks c

/-- R43, step 6: keeps the slots of `stor` bytes; the slots above go back when nothing lies above them. -/
def Mach.trim (s : Mach) (c g n stor : Nat) : Mach :=
  match s.recInfo c g n with
  | none => s
  | some r =>
    let keep := ceilDiv stor Config.slotBytes
    if (s.stage c g).fillPtr = r.slot0 + r.slots then
      ((s.modRec c g n (fun r => { r with slots := keep })).modStage c g
        (fun x => { x with fillPtr := r.slot0 + keep }.dropTop)).demoteMarks c
    else s

/-! ## Record writes -/

/-- The write of a record: 64 B of metadata through the write share (R134), class 1. -/
def recAccess (c owner addr : Nat) (rc : Rec) (hook : Hook) : Access :=
  { share := 1, cls := 1, ctx := c, chan := 8, owner, cost := 64, addr, len := 64, write := true
    data := placed addr (recBytes rc), hook }

/-- Writes a record from the station of a task; the ledger cache holds it from now. -/
def Mach.writeRec (s : Mach) (n : Nat) (t : Task) (rc : Rec) : Mach :=
  match t.fill with
  | none => s
  | some k =>
    (s.modRec t.ctx t.stage k (fun r => { r with rc })).queueAcc n
      (recAccess t.ctx t.id (s.recAddr t.ctx t.stage k) rc (.recWrite t.id))

/-- Rewrites a record of the step outside any task, as class 1 metadata (R300, R359). -/
def Mach.rewriteRec (s : Mach) (c g k : Nat) (rc : Rec) : Mach :=
  (s.modRec c g k (fun r => { r with rc })).queueAcc (s.home c g)
    (recAccess c 0 (s.recAddr c g k) rc .plain)

/-- Cores once each, in ascending order. -/
def sortedCores (l : List Nat) : List Nat :=
  l.foldl (fun acc k => if acc.contains k then acc else acc.filter (· < k) ++ [k] ++ acc.filter (fun x => decide (k < x))) []

/-- What every record of a task holds from its start (R36); CORES names the core read first in time (R122). -/
def Task.baseRec (t : Task) (step : W64) : Rec :=
  { fmt := t.entry.fmt.code, layer := t.layer, mb := t.mb, stage := t.stage, ctx := t.ctx, disp := t.entry.disp.code
    tensor := t.tensor, lead := t.entry.lead, step := step.toNat % 2 ^ 32, acorn := t.acorn
    age := t.fill.getD 0, scale := t.scale, rawLen := t.rawTotal
    coreFirst := (t.readCores.head?).getD t.coreFirst, coreCount := t.readCores.length }

/-! ## Signals (R31) -/

/-- +1 into the released cell of each core, on the home station's cell-write path. -/
def Mach.postReleased (s : Mach) (n cell : Nat) (cores : List Nat) : Mach :=
  overList (fun s k => s.cellPush n (.add k cell 1 n)) s cores

/-! ## Inn rooms (R136, R137, R32) -/

def Task.roomsHeld (t : Task) : Nat := t.rooms - t.roomsBack

def isFetch (t : Task) : Bool := t.kind == .fetch

/-- Rooms of a context's budget in use at a station: fetch rooms, or stash rooms. -/
def Station.roomsUsed (x : Station) (c : Nat) (fetch : Bool) : Nat :=
  sumNat ((x.tasks.filter (fun t => t.ctx == c && isFetch t == fetch)).map Task.roomsHeld)

/-- R136: rooms that lengths fill back to back, and the blocks in the rooms before the last. -/
def packRooms (lens : List Nat) : Nat × Nat :=
  let z := lens.foldl (fun (a : Nat × Nat × Nat × Nat) n =>
    -- rooms, bytes in the last, blocks so far, blocks in full rooms
    if a.1 = 0 ∨ Config.roomBytes < a.2.1 + n then (a.1 + 1, n, a.2.2.1 + 1, a.2.2.1)
    else (a.1, a.2.1 + n, a.2.2.1 + 1, a.2.2.2)) (0, 0, 0, 0)
  (z.1, z.2.2.2)

/-- Raw data of the Cellar (R34). -/
def Rec.isRaw (r : Rec) : Bool := r.tier == 0 && r.disp == 0

/-- Bytes a block took in the room it is delivered from. -/
def Task.roomLen (t : Task) (b : List Byte) : Nat := if t.rc.tier == 0 then b.length else b.length + 16

/-- A fetch that reads a record of the far tier, block by block (R133, R355). -/
def Task.farReads (t : Task) : Bool := t.rc.tier == 2 && t.replayRec.isNone

/-- The contiguous bytes that have come, from read 0 on. -/
def gatherReads (m : Assoc (List Byte)) : Nat → Nat → List Byte
  | 0, _ => []
  | fuel + 1, i =>
    match (m.find? (fun p => p.1 == i)).map (·.2) with
    | none => []
    | some l => l ++ gatherReads m fuel (i + 1)

/-- The length by which a block is fitted into a room before it is in hand: the length of its header once that is in
hand; of a sealed block, whose header no one can read yet, the longest it may have (DESIGN CHOICE, log entry 119). -/
def Task.nextLen (t : Task) (o : Nat) : Option Nat :=
  let rest := t.rc.storLen - o
  if t.rc.tier == 0 then
    let l := (gatherReads t.slotData t.slotsNeeded 0).drop o
    if 32 ≤ l.length then some (min rest (huskParse l).blockLen) else none
  else some (min 4144 rest)

/-- Where blocks of these lengths leave off in the rooms of a fetch: rooms begun, the bytes in the last, and the bytes of
all. A room takes blocks back to back until the next would not fit (R136). -/
def Task.fillOf (t : Task) (lens : List Nat) : Nat × Nat × Nat :=
  lens.foldl (fun (a : Nat × Nat × Nat) n =>
    let fit := if t.rc.tier == 0 then n else min 4144 (t.rc.storLen - a.2.2)
    if a.1 = 0 ∨ Config.roomBytes < a.2.1 + fit then (a.1 + 1, n, a.2.2 + n) else (a.1, a.2.1 + n, a.2.2 + n)) (0, 0, 0)

/-- The rooms of a fetch that take the blocks in hand, and the next. -/
def Task.roomsFor (t : Task) : Nat :=
  let f := t.fillOf (t.got.map t.roomLen)
  match t.nextLen f.2.2 with
  | none => max 1 f.1
  | some k => if f.1 = 0 ∨ Config.roomBytes < f.2.1 + k then f.1 + 1 else f.1

/-- Rooms whose last block is among the first `d`: a further block would not fit (R136). Raw data fills 16 slots a room. -/
def Task.roomsDone (t : Task) (d : Nat) : Nat :=
  if t.nexp ≤ d then t.rooms
  else
    let lens := t.got.map t.roomLen
    if t.rc.isRaw then min t.rooms (sumNat (lens.take d) / Config.roomBytes)
    else if t.slotsNeeded = 0 then
      -- the beds of a peer's record: the last has ended with BEDEND, or a further block has begun (R296)
      min t.rooms (if d = t.got.length ∧ t.bedBase = t.rcvd then t.beds else (packRooms (lens.take (d + 1))).1 - 1)
    else
      let f := t.fillOf (lens.take d)
      let next := match lens[d]? with
        | some k => if t.rc.tier == 0 then some k else t.nextLen f.2.2
        | none => t.nextLen f.2.2
      min t.rooms (match next with
        | some k => if Config.roomBytes < f.2.1 + k then f.1 else f.1 - 1
        | none => f.1 - 1)

def Mach.frooms (s : Mach) (c n : Nat) : Nat := ((s.plan c).bind (fun p => p.glob.frooms[n]?)).getD 0
def Mach.srooms (s : Mach) (c n : Nat) : Nat := ((s.plan c).bind (fun p => p.glob.srooms[n]?)).getD 0

/-- The class 0 room reserve (R137). -/
def roomReserve (frooms : Nat) : Nat := min (ceilDiv frooms 4) frooms

/-- The low mark of a fetch's room ring (R135). -/
def Task.lowMark (t : Task) : Nat := t.entry.ringDepth - (if t.cls = 0 then 1 else 2)

/-- A fetch of this class may take a room now: its ring is below its high mark and, once at it, has fallen to its low
mark (R135), and the budget has a room for its class (R137). -/
def Mach.fetchRoomFree (s : Mach) (n : Nat) (t : Task) : Bool :=
  let b := s.frooms t.ctx n
  let free := b - (s.st n).roomsUsed t.ctx true
  decide (t.roomsHeld < t.entry.ringDepth) && (!t.paused || decide (t.roomsHeld ≤ t.lowMark)) &&
    (if t.cls = 0 then decide (1 ≤ free) else decide (roomReserve b + 1 ≤ free))

/-- A fetch takes a room. -/
def Task.takeRoom (t : Task) : Task :=
  { t with rooms := t.rooms + 1, paused := decide (t.entry.ringDepth ≤ t.roomsHeld + 1) }

/-! ## Ending tasks -/

/-- The channel among 1–4 with the most free outstanding slots, the lower index on a tie (R134). -/
def Mach.localChan (s : Mach) (n : Nat) : Nat :=
  let used := fun k => ((s.st n).outst.filter (fun a => a.chan == k)).length
  [2, 3, 4].foldl (fun b k => if used k < used b then k else b) 1

/-- Frees the engine a task holds. -/
def Mach.freeEngine (s : Mach) (n : Nat) (t : Task) : Mach :=
  match t.eng with
  | some e => s.modSt n (fun x => { x with engines := aset {} x.engines e {} })
  | none => s

/-- A channel's UZ_CHAN_STAT entry is written (R142, R440). -/
def Mach.chanNote (s : Mach) (ch : Nat) (st : Status) (residue : Nat) : Mach :=
  s.modChan ch (fun x => { x with status := st, count := (x.count + 1) % 65536, residue })

/-- Work of a channel ends: its entry, and its interrupt where enabled (R142). -/
def Mach.chanEnd (s : Mach) (ch : Nat) (st : Status) (residue : Nat) : Mach :=
  let s := s.chanNote ch st residue
  if bit s.regs.chanIen.toNat ch then ((s.modChan ch (fun x => { x with pend := true })).markSet (w1cPend ch)).raiseVec (24 + ch / 8) else s

/-- The access is a request of a peer fetch for the blocks of its rooms. -/
def Access.asks (a : Access) (id : Nat) : Bool :=
  match a.hook with
  | .peerAsk t _ => t == id
  | _ => false

/-- Requests of a peer fetch for rooms that have not been issued are over; what it has asked for is still to come (R143). -/
def Mach.haltAsks (s : Mach) (n id : Nat) : Mach :=
  (s.modSt n (fun x => { x with acc := x.acc.filter (fun a => !a.asks id) })).modTask n id (fun t =>
    if t.started then { t with rooms := min t.rooms (t.asked + t.mores.length) } else t)

/-- The requests of a peer fetch for rooms, waiting or open, are over: none of them is answered any more. -/
def Mach.dropAsks (s : Mach) (n id : Nat) : Mach :=
  (s.modSt n (fun x => { x with
    acc := x.acc.filter (fun a => !a.asks id), outst := x.outst.filter (fun a => !a.asks id) })).modLodge (fun x => { x with
      links := x.links.map (fun p => (p.1, { p.2 with tx := p.2.tx.filter (fun m => m.more != some (n, id)) })) })

/-- A task is gone: its engine is free, and what it had waiting is given up. -/
def Mach.removeTask (s : Mach) (n : Nat) (t : Task) : Mach :=
  let s := ((s.freeEngine n t).dropTask n t.id).dropAsks n t.id
  s.modSt n (fun x => { x with
    laneQ := x.laneQ.filter (fun j => j.task != t.id)
    acc := x.acc.filter (fun a => a.owner != t.id || a.write) })

/-- Work of a task ends on its channel, and a demotion's on that of its sends too: their entries are written (R142). -/
def Mach.endChans (s : Mach) (n : Nat) (t : Task) (st : Status) : Mach :=
  let s := if t.chan < 8 then s.chanEnd (8 * n + t.chan) st t.residue else s
  if t.chan2 < 8 then s.chanEnd (8 * n + t.chan2) st t.residue2 else s

/-- A task ends: it is gone, and its channels' entries are written. -/
def Mach.endTask (s : Mach) (n : Nat) (t : Task) (st : Status) : Mach := (s.removeTask n t).endChans n t st

/-- Outstanding or waiting accesses of a task. -/
def Station.busyWith (x : Station) (t : Nat) : Bool := x.outst.any (fun a => a.owner == t)

/-- A task that is over ends with its last outstanding transfer and the write of its record (R143, R391). -/
def Mach.endFailed (s : Mach) (n : Nat) (t : Task) : Mach :=
  if (s.st n).busyWith t.id || (s.st n).acc.any (fun a => a.hook == .recWrite t.id) then s
  else s.endTask n t (t.failing.getD .aborted)

/-! ## Aborting (R390, R61) -/

/-- An event of a context in ABORTING is discarded and counted in DISCARDED of its stage (R21). -/
def Mach.discardEvent (s : Mach) (e : QEvent) : Mach :=
  let c := evCtx e.w0
  let g := evStage e.w0
  if (s.stageOf c g).isSome then s.addDiscarded c g else s

/-- Events of the context that wait to enter a queue, and with `all` those that lie in one, are discarded. -/
def Mach.flushEvents (s : Mach) (c : Nat) (all : Bool) : Mach :=
  overList (fun s n =>
    let mine := ((if all then (s.st n).evq else []) ++ (s.st n).evWait).filter (fun e => evCtx e.w0 == c)
    let s := overList Mach.discardEvent s mine
    s.modSt n (fun x => { x with
      evq := if all then x.evq.filter (fun e => evCtx e.w0 != c) else x.evq
      evWait := x.evWait.filter (fun e => evCtx e.w0 != c) })) s (List.range 6)

/-- The log entry of a task fault. -/
def Mach.logTask (s : Mach) (n : Nat) (t : Task) (st : Status) (kind block addr : Nat) : Mach :=
  s.logv { status := st, src := srcStation, unit := n, ctx := some t.ctx, kind, addr, tensor := t.tensor
           stage := t.stage, mb := t.mb, block, layer := t.layer }

/-- R33: a waiting DROP record is written LOST with LOC 0. -/
def Mach.dropLost (s : Mach) (n : Nat) (t : Task) : Mach :=
  let sg := ((s.plan t.ctx).bind (fun p => p.segs[t.entry.segix]?)).getD {}
  let rc := { t.baseRec (s.ctx t.ctx).step with
    state := .lost, tier := 3, loc := 0, rawLen := 0, storLen := 0, segFirst := sg.segFirst, segLast := sg.segLast }
  (s.writeRec n { t with ph := .recWrite } rc).modTask n t.id (fun t => { t with ph := .recWrite })

/-- Bytes of a fetch that its rooms hold: neither delivered nor discarded. -/
def Task.heldBytes (t : Task) : Nat := t.rcvd - t.used

/-- The reads of a fetch whose data has come with that of every earlier one. -/
def Task.readsIn (t : Task) : Nat :=
  ((List.range t.slotsNeeded).takeWhile (fun i => t.slotData.any (fun p => p.1 == i))).length

/-- All data of a fetch has come. -/
def Task.allRead (t : Task) : Bool :=
  t.ph != .recRead &&
    (if 0 < t.slotsNeeded then t.slotsDone == t.slotsNeeded else decide (t.nexp ≤ t.got.length))

/-- The rooms of a discarded fetch whose contents have all come: they go back at once (R60). Its reads fill 16 slots a
room; a far record's rooms are filled block by block, a peer's bed by bed (R136). -/
def Task.roomsSpent (t : Task) : Nat :=
  if t.allRead then t.rooms
  else if t.slotsNeeded = 0 then min t.rooms t.beds
  else if t.farReads then t.roomsDone t.got.length
  else if t.slotsDone = t.slotsIssued then t.rooms
  else min t.rooms (t.readsIn / 16)

/-- A fetch already issued is discarded: its rooms' bytes are wasted, the rooms whose contents have come go back, and it
goes on reading (R60, R61, R136). It ends with
ABORTED in its channel's entry: R60 and R61 let it complete and name no status (DESIGN CHOICE, log entry 91). -/
def Mach.cancelFetch (s : Mach) (n : Nat) (t : Task) : Mach :=
  if t.cancelled || t.ph == .fail then s
  else
    let s := s.addWasted t.ctx t.stage t.heldBytes
    let s := s.freeEngine n t
    let t' := { t with cancelled := true, used := t.rcvd, eng := none
                       ph := if t.ph == .engine || t.ph == .run then .move else t.ph }
    if t'.allRead then s.endTask n t' .aborted
    else s.modTask n t.id (fun _ => { t' with roomsBack := max t'.roomsBack t'.roomsSpent })

/-- What becomes of one task when its context enters ABORTING. -/
def Mach.abortTask (s : Mach) (n : Nat) (t : Task) : Mach :=
  match t.kind, t.ph with
  | .dropWait, .waitCkpt => s.dropLost n t
  | .fetch, .waitPrev => s.dropTask n t.id
  | .fetch, .waitStash => (s.logTask n t .reclost 0 0 0).dropTask n t.id
  | .dropFetch, _ => (s.logTask n t .reclost 0 0 0).dropTask n t.id
  | .fetch, _ => s.cancelFetch n t
  | _, _ => s

def isTicketOf (p : Ticket → Bool) : CellItem → Bool
  | .ticket t _ => p t
  | _ => false

/-- Tickets that satisfy `p` are given up (R59, R60). -/
def Mach.dropTickets (s : Mach) (p : Ticket → Bool) : Mach :=
  overList (fun s n => s.modSt n (fun x => { x with
    cellq := x.cellq.filter (fun i => !isTicketOf p i)
    ticketHeld := x.ticketHeld.filter (fun i => !p i.1) })) s (List.range 6)

/-- SEMWAIT for each engine of the context that waits on a semaphore (R319). -/
def Mach.semwaits (s : Mach) (c : Nat) : Mach :=
  overList (fun s n =>
    overList (fun s (p : Nat × Engine) =>
      match p.2.waiting, p.2.task.bind (s.task n) with
      | some i, some t =>
        if t.ctx = c then
          (s.logv { status := .semwait, src := srcStation, unit := n, ctx := some c, value := i + 65536 * p.1
                    stage := t.stage, mb := t.mb, tensor := t.tensor }).raiseCtx c irqSemwait
        else s
      | _, _ => s) s (s.st n).engines) s (List.range 6)

/-- A context that is RUNNING or DRAINING enters ABORTING; the log names the forcing status (R390). Events held in
DRAINING stay held (R21; log entry 40). -/
def Mach.enterAborting (s : Mach) (c : Nat) (st : Status) : Mach :=
  let all := (s.ctx c).state == .running
  let s := s.modCtx c (fun x => { x with state := .aborting, abortSt := some st })
  let s := s.logv { status := .aborted, src := srcGate, ctx := some c, value := st.code }
  let s := s.semwaits c
  let s := s.flushEvents c all
  let s := s.dropTickets (fun t => t.ctx == c)
  overList (fun s n => Mach.overTasks n (fun s t => if t.ctx = c then s.abortTask n t else s) s) s (List.range 6)

/-- The order of R390 within one aclk: the gatehouse's own faults come first; a station's by its number, then by
group (0 expanders, 1 tasks, 2 numeric reports), then by the place in the group. -/
def rankGate : Nat := 0
def rankAt (n group place : Nat) : Nat := (n + 1) * 2 ^ 24 + group * 2 ^ 20 + place
def rankExp (n core port : Nat) : Nat := rankAt n 0 (2 * core + port)
/-- A task's place is its channel's local index; one without a channel comes after, by its engine. -/
def rankTask (n : Nat) (t : Task) : Nat := rankAt n 1 (if t.chan < 8 then t.chan else 8 + t.eng.getD 0)
def rankNum (n lane : Nat) : Nat := rankAt n 2 lane

/-- A fault that forces a step abort: it acts only on a RUNNING or DRAINING context. Where one of a later place in
the order has forced the abort in this aclk, the entry names the earlier one (R390). -/
def Mach.forceAbort (s : Mach) (c rank : Nat) (st : Status) : Mach :=
  let x := s.ctx c
  match x.state with
  | .running | .draining => (s.modCtx c (fun x => { x with abortAclk := s.aclk, abortRank := rank })).enterAborting c st
  | .aborting =>
    if x.abortAclk = s.aclk ∧ rank < x.abortRank then
      (s.modCtx c (fun x => { x with abortRank := rank, abortSt := some st })).amendLog c .aborted
        (fun e => { e with value := st.code })
    else s
  | _ => s

/-! ## Fetches: failing and completing -/

/-- Bytes of a task's blocks that no send has been issued for: those of a block with its trailer once it is coded, before
that the most it may have (R143; DESIGN CHOICE, log entry 91). -/
def Task.unsent (t : Task) : Nat :=
  let husk := t.kind == .demote && !t.rc.isRaw
  let left := t.blks.filter (fun b => !(b.st == .sent || b.st == .acked))
  let known := sumNat (left.map (fun b => if b.stored.isEmpty then b.rawLen + 48 else b.stored.length + 16))
  let rest := t.nexp - t.blks.length
  known + (if husk then (t.rc.storLen - sumNat (t.blks.map (fun b => b.stored.length))) + 16 * rest
    else (t.rawTotal - sumNat (t.blks.map (fun b => b.rawLen))) + 48 * rest)

/-- Requested bytes of a task's transfers that were never issued, on its channel and on that of a demotion's sends
(R143): slots, blocks of a far record, the beds of a peer's record that were not asked for, and blocks not sent. -/
def Mach.taskResidue (s : Mach) (n : Nat) (t : Task) : Nat × Nat :=
  let mine := (s.st n).acc.filter (fun a => a.owner == t.id && decide (a.chan < 8))
  let queued := sumNat (mine.map (fun a => a.len))
  let slots := queued + 4096 * (t.slotsNeeded - t.slotsIssued)
  match t.kind with
  | .fetch =>
    if t.fromRooms then (0, 0)
    else if t.farReads then
      let left := t.rc.storLen - sumNat (t.got.map t.roomLen)
      (if (s.st n).outst.any (fun a => a.owner == t.id) then left - min 4144 left else left, 0)
    else if t.slotsNeeded = 0 then
      let asked := if t.started then t.rooms - t.beds - (mine.filter (fun a => a.asks t.id)).length else 0
      ((t.rc.storLen - t.rcvd) - Config.roomBytes * asked, 0)
    else (slots, 0)
  | .demote => (slots, t.unsent)
  | .stash | .recall =>
    if t.path == .peer || t.path == .far then (t.unsent, 0)
    else (if t.allClosed && t.parsed == t.blks.length then queued else slots, 0)
  | _ => (0, 0)

/-- The ledger address logged of a task; a replay fetch reads the copy of the record whose ledger address its item gives
(R270, R275). -/
def Mach.ledgerOf (s : Mach) (t : Task) : Nat :=
  if t.replayRec.isSome then t.loc else (t.fill.map (s.recAddr t.ctx t.stage)).getD 0

/-- R392: the fetch delivers no more, its rooms' bytes are wasted, its record is LOST in the ledger cache, and the
step is aborted. The task stays until its outstanding transfers have ended. -/
def Mach.failFetch (s : Mach) (n : Nat) (t : Task) (st : Status) (kind block : Nat) : Mach :=
  let s := s.logTask n t st kind block (s.ledgerOf t)
  let s := s.addWasted t.ctx t.stage t.heldBytes
  let s := match t.fill with
    | some k =>
      if t.replayRec.isSome then s
      else s.modRec t.ctx t.stage k (fun r => { r with lost := some (r.lost.getD .reclost) })
    | none => s
  let res := s.taskResidue n t
  let t := { t with residue := res.1, residue2 := res.2 }
  let s := ((s.freeEngine n t).haltAsks n t.id).modSt n (fun x => { x with
    acc := x.acc.filter (fun a => a.owner != t.id) })
  let s := if (s.st n).busyWith t.id then
      s.modTask n t.id (fun u => { u with
        ph := .fail, eng := none, slotData := [], got := [], roomsBack := u.rooms, failing := some st
        residue := t.residue, residue2 := t.residue2 })
    else s.endTask n { t with eng := none } st
  -- the DROP fetches that wait for a ticket this fetch would have carried end too (R456)
  let segs := match s.plan t.ctx with
    | some p => (p.segs.zip (List.range p.segs.length)).filter (fun (q : Segment × Nat) => q.1.ckpt == t.tensor && q.1.ckptLayer == t.layer)
    | none => []
  let s := Mach.overTasks n (fun s u =>
      if u.kind == .dropFetch && u.ctx == t.ctx && u.stage == t.stage && u.mb == t.mb &&
          segs.any (fun (q : Segment × Nat) => q.2 == u.entry.segix) then
        (s.logTask n u .reclost 0 0 0).dropTask n u.id
      else s) s
  s.forceAbort t.ctx (rankTask n t) st

/-- R51: a record is drained after its last delivery. -/
def Mach.countDelivery (s : Mach) (t : Task) : Mach :=
  match t.fill with
  | none => s
  | some k =>
    let s := s.modRec t.ctx t.stage k (fun r =>
      { r with fetchesDone := r.fetchesDone + 1, drained := decide (t.entry.consume.length ≤ r.fetchesDone + 1) })
    s.reclaim t.ctx t.stage

/-- R163: an on-time fetch from a tier lengthens the run of its home station and tier. One that is read from the replay
reserve or from the rooms that still hold its blocks is no fetch from a tier. -/
def Mach.onTime (s : Mach) (n : Nat) (t : Task) : Mach :=
  if (t.rc.tier = 1 ∨ t.rc.tier = 2) && t.late.isNone && t.replayRec.isNone && !t.fromRooms then
    s.modCtx t.ctx (fun x => { x with
      extra := amod (0, 0) x.extra (2 * n + t.rc.tier - 1) (fun p => (p.1, p.2 + 1)) })
  else s

/-! ## Stashes: failing (R391) -/

/-- The record a failed stash writes (R391, R36): where its data was to be, and no stored bytes. -/
def Mach.lostRec (s : Mach) (t : Task) : Rec :=
  let rc := { t.baseRec (s.ctx t.ctx).step with state := .lost, storLen := 0 }
  if t.path == .peer || t.path == .far then
    let x := ((s.plan t.ctx).map (fun p => p.tier t.tierix)).getD {}
    { rc with tier := x.kind, loc := t.loc, keySlot := x.keySlot }
  else { rc with loc := if t.reserved then (s.slotAddr t.ctx t.stage t.slot0).getD 0 else 0 }

/-- The record is written LOST, the rooms are free, and each core the task read gets ERR in its released cell. -/
def Mach.failStash (s : Mach) (n : Nat) (t : Task) (st : Status) (kind : Nat := 0) : Mach :=
  let s := s.logTask n t st kind 0 (match t.fill with
    | some k => s.recAddr t.ctx t.stage k
    | none => 0)
  let s := s.freeEngine n t
  let rc := s.lostRec t
  let s := match t.fill with
    | some k => s.modRec t.ctx t.stage k (fun r => { r with lost := some .reclost, stashing := false })
    | none => s
  let s := s.writeRec n t rc
  let s := if t.pendDone then s else overList (fun s k => s.cellPush n (.err k t.entry.cell st)) s (sortedCores t.readCores)
  let res := s.taskResidue n t
  let s := s.modSt n (fun x => { x with
    laneQ := x.laneQ.filter (fun j => j.task != t.id)
    acc := x.acc.filter (fun a => a.owner != t.id || a.hook == .recWrite t.id) })
  let s := s.modTask n t.id (fun t => { t with
    ph := .fail, eng := none, failing := some st, roomsBack := t.rooms, residue := res.1, residue2 := res.2 })
  s.forceAbort t.ctx (rankTask n t) st

end Sys2Proof.Machine
end

