-- ==== Sys2Proof/Machine/Capture.lean ====
section
/-!
DEFINITION. Replay capture: the reserve and its parts (R269), items (R270), stopping (R271) and the states of the
reserve (R272, R273).
-/
namespace Sys2Proof.Machine

/-- Bytes of one station part of the reserve. -/
def ConfigSet.partBytes (x : ConfigSet) : Nat := x.rplSize.toNat / 6 / 4096 * 4096

/-- Fabric address of a station's part of the reserve that holds the step. -/
def Mach.partBase (s : Mach) (c n : Nat) : Nat :=
  let r := (s.ctx c).reserve
  s.fabAddr (r.base + n * r.part)

def ReserveState.code : ReserveState → Nat
  | .empty => 0 | .capturing => 1 | .valid => 2 | .frozen => 3 | .invalid => 4

/-- The headers of the parts are written, for the newest state only; none of a reserve that was not judged (R269). Their
bytes are free values (log entry 31). -/
def Mach.partHeaders (s : Mach) (c : Nat) : Mach :=
  let x := s.ctx c
  let r := x.reserve
  if r.badRegion || decide (r.part < 4096) || (r.state == .empty && x.state == .idle) then s
  else
    overList (fun s n =>
      let held := [r.state.code, r.step.toNat, r.jobSeed.toNat, r.planAddr, r.planCrc.toNat,
        (aget [] r.items n).length, aget 0 r.bytes n, b2n r.aborted]
      s.queue2 n 1 c (s.partBase c n) ((List.range 4096).map (Config.replayHeader held)) (.capHead c))
      (s.dropWaiting (· == .capHead c)) (List.range 6)

def Mach.setReserve (s : Mach) (c : Nat) (f : Reserve → Reserve) : Mach :=
  (s.modCtx c (fun x => { x with reserve := f x.reserve })).partHeaders c

/-- The reserve is empty, or takes the region of the active set for a step (R272). -/
def ConfigSet.fresh (k : ConfigSet) (r : Reserve) (st : ReserveState) : Reserve :=
  { r with state := st, aborted := false, freezeReq := false, closing := false, base := k.rplBase.toNat, part := k.partBytes }

/-- A write of an item of the reserve. -/
def Hook.capOf (c : Nat) : Hook → Bool
  | .capWrite d _ _ => d == c
  | .capFetch d => d == c
  | _ => false

/-- The task of a LODGE or FAR record is over when its record is RESIDENT and its item captured (R32, R271). -/
def Mach.endRemote (s : Mach) (n : Nat) (t : Task) : Mach :=
  let owed := match t.fill.bind (s.recInfo t.ctx t.stage) with
    | some r => !r.captured
    | none => false
  if t.finalDone && !owed then s.endTask n t .ok else s

/-- The step's capture is under way (R270). -/
def Mach.capturing (s : Mach) (c : Nat) : Bool :=
  (s.ctx c).reserve.state == .capturing && !(s.ctx c).reserve.closing

/-- No record's storage waits for its item any more (R271). -/
def Mach.capturesOff (s : Mach) (c : Nat) : Mach :=
  let s := s.modCtx c (fun x => { x with
    stages := x.stages.map (fun p => (p.1, { p.2 with recs := p.2.recs.map (fun r => { r with captured := true }) })) })
  let s := overList (fun s (p : Nat × StageRun) => s.reclaim c p.1) s (s.ctx c).stages
  overList (fun s n => Mach.overTasks n (fun s t =>
    if (t.kind == .stash || t.kind == .recall) && t.ctx == c then s.endRemote n t else s) s) s (List.range 6)

/-- The capture stops: the reserve is INVALID, and items not issued are not written (R271). -/
def Mach.stopCapture (s : Mach) (c : Nat) : Mach :=
  ((s.dropWaiting (Hook.capOf c)).setReserve c (fun r =>
    { r with state := .invalid, aborted := false, freezeReq := false, closing := false })).capturesOff c

/-- The first event of a step with capture enabled, below level 1, starts the capture (R272). A capture that is to be
FROZEN keeps the reserve while its last writes are out. -/
def Mach.beginCapture (s : Mach) (c : Nat) : Mach :=
  let x := s.ctx c
  let r := x.reserve
  if W64.bits x.act.rplCtl 0 0 = 0 || r.badRegion || r.state == .frozen || (r.closing && r.freezeReq) ||
      decide (0 < s.level) || x.replaying || r.copying then s
  else
    (s.dropWaiting (Hook.capOf c)).setReserve c (fun r => { x.act.fresh r .capturing with
      step := x.step, items := [], bytes := []
      jobSeed := ((x.act.plan).map (fun p => p.glob.jobSeed)).getD 0
      planAddr := ((x.act.plan).map (fun p => p.addr)).getD 0
      planCrc := ((x.act.plan).map (fun p => p.crc)).getD 0 })

/-- The whole step's capture is written: VALID, or FROZEN (R272, R273). -/
def Mach.captureDone (s : Mach) (c : Nat) : Mach :=
  let r := (s.ctx c).reserve
  if r.state == .capturing && r.closing && !s.pendingHook (Hook.capOf c) then
    s.setReserve c (fun r => { r with state := if r.freezeReq then .frozen else .valid, freezeReq := false, closing := false })
  else s

/-- The step closes: its capture is over once its writes have their responses. -/
def Mach.endCapture (s : Mach) (c : Nat) (aborted : Bool) : Mach :=
  if s.capturing c then
    ((s.modCtx c (fun x => { x with reserve := { x.reserve with aborted, closing := true } })).capturesOff c).captureDone c
  else s

/-- The pieces of `l` from address `a` up, cut at 4 KiB boundaries. -/
def cut4k : Nat → Nat → List Byte → List (Nat × List Byte)
  | 0, _, _ => []
  | fuel + 1, a, l =>
    if l.isEmpty then []
    else
      let n := 4096 - a % 4096
      (a, l.take n) :: cut4k fuel (a + n) (l.drop n)

/-- Writes an item into a station's part, as class 2 writes on channel 7, or stops the capture. -/
def Mach.appendItem (s : Mach) (c n : Nat) (item : CapItem) (bytes : List Byte) (hook : Hook) : Mach :=
  let x := s.ctx c
  let off := aget 0 x.reserve.bytes n
  let len := roundUp bytes.length 64
  if x.reserve.part < 4096 + off + len then s.stopCapture c
  else
    let s := s.modCtx c (fun x => { x with reserve := { x.reserve with
      items := amod [] x.reserve.items n (· ++ [item]), bytes := aset 0 x.reserve.bytes n (off + len) } })
    overList (fun s (p : Nat × List Byte) => s.queue2 n 1 c p.1 p.2 hook) s
      (cut4k (len / 4096 + 2) (s.partBase c n + 4096 + off) (padTo bytes len))

/-- The REC item of a stash (R270): the record as written at step 6 and its stored bytes. DATALEN counts the padding of the
data to 64 B (DESIGN CHOICE, log entry 125). -/
def Mach.captureRec (s : Mach) (n : Nat) (t : Task) (rc : Rec) (data : List Byte) (is_sealed : Bool) : Mach :=
  match t.fill with
  | none => s
  | some k =>
    if !s.capturing t.ctx then s
    else
      let off := 4096 + aget 0 (s.ctx t.ctx).reserve.bytes n
      let ledger := s.recAddr t.ctx t.stage k
      let dlen := roundUp data.length 64
      let bytes := capItemHead t.stage t.mb (b2n is_sealed) t.layer 0 ledger 0 dlen 1 ++ recBytes rc ++ padTo data dlen
      let s := s.modRec t.ctx t.stage k (fun r => { r with captured := false, recItem := off })
      s.appendItem t.ctx n (.recd t.stage t.mb t.layer ledger off dlen is_sealed rc) bytes (.capWrite t.ctx t.stage k)

/-- The FETCH item of a fetch task (R270); `tick` is the layer at whose tick it fell due. -/
def Mach.captureFetch (s : Mach) (n : Nat) (t : Task) (tick ref : Nat) : Mach :=
  if !s.capturing t.ctx then s
  else
    s.appendItem t.ctx n (.fetch t.stage t.mb tick t.fetchNo t.cls ref)
      (capItemHead t.stage t.mb (2 * t.cls) tick t.fetchNo 0 ref 0 2) (.capFetch t.ctx)

/-- A capture write returns: with the last of its item, the record's storage is no longer kept. -/
def Mach.captureWritten (s : Mach) (c g k : Nat) : Mach :=
  let n := s.home c g
  let more := ((s.st n).acc ++ (s.st n).outst).any (fun a => a.hook == .capWrite c g k)
  if more then s else (s.modRec c g k (fun r => { r with captured := true })).reclaim c g

end Sys2Proof.Machine
end

