-- ==== Sys2Proof/Machine/Links.lean ====
section
/-!
DEFINITION. What this device sends over Grirdo links: message headers (R285, R286), the choice of a link (R281),
requests and their answers owed (R288, R297), FREE of a record (R298).
-/
namespace Sys2Proof

/-! ## Header fields (R285) -/

def LMsg.op (m : LMsg) : Nat := W64.bits m.h 7 0
def LMsg.plen (m : LMsg) : Nat := W64.bits m.h 20 8
def LMsg.rsvd (m : LMsg) : Bool := W64.bits m.h 24 21 != 0 || W64.bits m.h 47 42 != 0
def LMsg.cls (m : LMsg) : Nat := W64.bits m.h 26 25
def LMsg.src (m : LMsg) : Nat := W64.bits m.h 30 27
def LMsg.dst (m : LMsg) : Nat := W64.bits m.h 34 31
def LMsg.ctx (m : LMsg) : Nat := W64.bits m.h 36 35
def LMsg.claim (m : LMsg) : Nat := W64.bits m.h 41 37
def LMsg.epoch (m : LMsg) : Nat := W64.bits m.h 63 48
def LMsg.len (m : LMsg) : Nat := 32 + m.payload.length

def LMsg.withEpoch (m : LMsg) (e : Nat) : LMsg :=
  { m with h := (m.h &&& 0x0000FFFFFFFFFFFF) ||| Machine.word [(e, 48)] }

end Sys2Proof

namespace Sys2Proof.Machine

def lopHello : Nat := 1
def lopClaim : Nat := 2
def lopUnclaim : Nat := 3
def lopPut : Nat := 4
def lopPutAck : Nat := 5
def lopGet : Nat := 6
def lopMore : Nat := 7
def lopData : Nat := 8
def lopFree : Nat := 9
def lopRelease : Nat := 10
def lopAck : Nat := 11
def lopNak : Nat := 12
def lopEvict : Nat := 13

def linkDownSt : Nat := 0
def linkTraining : Nat := 1
def linkUpSt : Nat := 2

/-- A message with its header; EPOCH is filled when it is sent. -/
def mkMsg (op cls src dst ctx claim : Nat) (a0 a1 a2 : W64) (payload : List Byte) : LMsg :=
  { h := word [(op, 0), (payload.length / 16, 8), (cls, 25), (src, 27), (dst, 31), (ctx, 35), (claim, 37)]
    a0, a1, a2, payload }

/-- This device's epoch (R287). -/
def Mach.epoch (s : Mach) : Nat := W64.bits s.regs.glEpoch 15 0

/-- UP links to a device, lowest first. -/
def Mach.upLinks (s : Mach) (dev : Nat) : List Nat :=
  (List.range Config.nLink).filter (fun l => (s.link l).st == linkUpSt && (s.link l).dev == dev)

/-- The link that `better` prefers, the lower number on a tie. -/
def pickLink (better : Nat → Nat → Bool) : List Nat → Option Nat
  | [] => none
  | l :: ls =>
    some (ls.foldl (fun b k => if better k b then k else b) l)

/-- Link for a new PUT attempt, for a GET, and for any other request (R281). -/
def Mach.putLink (s : Mach) (dev : Nat) : Option Nat :=
  pickLink (fun a b => decide ((s.link b).credits < (s.link a).credits)) (s.upLinks dev)

def ReqUse.isGet : ReqUse → Bool
  | .get _ _ => true
  | _ => false

def Mach.openGets (s : Mach) (l : Nat) : Nat :=
  (s.lodge.reqs.filter (fun r => r.use.isGet && r.link == some l)).length

def Mach.getLink (s : Mach) (dev : Nat) : Option Nat :=
  pickLink (fun a b => decide (s.openGets a < s.openGets b)) (s.upLinks dev)

def Mach.otherLink (s : Mach) (dev : Nat) : Option Nat := (s.upLinks dev).head?

/-- A message waits to be sent on a link. -/
def Mach.queueTx (s : Mach) (l : Nat) (x : TxMsg) : Mach := s.modLink l (fun k => { k with tx := k.tx ++ [x] })

def ReqUse.isPut : ReqUse → Bool
  | .put _ _ _ => true
  | .putOld _ _ _ _ _ => true
  | _ => false

/-- A request of this device waits for its answer; with no link it waits for one. -/
def Mach.newReq (s : Mach) (use : ReqUse) (dev : Nat) (link : Option Nat) (msg : LMsg) (cls : Nat) : Mach :=
  let id := s.lodge.nextReq
  let s := s.modLodge (fun x => { x with
    reqs := x.reqs ++ [{ id, use, dev, link, msg, cls }], nextReq := id + 1 })
  match link with
  | some l => s.queueTx l { msg, cls, isPut := use.isPut, req := some id }
  | none => s

/-- A request is answered or given up: it and its waiting message are gone. -/
def Mach.dropReq (s : Mach) (id : Nat) : Mach :=
  s.modLodge (fun x => { x with
    reqs := x.reqs.filter (fun r => r.id != id)
    links := x.links.map (fun p => (p.1, { p.2 with tx := p.2.tx.filter (fun t => t.req != some id) })) })

/-- Requests that satisfy `p` are given up. -/
def Mach.dropReqs (s : Mach) (p : Req → Bool) : Mach :=
  overList (fun s (r : Req) => if p r then s.dropReq r.id else s) s s.lodge.reqs

/-- The claim of a context whose window holds an address of a device. -/
def Ctx.claimAt (x : Ctx) (a : Nat) : Option ReqClaim :=
  x.claims.find? (fun k => decide (k.base ≤ a) && decide (a < k.base + k.size))

/-- FREE of a record's beds at its innkeeper (R298). -/
def Mach.sendFree (s : Mach) (c loc : Nat) : Mach :=
  match (s.ctx c).claimAt loc with
  | none => s
  | some k =>
    s.newReq (.free c) k.dev (s.otherLink k.dev)
      (mkMsg lopFree 1 s.devid k.dev c k.claim (BitVec.ofNat 64 loc) 0 0 []) 1

end Sys2Proof.Machine
end

