-- ==== Sys2Proof/Machine/Store.lean ====
section
/-!
DEFINITION. How a stash, a recall or a demotion stores its blocks: Cellar slots (R43, R44, R50), sends to a tier and
their rooms (R135, R136, R284), the far window (R354), records (R30), recalls (R300 step 2, R354, R355, R378), restarts
as KEEP (R380), abandoned demotions (R54) and the places of far writes (R354).
-/
namespace Sys2Proof.Machine

/-! ## Blocks of a task -/

def Blk.coded (b : Blk) : Bool := b.st != .closed && b.st != .lane

/-- Blocks from the first on that are coded, and how many. -/
def codedPrefix : List Blk → List Blk
  | [] => []
  | b :: bs => if b.coded then b :: codedPrefix bs else []

/-- Every block of the run is closed and coded. -/
def Task.allCoded (t : Task) : Bool := t.allClosed && t.blks.all Blk.coded

/-- What the Cellar holds of a block. -/
def Task.cellarBytes (t : Task) (b : Blk) : List Byte := if t.path == .raw then b.raw else b.stored

/-- Length of a block with its trailer. -/
def Blk.sealedLen (b : Blk) : Nat := b.stored.length + 16

def Task.sealedTotal (t : Task) : Nat := sumNat (t.blks.map Blk.sealedLen)

def Task.plainTotal (t : Task) : Nat := sumNat (t.blks.map (fun b => (t.cellarBytes b).length))

/-- The most bytes a task's blocks can take in a far window: a coded block has at most the raw bytes, a header and a
trailer; the blocks of a HUSK record are coded already (R194, R195). -/
def Task.sealedMost (t : Task) : Nat :=
  if t.kind == .demote && !t.rc.isRaw then t.rc.storLen + 16 * t.nexp else t.rawTotal + 48 * t.nexp

/-- The tier entry a task sends to. -/
def Mach.taskTier (s : Mach) (t : Task) : Tier := ((s.plan t.ctx).map (fun p => p.tier t.tierix)).getD {}

/-- A sealed block of a task (R195): the tweak is the ledger address (R40). The key slot is the one that the task's
record holds once it has left the chip, its tier entry's (R199; for a demotion R47 step 4; log entry 96). -/
def Mach.sealedBlk (s : Mach) (t : Task) (b : Blk) : List Byte :=
  let k := (s.taskTier t).keySlot
  sealBlock (s.key k) k (s.recAddr t.ctx t.stage (t.fill.getD 0)) b.stored

/-! ## Ending a task with transfers outstanding -/

/-- The task is cut short; it stays until its outstanding transfers have ended, and its channel shows the residue. -/
def Mach.quitTask (s : Mach) (n id : Nat) (st : Status) : Mach :=
  match s.task n id with
  | none => s
  | some t =>
    let res := s.taskResidue n t
    if (s.st n).busyWith id then
      ((s.freeEngine n t).modSt n (fun x => { x with
        laneQ := x.laneQ.filter (fun j => j.task != id)
        acc := x.acc.filter (fun a => a.owner != id || a.hook == .recWrite id) })).modTask n id
        (fun t => { t with
          ph := .fail, eng := none, failing := some st, roomsBack := t.rooms, residue := res.1, residue2 := res.2 })
    else s.endTask n { t with residue := res.1, residue2 := res.2 } st

/-- A send that its link or the CXL port has taken: a PUT has been sent on its link, and no line of the block is held. -/
def Mach.wentOut (s : Mach) (n : Nat) (h : Hook) : Bool :=
  let put := fun (r : Req) (t b : Nat) => match r.use with
    | .put m u k => m == n && u == t && k == b
    | .putOld _ _ m u k => m == n && u == t && k == b
    | _ => false
  match h with
  | .putSend t b => !s.lodge.reqs.any (fun r => put r t b && !r.sent)
  | .farSend t _ => !s.hs.ops.any (fun o => o.use == .farLine n t && !o.issued)
  | _ => false

/-- An access of a task's sends to a tier. -/
def Access.sends (a : Access) (id : Nat) : Bool :=
  match a.hook with
  | .putSend t _ => t == id
  | .farSend t _ => t == id
  | .farBack t => t == id
  | _ => false

/-- PUTs of a task are of an attempt given up; with `free` the beds of its record are freed when its LOC is known (R54,
R298). -/
def Mach.oldPuts (s : Mach) (n id : Nat) (free : Bool) : Mach :=
  s.modLodge (fun x => { x with reqs := x.reqs.map (fun (r : Req) => match r.use with
    | .put st t b => if st == n && t == id then { r with use := .putOld r.msg.ctx free st t b } else r
    | _ => r) })

/-- An attempt to send a task's blocks is withdrawn: what has not gone out is given up, with its host lines. A PUT that has
been sent is still answered (R54, R298, R299). -/
def Mach.dropSends (s : Mach) (n id : Nat) (free : Bool) : Mach :=
  let s := s.modSt n (fun x => { x with
    acc := x.acc.filter (fun a => !a.sends id), outst := x.outst.filter (fun a => !a.sends id) })
  let s := (s.dropReqs (fun r => !r.sent && (match r.use with
    | .put st t _ => st == n && t == id
    | .putOld _ _ st t _ => st == n && t == id
    | _ => false))).oldPuts n id free
  s.modHs (fun h => { h with ops := h.ops.filter (fun o => match o.use with
    | .farLine st t => !(st == n && t == id)
    | .farBack st t => !(st == n && t == id)
    | _ => true) })

/-- No further send of a task is issued: those issued go out, and the task waits for them (R143). At level 2 and above one
of which nothing has gone out starts no send (R377). -/
def Mach.haltSends (s : Mach) (n id : Nat) (free : Bool) : Mach :=
  match s.task n id with
  | none => s
  | some t =>
    if !t.started && decide (2 ≤ s.level) then s.dropSends n id free
    else (s.modSt n (fun x => { x with acc := x.acc.filter (fun a => !a.sends id) })).oldPuts n id free

/-! ## Giving up a send -/

/-- The record of a demotion stays at TIER 0, and the beds that are known to hold its blocks are freed (R54). -/
def Mach.stayInCellar (s : Mach) (n : Nat) (t : Task) : Mach :=
  let s := match t.fill with
    | none => s
    | some k =>
      let s := if (s.taskTier t).kind == 1 && t.loc != 0 then s.sendFree t.ctx t.loc else s
      s.rewriteRec t.ctx t.stage k { t.rc with state := .resident }
  let s := s.modStage t.ctx t.stage (fun x => { x with demoteChunk := false })
  s.quitTask n t.id .aborted

/-- A demotion is abandoned (R54). -/
def Mach.abandonDemotion (s : Mach) (n : Nat) (t : Task) : Mach := (s.dropSends n t.id true).stayInCellar n t

/-- A stash fails: what it has sent for a tier is given up, as R54 gives up a demotion (R391). -/
def Mach.failSend (s : Mach) (n : Nat) (t : Task) (st : Status) (kind : Nat := 0) : Mach :=
  let s := s.haltSends n t.id true
  let s := if t.path == .peer && (s.taskTier t).kind == 1 && t.loc != 0 then s.sendFree t.ctx t.loc else s
  s.failStash n t st kind

/-- A demotion fails (R389): the record stays at TIER 0, or is rewritten LOST when its copy is damaged. -/
def Mach.failDemotion (s : Mach) (n : Nat) (t : Task) (st : Status) (kind block : Nat) (intact : Bool) : Mach :=
  let addr := s.recAddr t.ctx t.stage (t.fill.getD 0)
  let s := s.logTask n t st kind block addr
  if intact then (s.haltSends n t.id true).stayInCellar n t
  else
    let s := s.haltSends n t.id false
    let s := match t.fill with
      | none => s
      | some k =>
        (s.rewriteRec t.ctx t.stage k { t.rc with state := .lost }).modRec t.ctx t.stage k
          (fun r => { r with lost := some .reclost })
    let s := s.modStage t.ctx t.stage (fun x => { x with demoteChunk := false })
    s.quitTask n t.id st

/-! ## Words of Inn rooms and of the ledger cache (R395) -/

/-- A task fails on a word of an array that has a double-bit error (R395, R391, R392, R389): INNERR with KIND 1. The
Cellar copy that a demotion moves is not touched by it. -/
def Mach.failInn (s : Mach) (n : Nat) (t : Task) (blk : Nat) : Mach :=
  if t.kind == .fetch || t.kind == .dropFetch then s.failFetch n t .innerr 1 blk
  else if t.kind == .demote then s.failDemotion n t .innerr 1 blk true
  else s.failSend n t .innerr 1

/-- A word with a single-bit error is corrected and logged (R395). -/
def Mach.corrected (s : Mach) (n : Nat) (t : Task) (blk : Nat) : Mach :=
  s.logTask n t .innerr 0 blk (s.ledgerOf t)

/-- A task reads words of its Inn rooms, and goes on with `go` (R395). -/
def Mach.readInn (s : Mach) (n id blk : Nat) (go : Mach → Mach) : Mach :=
  match s.task n id with
  | none => go s
  | some t =>
    match t.ecc with
    | .clean => go s
    | .single => go ((s.corrected n t blk).modTask n id (fun t => { t with ecc := .clean }))
    | .double => if t.ph == .fail then s else s.failInn n t blk

/-- A task reads its record in the ledger cache, and goes on with `go` (R395). -/
def Mach.readCache (s : Mach) (n : Nat) (t : Task) (go : Mach → Mach) : Mach :=
  match t.fill.bind (s.recInfo t.ctx t.stage), t.fill with
  | some r, some k =>
    match r.ecc with
    | .clean => go s
    | .single => go ((s.corrected n t 0).modRec t.ctx t.stage k (fun r => { r with ecc := .clean }))
    | .double => s.failInn n t 0
  | _, _ => go s

/-! ## Cellar slots -/

/-- The disposition the plan gives the task's entry. -/
def Mach.plannedDisp (s : Mach) (t : Task) : Disp :=
  (((s.plan t.ctx).bind (fun p => p.entries[t.ent]?)).map (fun e => e.disp)).getD .keep

/-- A fallback record (R42). -/
def Mach.isFallback (s : Mach) (t : Task) : Bool :=
  t.kind == .recall || (t.path == .raw && s.plannedDisp t != .keep) || (t.path == .husk && s.plannedDisp t != .husk)

/-- The task waits to reserve its slots. -/
def Task.waitsSlots (t : Task) : Bool :=
  !t.reserved && decide (0 < t.slotsNeeded) && (t.path == .raw || t.path == .husk) &&
    (t.kind == .stash || t.kind == .recall) && t.ph != .fail

/-- Issues the slot writes of a Cellar stash that its coded blocks allow (R44). -/
def Mach.cellarWrites (s : Mach) (n id : Nat) : Mach :=
  match s.task n id with
  | none => s
  | some t =>
    if !t.reserved || !(t.path == .raw || t.path == .husk) then s
    else
      let new := codedPrefix (t.blks.drop t.parsed)
      let gather := t.gather ++ (new.map t.cellarBytes).flatten
      let parsed := t.parsed + new.length
      let complete := t.allClosed && parsed == t.blks.length
      let upto := if complete then ceilDiv gather.length Config.slotBytes else gather.length / Config.slotBytes
      let s := s.modTask n id (fun t => { t with gather, parsed, slotsIssued := max t.slotsIssued upto })
      overList (fun s i =>
        match s.slotAddr t.ctx t.stage (t.slot0 + i) with
        | none => s
        | some a =>
          let d := (gather.drop (Config.slotBytes * i)).take Config.slotBytes
          s.queueAcc n { share := 1, cls := 1, ctx := t.ctx, chan := t.chan, owner := id, cost := 4096, addr := a
                         len := 4096, data := placed a d, write := true, hook := .slotWrite id i })
        s ((List.range upto).drop t.slotsIssued)

/-- A Cellar stash moves on: blocks that come out of Inn rooms are read there first (R395). -/
def Mach.advanceCellar (s : Mach) (n id : Nat) : Mach :=
  match s.task n id with
  | none => s
  | some t =>
    if !t.reserved || t.roomsHeld = 0 || (codedPrefix (t.blks.drop t.parsed)).isEmpty then s.cellarWrites n id
    else s.readInn n id t.parsed (fun s => s.cellarWrites n id)

/-- Takes the slots of a task when the chain holds them. -/
def Mach.reserveTask (s : Mach) (n : Nat) (t : Task) : Option Mach :=
  match t.fill, s.tryReserve t.ctx t.stage t.slotsNeeded with
  | some k, some (a, s) =>
    let s := s.modRec t.ctx t.stage k (fun r =>
      { r with slot0 := a, slots := t.slotsNeeded, reclaimed := false, hole := r.hole + r.slots })
    some ((s.modTask n t.id (fun t => { t with
      reserved := true, slot0 := a
      ph := if t.ph == .chunk then (if t.kind == .recall then .move else .engine) else t.ph })).advanceCellar n t.id)
  | _, _ => none

/-- The waiting tasks of a stage take their slots in order, up to the first that cannot. -/
def Mach.reserveRun (s : Mach) (n : Nat) : List Task → Mach
  | [] => s
  | t :: ts =>
    match s.reserveTask n t with
    | some s => Mach.reserveRun s n ts
    | none => s

def Mach.slotWaiters (s : Mach) (n c g : Nat) : List Task :=
  (s.st n).tasks.filter (fun t => t.ctx == c && t.stage == g && t.waitsSlots)

def Mach.reserveAll (s : Mach) (n c g : Nat) : Mach := s.reserveRun n (s.slotWaiters n c g)

/-- Links the lowest free chunk to a stage's chain (R43). -/
def Mach.linkChunk (s : Mach) (c g : Nat) : Mach :=
  match s.lowestFree c with
  | none => s
  | some k => (s.modStage c g (fun x => { x with chain := x.chain ++ [k] })).demoteMarks c

/-! ## Records -/

/-- The record of blocks that stand in the Cellar. -/
def Mach.cellarRec (s : Mach) (t : Task) : Rec :=
  { t.baseRec (s.ctx t.ctx).step with
    state := .resident, tier := 0, loc := (s.slotAddr t.ctx t.stage t.slot0).getD 0, storLen := t.plainTotal }

/-- The record of blocks sent to a tier, or about to be. -/
def Mach.tierRec (s : Mach) (t : Task) (state : RecState) : Rec :=
  let base := if t.kind == .demote then t.rc else t.baseRec (s.ctx t.ctx).step
  { base with state, tier := (s.taskTier t).kind, loc := t.loc, storLen := t.sealedTotal
              keySlot := (s.taskTier t).keySlot, demoted := t.kind == .demote }

/-- A Cellar stash or recall whose slot writes are all back writes its record. -/
def Mach.cellarDone (s : Mach) (n id : Nat) : Mach :=
  match s.task n id with
  | none => s
  | some t =>
    let whole := t.allCoded && t.reserved && t.parsed == t.blks.length && t.slotsDone == t.slotsIssued
    if whole && (t.ph == .move || t.ph == .run) && (t.kind != .recall || t.pendDone) then
      (s.modTask n id (fun t => { t with ph := if t.kind == .recall then .final else .recWrite })).writeRec n t (s.cellarRec t)
    else s

/-! ## Sends to a tier -/

/-- Bytes of the Cellar copy that a block of a demotion stands for. -/
def Task.cellarLen (t : Task) (b : Blk) : Nat := if t.rc.isRaw then b.rawLen else b.stored.length

/-- The blocks of a task from the first on that have been sent. -/
def Task.sentBlks (t : Task) : List Blk := t.blks.takeWhile (fun b => b.st == .sent || b.st == .acked)

/-- Rooms of a demotion that hold unsent blocks, whole or in part (R135). -/
def Task.roomsUnsent (t : Task) : Nat :=
  if t.allCoded && t.sentBlks.length == t.blks.length then 0
  else t.rooms - sumNat (t.sentBlks.map t.cellarLen) / Config.roomBytes

/-- Rooms of a demotion that are filled: their 64 KiB of the Cellar copy are in, and every block that ends in them is
coded (R135). -/
def Task.filledRooms (t : Task) : Nat :=
  let here := (gatherReads t.slotData t.slotsNeeded 0).length / Config.roomBytes
  if !t.rc.isRaw then here
  else
    let p := codedPrefix t.blks
    let o := sumNat (p.map t.cellarLen)
    min here (match t.blks[p.length]? with
      | some b => (o + t.cellarLen b - 1) / Config.roomBytes
      | none => o / Config.roomBytes)

/-- How many blocks of a task may be sent: those of its filled rooms, and once all its blocks are coded all of them
(R135). -/
def Task.sendUpto (t : Task) : Nat :=
  let p := codedPrefix t.blks
  if t.allCoded then t.blks.length
  else if t.kind == .demote then
    ((List.range p.length).takeWhile (fun i =>
      decide (sumNat ((p.take (i + 1)).map t.cellarLen) ≤ Config.roomBytes * t.filledRooms))).length
  else (packRooms (p.map Blk.sealedLen)).2

/-- Queues the sends of blocks `from_` up to `upto`. -/
def Mach.pushSends (s : Mach) (n id upto : Nat) : Mach :=
  match s.task n id with
  | none => s
  | some t =>
    let far := (s.taskTier t).kind == 2
    let s := overList (fun s i =>
      s.queueAcc n { share := 3, cls := 1, ctx := t.ctx, chan := if far then 5 else 6, owner := id, cost := 0
                     write := true, hook := if far then .farSend id i else .putSend id i }) s
      ((List.range upto).drop t.sendsQueued)
    s.modTask n id (fun t => { t with
      sendsQueued := max t.sendsQueued upto
      blks := t.blks.map (fun b => if b.ix < upto && b.st == .ready then { b with st := .queued } else b) })

/-- All blocks of a LODGE or FAR stash are in its rooms: rooms beyond those filled go back, and the PENDING record
is written. -/
def Mach.writePending (s : Mach) (n id : Nat) : Mach :=
  match s.task n id with
  | none => s
  | some t =>
    let s := s.modTask n id (fun t => { t with
      ph := .recWrite, rooms := min t.rooms (packRooms (t.blks.map Blk.sealedLen)).1 })
    s.writeRec n t (s.tierRec t .pending)

/-! ## Recalling -/

/-- The record's PENDING write has been issued. -/
def Task.written (t : Task) : Bool := t.ph == .recWrite || t.ph == .remote

/-- R300 step 2, R354, R355, R378: the blocks of a LODGE or FAR stash go to the Cellar, on a channel of the Cellar
(R132, R164). -/
def Mach.recall (s : Mach) (n id : Nat) : Mach :=
  match s.task n id with
  | none => s
  | some t =>
    if t.kind != .stash || !(t.path == .peer || t.path == .far) || t.ph == .final || t.ph == .fail then s
    else
      let s := s.dropSends n id false
      let need := if t.allCoded then t.plainTotal else t.rawTotal + 32 * t.nexp
      let chan := s.localChan n
      let s := s.modTask n id (fun t => { t with
        path := .husk, chan
        kind := if t.written then .recall else .stash
        ph := if t.written then .chunk else if t.ph == .rooms then .chunk else t.ph
        blks := t.blks.map (fun b => if b.coded then { b with st := .ready } else b)
        parsed := 0, gather := [], slotsIssued := 0, slotsDone := 0, sendsQueued := 0, farCap := 0, started := false
        link := none, reserved := false, slotsNeeded := ceilDiv need Config.slotBytes })
      (s.reserveAll n t.ctx t.stage).cellarDone n id

/-! ## The places of far writes (R354) -/

/-- A far write of at most `size` bytes takes its place in the window, or the window is full (R354). -/
def Mach.farAlloc (s : Mach) (c tierix size : Nat) : Option (Nat × Mach) :=
  let x := s.ctx c
  let t := ((s.plan c).map (fun p => p.tier tierix)).getD {}
  let a := roundUp (aget 0 x.farPtr tierix) 64
  if a + size ≤ t.size then some (t.base + a, s.modCtx c (fun x => { x with farPtr := aset 0 x.farPtr tierix (a + size) }))
  else none

/-- A far write would pass the end of its window: it is counted, and no demotion to the tier starts (R354). -/
def Mach.farFullAt (s : Mach) (c tierix : Nat) : Mach :=
  (s.modCtx c (fun x => { x with farFull := x.farFull ++ [tierix] })).modHs (fun h =>
    { h with farFullCnt := amod 0 h.farFullCnt c (satAdd 16 1) })

/-- A far write whose blocks are all coded gives up what it has not used of its place, when nothing lies above it. -/
def Mach.farTrim (s : Mach) (n : Nat) (t : Task) : Mach :=
  let base := (s.taskTier t).base
  if t.farCap = 0 || aget 0 (s.ctx t.ctx).farPtr t.tierix != t.loc - base + t.farCap then s
  else
    (s.modCtx t.ctx (fun x => { x with farPtr := aset 0 x.farPtr t.tierix (t.loc - base + t.sealedTotal) })).modTask n t.id
      (fun t => { t with farCap := t.sealedTotal })

/-- A far write takes its place as its first block is coded: far writes lie in the order of their first blocks, each with
room for the most its blocks can take (R354; DESIGN CHOICE, log entry 53). One that would pass the end of the window is
not started: the stash is recalled, the demotion abandoned. -/
def Mach.farPlace (s : Mach) (n : Nat) (t : Task) (go : Mach → Mach) : Mach :=
  if (s.taskTier t).kind != 2 || t.farCap != 0 then go s
  else
    match s.farAlloc t.ctx t.tierix t.sealedMost with
    | some (a, s) => go (s.modTask n t.id (fun t => { t with loc := a, farCap := t.sealedMost }))
    | none =>
      let s := s.farFullAt t.ctx t.tierix
      if t.kind == .demote then s.abandonDemotion n t else s.recall n t.id

/-! ## Moving on -/

/-- R380: a stash with blocks still to code starts again as KEEP under a new identity. -/
def Mach.restartKeep (s : Mach) (n id : Nat) : Mach :=
  match s.task n id with
  | none => s
  | some t =>
    if t.kind != .stash || t.path == .raw || t.allCoded || t.ph == .ring || t.ph == .fail then s
    else
      let s := (s.dropSends n id true).freeEngine n t
      let chan := s.localChan n
      let p := s.freshId n
      let s := p.2.modSt n (fun x => { x with
        laneQ := x.laneQ.filter (fun j => j.task != id)
        lanes := x.lanes.map (fun q => (q.1, q.2.map (fun j => if j.task == id then { j with task := 0 } else j)))
        acc := x.acc.filter (fun a => a.owner != id) })
      let s := s.modTask n id (fun t => { t with
        id := p.1, path := .raw, chan, ph := .chunk, entry := { t.entry with disp := .keep, fmt := t.entry.src }, scale := 0
        eng := none, blks := [], allClosed := false, parsed := 0, gather := [], slotsIssued := 0, slotsDone := 0
        sendsQueued := 0, farCap := 0, started := false, link := none, rooms := 0, roomsBack := 0, reserved := false
        slotsNeeded := ceilDiv t.rawTotal Config.slotBytes })
      s.reserveAll n t.ctx t.stage

/-- A send of a task's blocks waits for its slot, or for the link layer. -/
def Station.sending (x : Station) (id : Nat) : Bool :=
  (x.acc ++ x.outst).any (fun a => match a.hook with
    | .putSend t _ => t == id
    | .farSend t _ => t == id
    | _ => false)

/-- A LODGE or FAR stash whose blocks have all gone out writes its PENDING record (R30 step 6). -/
def Mach.sendsGone (s : Mach) (n id : Nat) : Mach :=
  match s.task n id with
  | none => s
  | some t =>
    let whole := t.allCoded && !t.blks.isEmpty && t.sendsQueued == t.blks.length && !(s.st n).sending id
    if t.kind == .stash && (t.path == .peer || t.path == .far) && (t.ph == .move || t.ph == .run) && whole then
      s.writePending n id
    else s

/-- Moves a LODGE or FAR stash, or a demotion, on: a room that is filled is sent, and what is left once all its blocks
are coded (R135). At level 2 and above no first send starts (R49, R378). -/
def Mach.advanceSend (s : Mach) (n id : Nat) : Mach :=
  match s.task n id with
  | none => s
  | some t =>
    if t.path == .raw || t.path == .husk then s
    else if t.kind == .stash && !t.started && decide (2 ≤ s.level) then s.recall n id
    else if (codedPrefix t.blks).isEmpty then s
    else
      s.farPlace n t (fun s =>
        let s := match s.task n id with
          | some t => if t.allCoded then s.farTrim n t else s
          | none => s
        (s.pushSends n id t.sendUpto).sendsGone n id)

/-- All blocks of the last attempt are acknowledged: the record is rewritten RESIDENT at its tier (R30 step 8, R47,
R295, R352). -/
def Mach.tierAcked (s : Mach) (n id : Nat) : Mach :=
  match s.task n id with
  | none => s
  | some t =>
    if t.allCoded && t.blks.all (fun b => b.st == .acked) && (t.kind == .demote || (t.pendDone && t.ph == .remote)) then
      s.readCache n t (fun s => (s.modTask n id (fun t => { t with ph := .final })).writeRec n t (s.tierRec t .resident))
    else s

end Sys2Proof.Machine
end

