-- ==== Sys2Proof/Machine/Fetch.lean ====
section
/-!
DEFINITION. Fetches: where a due fetch waits or starts (R53, R54, R162, R392), the record read (R39, R55), rooms and
reads (R136, R44), the station's parse (R202, R204), blocks from a tier (R200), delivery (R126, R127, R138), delivery
notes (R216, R217), completion and recompute tickets (R56–R59, R161).
-/
namespace Sys2Proof.Machine

/-! ## Starting -/

/-- An earlier fetch of the same record has not completed (R162). -/
def Station.behind (x : Station) (t : Task) : Bool :=
  x.tasks.any (fun u => (u.kind == .fetch || u.kind == .dropFetch) && u.ctx == t.ctx && u.stage == t.stage &&
    u.mb == t.mb && u.layer == t.layer && u.tensor == t.tensor && decide (u.fetchNo < t.fetchNo))

/-- A demotion of a record that is under way. -/
def Station.demotionOf (x : Station) (c g k : Nat) : Option Task :=
  x.tasks.find? (fun u => u.kind == .demote && u.ctx == c && u.stage == g && u.fill == some k)

/-! ## Completion -/

/-- The segments whose ticket a checkpoint fetch carries (R56). -/
def Mach.carries (s : Mach) (t : Task) : List (Nat × Segment) :=
  match s.plan t.ctx with
  | none => []
  | some p =>
    ((List.range p.segs.length).zip p.segs).filter (fun q =>
      let drops := p.entries.filter (fun e => e.disp == .drop && e.segix == q.1 && e.stage == t.stage)
      q.2.ckpt == t.tensor && q.2.ckptLayer == t.layer && !drops.isEmpty &&
        maxNat (drops.map (fun e => maxNat e.consume)) + q.2.recLead == t.consume)

/-- The blocks a fetch run maps for its record, as (stage core, raw bytes). -/
def Mach.fetchMap (s : Mach) (t : Task) : List (Int × Nat) :=
  match s.plan t.ctx with
  | none => []
  | some p => blocksOf t.entry.src ((p.progNode (s.home t.ctx t.stage) t.prog).items t.iters)

/-- The step whose seed a record's notes and tickets carry (R217, R275). -/
def Mach.recStep (s : Mach) (t : Task) : W64 :=
  let x := s.ctx t.ctx
  if x.replaying then x.reserve.step
  else (x.step &&& 0xFFFFFFFF00000000) ||| BitVec.ofNat 64 t.rc.step

/-- A DROP fetch is complete when its ticket has been posted (R56, R161). -/
def Mach.endDropFetches (s : Mach) (c segix mb : Nat) : Mach :=
  overList (fun s n =>
    Mach.overTasks n (fun s t =>
      if t.kind == .dropFetch && t.ph == .ticket && t.ctx == c && t.entry.segix == segix && t.mb == mb then
        (s.countDelivery t).dropTask n t.id
      else s) s) s (List.range 6)

/-- The segment's ticket of a slot counts as posted. -/
def Mach.markTicketed (s : Mach) (c segix mb : Nat) : Mach :=
  (s.modCtx c (fun x => { x with ticketed := x.ticketed ++ [(segix, mb)] })).endDropFetches c segix mb

/-- The tickets a checkpoint fetch posts, in ascending core order, to each core it delivered to the tickets of the segments it
carries (R56, R59). A segment's ticket of the slot counts as posted with the last core's. -/
def Mach.postTickets (s : Mach) (n : Nat) (t : Task) : Mach :=
  let cores := sortedCores t.noted
  let ckptOff := 16 * (((s.plan t.ctx).map (fun p => (p.progLand (s.home t.ctx t.stage) t.prog).2)).getD 0)
  let seed := s.seedOf t.ctx t.stage (s.recStep t)
  let segs := s.carries t
  if cores.isEmpty then overList (fun s (q : Nat × Segment) => s.markTicketed t.ctx q.1 t.mb) s segs
  else
    overList (fun s (p : Nat × Nat) =>
      overList (fun s (q : Nat × Segment) =>
        s.cellPush n (.ticket { core := p.2, ctx := t.ctx, stage := t.stage, mb := t.mb, segFirst := q.2.segFirst
                                segLast := q.2.segLast, ckpt := t.tensor, ckptOff, seed
                                ctrBase := acornBase q.2.segFirst t.mb 0, segix := q.1, cmax := t.consume - q.2.recLead }
          (p.1 + 1 == cores.length))) s segs) s ((List.range cores.length).zip cores)

/-- A stash of the record is at work yet: the response to its record's write brings what its end brings. -/
def Station.stashOf (x : Station) (c g k : Nat) : Bool :=
  x.tasks.any (fun u => (u.kind == .stash || u.kind == .recall) && u.ctx == c && u.stage == g && u.fill == some k && !u.finalDone)

/-- A fetch has delivered its last block, or found an EMPTY record: it completes (R52 step 6, R161, R163). After the
last delivery of a record in a peer's guest region its beds are freed, once (R298), though the blocks came from the rooms
that still held them (R53): the record then stands where its latest write puts it, and while that write has no response
the stash frees the beds when it comes. -/
def Mach.completeFetch (s : Mach) (n : Nat) (t : Task) (st : Status) : Mach :=
  let s := (s.endTask n t st).onTime n t
  let s := s.countDelivery t
  let isLast := decide (t.entry.consume.length ≤ t.fetchNo + 1)
  let s :=
    if !isLast || t.replayRec.isSome then s
    else match t.fill, t.fill.bind (s.recInfo t.ctx t.stage) with
      | some k, some r =>
        if r.rc.state == .resident && r.rc.tier == 1 && !(s.st n).stashOf t.ctx t.stage k then s.sendFree t.ctx r.rc.loc else s
      | _, _ => s
  if (s.ctx t.ctx).state == .aborting then s else s.postTickets n t

/-! ## Reads -/

/-- A slot's number in a stage's chain from its address, when the chain holds it. -/
def Mach.slotOfAddr (s : Mach) (c g a : Nat) : Option Nat :=
  match s.plan c with
  | none => none
  | some p =>
    let x := s.stage c g
    let ch := (a - p.glob.poolBase) / Config.chunkBytes
    if a < p.glob.poolBase then none
    else (findIx (fun k => k == ch) x.chain 0).map (fun q =>
      Config.slotsPerChunk * (x.chainBase + q.1) + (a - p.glob.poolBase) % Config.chunkBytes / Config.slotBytes)

/-- Fabric or host address and length of read `i` of a fetch or demotion: a Cellar slot, a piece of a replay item, or of a
far record the block that follows those in hand, with the longest it may have (R133; DESIGN CHOICE, log entry 119); none
when the chain ends before the slot (R44). -/
def Mach.readAt (s : Mach) (n : Nat) (t : Task) (i : Nat) : Option (Nat × Nat) :=
  match t.replayRec with
  | some (off, len) =>
    let a := s.partBase t.ctx n + off + 128
    let lo := if i = 0 then a else (a / 4096 + i) * 4096
    let hi := min (a + len) ((a / 4096 + i + 1) * 4096)
    some (lo, hi - lo)
  | none =>
    if t.rc.tier == 0 then
      (s.slotOfAddr t.ctx t.stage t.rc.loc).bind (fun k => (s.slotAddr t.ctx t.stage (k + i)).map (fun a => (a, 4096)))
    else
      let o := sumNat (t.got.map t.roomLen)
      some (t.rc.loc + o, min 4144 (t.rc.storLen - o))

/-- Bytes of `rest` that `n` empty rooms take whatever the lengths of the blocks, each of at most `most` bytes. -/
def roomsTake (most : Nat) : Nat → Nat → Nat
  | 0, _ => 0
  | n + 1, rest =>
    if rest ≤ Config.roomBytes then rest
    else
      let k := Config.roomBytes / most * most
      k + roomsTake most n (rest - k)

/-- Bytes of a coded record that the rooms of its fetch take: the blocks in hand, the next where it fits, and as many
more as fit whatever their lengths; where the next block may not fit and its header is not in hand, as far as that
(R136). -/
def Task.readBytes (t : Task) : Nat :=
  let most := if t.rc.tier == 0 then 4128 else 4144
  let f := t.fillOf (t.got.map t.roomLen)
  let o := f.2.2
  let rest := t.rc.storLen - o
  let k := (t.nextLen o).getD (min most rest)
  let fits := decide (0 < f.1) && decide (f.2.1 + k ≤ Config.roomBytes)
  let need := if fits then f.1 else f.1 + 1
  if t.rooms < need then (if (t.nextLen o).isNone then o + min 32 rest else o)
  else
    -- bytes left in the room the next block goes into, after it
    let left := Config.roomBytes - k - (if fits then f.2.1 else 0)
    if rest - k ≤ left then t.rc.storLen
    else
      let here := k + left / most * most
      o + here + roomsTake most (t.rooms - need) (rest - here)

/-- Bytes before an item's data in the first 4 KiB slot it is read from (R270, R275). -/
def Task.readSkip (t : Task) : Nat :=
  match t.replayRec with
  | some (off, _) => (off + 128) % 4096
  | none => 0

/-- Reads a fetch may have issued with the rooms it holds (R136): 16 slots a room of raw data, or of data that is discarded;
of a coded record the slots that hold what its rooms take; of a far record the next block, where a room takes it. -/
def Task.readLimit (t : Task) : Nat :=
  if t.rooms = 0 then 0
  else if t.farReads then (if t.rooms < t.roomsFor then t.got.length else t.got.length + 1)
  else if t.rc.isRaw || t.cancelled then 16 * t.rooms
  else if t.rc.storLen ≤ t.readBytes then t.slotsNeeded
  else ceilDiv (t.readSkip + t.readBytes) 4096

/-- Queues the reads that the rooms of a fetch allow. A chain that ends fails the fetch with LENFAULT (R44). -/
def Mach.queueReads (s : Mach) (n id : Nat) : Mach :=
  match s.task n id with
  | none => s
  | some t =>
    let upto := min t.slotsNeeded t.readLimit
    let todo := (List.range upto).drop t.slotsIssued
    let far := t.farReads
    if far && (s.ctx t.ctx).farLost then s.failFetch n t .hostloss 0 0
    else if todo.any (fun i => match s.readAt n t i with
        | some (_, len) => decide (len = 0)
        | none => true) then s.failFetch n t .lenfault kRecord (if far then t.got.length else 0)
    else
      let s := s.modTask n id (fun t => { t with slotsIssued := max t.slotsIssued upto })
      overList (fun s i =>
        match s.readAt n t i with
        | none => s
        | some (a, len) =>
          s.queueAcc n { share := if far then 3 else 0, cls := t.cls, ctx := t.ctx, chan := t.chan, owner := id
                         cost := if far then 0 else 4096, addr := a, len, hook := .slotRead id i }) s todo

/-- A fetch needs a further room: for reads it may not issue yet, or for bytes of a peer's record that the rooms asked
for cannot hold (R296). -/
def Task.wantsRoom (t : Task) : Bool :=
  t.kind == .fetch && !t.fromRooms && (t.ph == .engine || t.ph == .run || t.ph == .move) &&
    (if t.farReads then decide (t.got.length < t.nexp) && decide (t.rooms < t.roomsFor)
     else if 0 < t.slotsNeeded then decide ((if t.cancelled then t.slotsIssued else t.readLimit) < t.slotsNeeded)
     else decide (t.got.length < t.nexp) &&
      decide (Config.roomBytes * (t.rooms - t.beds) < (t.rc.storLen - t.rcvd) + (t.rcvd - t.bedBase)))

/-- A fetch takes the further rooms it needs and may take, up to `fuel` (R136). -/
def Mach.fillRooms (s : Mach) (n id : Nat) : Nat → Mach
  | 0 => s
  | fuel + 1 =>
    match s.task n id with
    | none => s
    | some t => if t.wantsRoom && s.fetchRoomFree n t then Mach.fillRooms (s.modTask n id Task.takeRoom) n id fuel else s

/-- Beds of a peer's record that have been granted: by GET, and by each MORE that has been sent (R296). -/
def Task.granted (t : Task) : Nat := t.asked + (t.mores.filter (fun q => q.2)).length

/-- The first MORE of a fetch that waits on a link has been sent. -/
def markMore (l : Nat) : List (Nat × Bool) → List (Nat × Bool)
  | [] => []
  | q :: qs => if q = (l, false) then (l, true) :: qs else q :: markMore l qs

/-- A bed has ended: beyond those of the GET it answers the MORE that was sent first. -/
def Task.bedOver (t : Task) (beds : Nat) : Task :=
  if beds ≤ t.asked then t
  else { t with asked := beds, mores := match t.mores.find? (fun q => q.2) with
      | some q => t.mores.erase q
      | none => t.mores }

/-- The GET of a peer fetch goes out, for the rooms that its ring can take at once, or MORE for a further room (R281,
R296). -/
def Mach.askPeer (s : Mach) (n id : Nat) (first : Bool) : Mach :=
  let s := if first then s.fillRooms n id 63 else s
  match s.task n id with
  | none => s
  | some t =>
    match (s.ctx t.ctx).claimAt t.rc.loc, t.fill with
    | some k, some f =>
      let ledger := BitVec.ofNat 64 (s.recAddr t.ctx t.stage f)
      let loc := BitVec.ofNat 64 t.rc.loc
      if first then
        let l := s.getLink k.dev
        (s.modTask n id (fun t => { t with link := l, started := true, asked := t.rooms, mores := [] })).newReq (.get n id) k.dev l
          (mkMsg lopGet t.cls s.devid k.dev t.ctx k.claim loc
            (word [(t.got.length, 0), (t.rooms - t.beds, 24), (t.rc.storLen, 32)]) ledger []) t.cls
      else
        match s.otherLink k.dev with
        | none => s
        | some l =>
          (s.modTask n id (fun t => { t with mores := t.mores ++ [(l, false)] })).queueTx l
            { msg := mkMsg lopMore t.cls s.devid k.dev t.ctx k.claim loc (word [(1, 0)]) ledger [], cls := t.cls, more := some (n, id) }
    | _, _ => (s.dropAsks n id).failFetch n t .ldgPeer 0 0

/-- A peer fetch asks for the blocks of a room on channel 6. The request holds a slot there from its issue until the
beds it asked for are in (R133; log entry 92); a room taken before the GET has gone out joins it. -/
def Mach.queueAsk (s : Mach) (n id : Nat) (first : Bool) : Mach :=
  match s.task n id with
  | none => s
  | some t =>
    if (s.st n).acc.any (fun a => a.hook == .peerAsk id true) then s
    else s.queueAcc n { share := 3, cls := t.cls, ctx := t.ctx, chan := 6, owner := id, cost := 0, hook := .peerAsk id first }

/-- Open requests for rooms beyond the beds that are still to come are over, the oldest first; `fuel` bounds them. -/
def Mach.freeAsks (s : Mach) (n id beds : Nat) : Nat → Mach
  | 0 => s
  | fuel + 1 =>
    let mine := (s.st n).outst.filter (fun a => a.asks id)
    match mine with
    | [] => s
    | a :: _ =>
      if beds < mine.length then
        Mach.freeAsks (s.modSt n (fun x => { x with outst := x.outst.filter (fun b => b.id != a.id) })) n id beds fuel
      else s

/-- A fetch takes one room (R136, R137) and reads on. -/
def Mach.takeFetchRoom (s : Mach) (n id : Nat) : Mach :=
  match s.task n id with
  | none => s
  | some t =>
    if t.wantsRoom && s.fetchRoomFree n t then
      let s := s.modTask n id Task.takeRoom
      if 0 < t.slotsNeeded then s.queueReads n id
      else s.queueAsk n id (!t.started)
    else s

/-! ## The record read -/

/-- The stash whose rooms still hold a PENDING record (R53). -/
def Station.holder (x : Station) (c g k : Nat) : Option Task :=
  x.tasks.find? (fun u => (u.kind == .stash || u.kind == .recall) && u.ctx == c && u.stage == g && u.fill == some k && u.allCoded)

/-- A fetch whose record is known goes on to its engine and rooms (R123–R125). -/
def Mach.startReads (s : Mach) (n : Nat) (t : Task) (rc : Rec) : Mach :=
  let t := { t with rc }
  match (s.plan t.ctx).bind (fun p => p.fetchProg (s.home t.ctx t.stage) t.entry rc.rawLen) with
  | none => s.failFetch n t .lenfault kRecord 0
  | some (prog, k) =>
    let t := { t with prog, iters := k }
    let t := { t with nexp := (s.fetchMap t).length, ph := if t.cancelled then .move else .engine }
    let pend := if rc.state == .pending && t.replayRec.isNone then
        (s.st n).holder t.ctx t.stage (t.fill.getD 0) else none
    match pend with
    | some u =>
      let got := u.blks.map (fun b => b.stored)
      let t := { t with got, fromRooms := true, chan := 8 }
      if t.cancelled then s.endTask n t .aborted else s.modTask n t.id (fun _ => t)
    | none =>
      let size := match t.replayRec with
        | some (_, len) => len
        | none => if rc.isRaw then rc.rawLen else rc.storLen
      let base := match t.replayRec with
        | some (off, _) => (s.partBase t.ctx n + off + 128) % 4096
        | none => 0
      let chan := if t.replayRec.isSome || rc.tier == 0 then (if t.cls = 0 then 0 else s.localChan n)
        else if rc.tier == 1 then 6 else 5
      s.modTask n t.id (fun _ => { t with
        chan, slotsNeeded := if t.replayRec.isSome || rc.tier == 0 then ceilDiv (base + size) 4096 else if rc.tier == 1 then 0 else t.nexp })

/-- A fetch goes on with its record, as the ledger cache holds it or as it has been read (R37, R52, R55). -/
def Mach.recordKnown (s : Mach) (n : Nat) (t : Task) (rc : Rec) : Mach :=
  match rc.state with
  | .free | .lost | .reserved _ => s.failFetch n t .reclost 0 0
  | .empty => if t.cancelled then s.endTask n t .aborted else s.completeFetch n { t with rc } .empty
  | .reference =>
    if t.cancelled then s.endTask n t .aborted
    else if (s.ctx t.ctx).ticketed.contains (t.entry.segix, t.mb) then (s.countDelivery t).dropTask n t.id
    else s.modTask n t.id (fun t => { t with rc, ph := .ticket, kind := .dropFetch })
  | .pending | .resident | .demoting => s.startReads n t rc

/-- The 64 bytes of the record of a fetch have come (R39, R55). A record that was lost since ends the fetch with the
status of its loss (R300, R392). -/
def Mach.fetchRecord (s : Mach) (n : Nat) (t : Task) (l : List Byte) : Mach :=
  let rc := recParse l
  let now := t.fill.bind (s.recInfo t.ctx t.stage)
  match now.bind (fun r => if t.replayRec.isSome then none else r.lost) with
  | some st => s.failFetch n t st 0 0
  | none =>
    if !recCrcOk l then s.failFetch n t .ledgerCrc 0 0
    else
      -- a record that has moved on since its read is served where the ledger cache has it
      let moved := (rc.state == .pending || rc.state == .demoting) &&
        ((now.map (fun r => r.rc.state == .resident)).getD false)
      s.recordKnown n t (if moved then (now.map (fun r => r.rc)).getD rc else rc)

/-- The first step of a fetch, the record read of R52: the station's ledger cache answers when it holds the record, which
is a free value, else the record is read from HBM as metadata (R134, R160). -/
def Mach.readRecord (s : Mach) (n : Nat) (t : Task) (rc : Rec) : Mach :=
  let hit := Config.cacheHolds s.freeNo
  let s := { s with freeNo := s.freeNo + 1 }
  if hit then s.readCache n t (fun s => s.recordKnown n t rc)
  else
    s.queueAcc n { share := 0, cls := t.cls, ctx := t.ctx, chan := 8, owner := t.id, cost := 64
                   addr := s.recAddr t.ctx t.stage (t.fill.getD 0), len := 64, hook := .recRead t.id }

/-- A due fetch waits, fails, or starts with the read of its record (R53, R162, R392, R54, R52). -/
def Mach.issueFetch (s : Mach) (n id : Nat) : Mach :=
  match s.task n id with
  | none => s
  | some t =>
    let found := (s.stage t.ctx t.stage).find t.mb t.layer t.tensor
    match found with
    | none => s.modTask n id (fun t => { t with ph := .waitStash })
    | some (k, r) =>
      let t := { t with fill := some k }
      let put := fun (s : Mach) (t : Task) => s.modTask n id (fun _ => t)
      match r.lost with
      | some st => (put s t).failFetch n t st 0 0
      | none =>
        if r.stashing then put s { t with ph := .waitStash }
        else if (s.st n).behind t then put s { t with ph := .waitPrev }
        else
          let s := match (s.st n).demotionOf t.ctx t.stage k with
            | some u => if r.rc.state == RecState.demoting then s.abandonDemotion n u else s
            | none => s
          let s := s.modRec t.ctx t.stage k (fun r => { r with fetched := true })
          let s := s.captureFetch n t t.dueTick r.recItem
          let rc := ((s.recInfo t.ctx t.stage k).map (fun r => r.rc)).getD r.rc
          let t := { t with ph := .recRead }
          (put s t).readRecord n t rc

/-- The record of a stash is PENDING, RESIDENT, EMPTY, REFERENCE or LOST: fetches that wait for it go on (R53). -/
def Mach.wakeFetches (s : Mach) (c g k : Nat) : Mach :=
  match s.recInfo c g k with
  | none => s
  | some r =>
    let n := s.home c g
    Mach.overTasks n (fun s t =>
      if (t.kind == .fetch || t.kind == .dropFetch) && t.ctx == c && t.stage == g && t.mb == r.mb &&
          t.layer == r.layer && t.tensor == r.tensor && t.ph == .waitStash then s.issueFetch n t.id
      else s) s

/-! ## The station's parse -/

/-- R202, R204: blocks of a coded record as far as the bytes `l` go; `size` is STORLEN, `o` where block `i` starts.
A fault comes with its block index. -/
def parseBlocks (size nexp : Nat) : Nat → Nat → Nat → List Byte → List (List Byte) × Option (Status × Nat × Nat)
  | 0, _, _, _ => ([], none)
  | fuel + 1, i, o, l =>
    if nexp ≤ i then ([], if o < size then some (.lenfault, kRecord, nexp) else none)
    else if size < o + 32 then ([], some (.lenfault, kRecord, i))
    else if l.length < 32 then ([], none)
    else
      let h := huskParse l
      if huskHdrBad h then ([], some (.huskHdr, 0, i))
      else
        match huskLenBad h with
        | some k => ([], some (.lenfault, k, i))
        | none =>
          if size < o + h.blockLen then ([], some (.lenfault, kRecord, i))
          else if l.length < h.blockLen then ([], none)
          else
            let r := parseBlocks size nexp fuel (i + 1) (o + h.blockLen) (l.drop h.blockLen)
            (l.take h.blockLen :: r.1, r.2)

/-- The length of the next sealed block of a far record: a trailer whose CTLEN names its own place, with its CHECK
good where there is one (DESIGN CHOICE, log entry 32); 0 when there is none. -/
def sealedLenAt (l : List Byte) : Nat :=
  let cands := ((List.range 256).map (· + 3)).filter (fun c => decide (16 * c + 16 ≤ l.length) && rdNat l (16 * c) 2 == c)
  match cands.find? (fun c => trailerCheckOk (l.take (16 * c + 16))) with
  | some c => 16 * c + 16
  | none => ((cands.head?).map (fun c => 16 * c + 16)).getD 0

/-- R200 on the block of a far or sealed record at the head of `l`, of whose record `rest` bytes are left: none until the
longest block that may stand there is in hand. -/
def openHead (key : List Byte) (tweak : Nat) (x : Expect) (rest : Nat) (l : List Byte) :
    Option (Except (Status × Nat) (List Byte)) :=
  if l.length < min 4144 rest then none
  else
    let n := sealedLenAt (l.take 4144)
    if n = 0 then some (.error (.lenfault, kRecord)) else some (openBlock key tweak { x with storLen := rest } (l.take n))

/-- R200 on the blocks of a sealed record, of which `rest` bytes are left, as far as the bytes `l` go. -/
def openBlocks (key : List Byte) (tweak : Nat) (x : Expect) (nexp : Nat) :
    Nat → Nat → Nat → List Byte → List (List Byte) × Option (Status × Nat × Nat)
  | 0, _, _, _ => ([], none)
  | fuel + 1, i, rest, l =>
    if nexp ≤ i then ([], if 0 < rest then some (.lenfault, kRecord, nexp) else none)
    else
      match openHead key tweak { x with block := i } rest l with
      | none => ([], none)
      | some (.error (st, k)) => ([], some (st, k, i))
      | some (.ok b) =>
        let n := b.length + 16
        let r := openBlocks key tweak x nexp fuel (i + 1) (rest - n) (l.drop n)
        (b :: r.1, r.2)

/-- Cuts raw data into the blocks of the run. -/
def cutRaw : List (Int × Nat) → List Byte → List (List Byte)
  | [], _ => []
  | (_, n) :: bs, l => if l.length < n then [] else l.take n :: cutRaw bs (l.drop n)

/-- What R200 expects of the blocks of a fetch. -/
def Mach.expectOf (_s : Mach) (t : Task) : Expect :=
  { tensor := t.tensor, stage := t.stage, mb := t.mb, block := 0, keySlot := t.rc.keySlot, storLen := t.rc.storLen }

/-- The tweak of a fetch's record (R40, R275). -/
def Mach.tweakOf (s : Mach) (t : Task) : Nat :=
  if t.replayRec.isSome then t.loc else s.recAddr t.ctx t.stage (t.fill.getD 0)

/-- A fetch whose reads have brought the bytes `l` fails where they depart from what is expected (R204, R200). -/
def Mach.parsed (s : Mach) (n id : Nat) (r : List (List Byte) × Option (Status × Nat × Nat)) : Mach :=
  let s := s.modTask n id (fun t => { t with got := r.1 })
  match r.2, s.task n id with
  | some (st, k, b), some t => s.failFetch n t st k b
  | _, _ => s

/-- The blocks of a fetch from slots, by the reads so far (R204, R200). -/
def Mach.parseFetch (s : Mach) (n id : Nat) : Mach :=
  match s.task n id with
  | none => s
  | some t =>
    let l := gatherReads t.slotData t.slotsNeeded 0
    if t.rc.isRaw then s.modTask n id (fun t => { t with got := cutRaw (s.fetchMap t) (l.take t.rc.rawLen) })
    else
      let l := l.take t.rc.storLen
      s.parsed n id (if t.rc.tier == 0 then parseBlocks t.rc.storLen t.nexp (t.nexp + 1) 0 0 l
        else openBlocks (s.key t.rc.keySlot) (s.tweakOf t) (s.expectOf t) t.nexp (t.nexp + 1) 0 t.rc.storLen l)

/-- The next block of a far record has come, whatever stands behind it (R200, R204, R355); a fetch whose data is
discarded ends at a fault. -/
def Mach.farBlock (s : Mach) (n : Nat) (t : Task) (l : List Byte) : Mach :=
  let i := t.got.length
  let rest := t.rc.storLen - sumNat (t.got.map t.roomLen)
  let fail := fun (s : Mach) st k b => if t.cancelled then s.endTask n t .aborted else s.failFetch n t st k b
  match openHead (s.key t.rc.keySlot) (s.tweakOf t) { s.expectOf t with block := i } rest l with
  | none => fail s .lenfault kRecord i
  | some (.error (st, k)) => fail s st k i
  | some (.ok b) =>
    let len := b.length + 16
    if t.nexp ≤ i + 1 ∧ len < rest then fail s .lenfault kRecord t.nexp
    else if i + 1 < t.nexp ∧ rest ≤ len then fail s .lenfault kRecord (i + 1)
    else
      let s := if t.cancelled then s.addWasted t.ctx t.stage len else s
      let t := { t with got := t.got ++ [b], rcvd := t.rcvd + len, used := if t.cancelled then t.rcvd + len else t.used }
      if !t.cancelled then (s.modTask n t.id (fun _ => t)).queueReads n t.id
      else if t.allRead then s.endTask n t .aborted
      else (s.modTask n t.id (fun _ => { t with roomsBack := max t.roomsBack t.roomsSpent })).queueReads n t.id

/-- Data of read `i` of a fetch has come into its room; the parse may show that more of it may be read (R136). -/
def Mach.fetchData (s : Mach) (n : Nat) (t : Task) (i : Nat) (l : List Byte) : Mach :=
  let t := { t with slotsDone := t.slotsDone + 1 }
  if t.ph == .fail then
    let s := s.modTask n t.id (fun _ => t)
    s.endFailed n t
  else if t.farReads then s.farBlock n t l
  else
    let t := { t with slotData := aset [] t.slotData i l, rcvd := t.rcvd + l.length }
    if t.cancelled then
      let s := s.addWasted t.ctx t.stage l.length
      let t := { t with used := t.rcvd, roomsBack := max t.roomsBack t.roomsSpent }
      if t.allRead then s.endTask n t .aborted else s.modTask n t.id (fun _ => t)
    else
      let s := (s.modTask n t.id (fun _ => t)).parseFetch n t.id
      if t.rc.isRaw || t.slotsNeeded = t.slotsIssued then s else s.queueReads n t.id

/-! ## Delivery -/

/-- The note of a delivery to a core (R216): its slot. -/
def CoreNotes.slotFor (x : CoreNotes) (land ctx : Nat) : Nat :=
  let at_ := fun i => aget {} x.slots i
  let same := findNat (fun i => (at_ i).valid && (at_ i).landoff == land && (at_ i).ctx == ctx) 8
  match same with
  | some i => i
  | none =>
    match findNat (fun i => !(at_ i).valid) 8 with
    | some i => i
    | none =>
      -- the oldest in the order of writing
      (List.range 8).foldl (fun b i =>
        if (x.seq + 2 ^ 32 - (at_ b).seq) % 2 ^ 32 < (x.seq + 2 ^ 32 - (at_ i).seq) % 2 ^ 32 then i else b) 0

def Mach.writeNote (s : Mach) (core : Nat) (nt : Note) : Mach :=
  let x := aget {} s.notes core
  let i := x.slotFor nt.landoff nt.ctx
  let y : CoreNotes :=
    { slots := aset {} x.slots i { nt with valid := true, seq := x.seq }, seq := (x.seq + 1) % 2 ^ 32 }
  { s with notes := aset {} s.notes core y }

/-- The fetch has a complete block at the head of its ring and the place it goes to. -/
def Task.deliverable (t : Task) : Bool :=
  t.kind == .fetch && !t.cancelled && (t.ph == .run || t.ph == .move) &&
    decide (t.delivered < t.got.length) && decide (t.delivered < t.blks.length)

/-- R138: class 0 before class 1, and within a class in turn after the fetch served last. -/
def Station.nextDelivery (x : Station) : Option Task :=
  let pick := fun (turn : Nat) (l : List Task) =>
    match l.find? (fun t => decide (turn < t.id)) with
    | some t => some t
    | none => l.head?
  let ts := x.tasks.filter Task.deliverable
  match pick x.delivTurn0 (ts.filter (fun t => t.cls == 0)) with
  | some t => some t
  | none => pick x.delivTurn1 (ts.filter (fun t => t.cls != 0))

/-- Delivers the next block of a fetch: its core's note before the first, its payload and header, and what the
delivery of the last block brings (R126, R127, R192, R216, R52 step 6). -/
def Mach.deliverBlock (s : Mach) (n : Nat) (t : Task) : Mach :=
  match s.stageOf t.ctx t.stage, s.plan t.ctx, t.blks[t.delivered]?, t.got[t.delivered]? with
  | some e, some p, some b, some data =>
    let core := b.core
    let land := (p.progLand e.home t.prog).2
    let mine := t.blks.filter (fun x => x.core == core)
    let j := (mine.filter (fun x => decide (x.ix < b.ix))).length
    let total := ((s.fetchMap t).filter (fun q => q.1 + e.firstCore == (core : Int))).length
    let ledger := t.fill.map (s.recAddr t.ctx t.stage)
    -- a note takes 1 sclk of the port's time (R415)
    let noteTime := if t.noted.contains core then 0 else 1
    let s := if t.noted.contains core then s
      else
        (s.writeNote core { landoff := land, nblk := total, ctx := t.ctx, maskp := t.entry.maskp, base := t.rc.acorn
                            seed := s.seedOf t.ctx t.stage (s.recStep t) }).modSt n
          (fun x => { x with deliveries := x.deliveries ++
            [{ core := core, ctx := t.ctx, off := 16 * land, nblk := total, tensor := t.tensor, stage := t.stage
               mb := t.mb, layer := t.layer, ledger := if t.replayRec.isSome then t.loc else ledger.getD 0 }] })
    let frame := if t.rc.isRaw then synthFrame t.entry t.stage t.mb b.ix data else data
    let a := sramAddr core (16 * land + Config.frameBytes * j)
    let s := s.write .sram (placed (a + 32) (frame.drop 32) ++ placed a (frame.take 32))
    let d := t.delivered + 1
    let used := t.used + (if 0 < t.slotsNeeded && d == t.nexp then t.rcvd - t.used else t.roomLen data)
    let t := { t with delivered := d, noted := if t.noted.contains core then t.noted else t.noted ++ [core]
                      used := min used t.rcvd, roomsBack := max t.roomsBack (t.roomsDone d) }
    let s := s.modSt n (fun x => { x with
      delivTurn0 := if t.cls == 0 then t.id else x.delivTurn0
      delivTurn1 := if t.cls == 0 then x.delivTurn1 else t.id
      delivBusy := x.delivBusy + ceilDiv frame.length 512 + noteTime })
    if t.nexp ≤ d then s.completeFetch n t .ok
    else s.modTask n t.id (fun _ => t)
  | _, _, _, _ => s

end Sys2Proof.Machine
end

