-- ==== Sys2Proof/Machine/Numbers.lean ====
section
/-!
DEFINITION. Observation of a stash task's elements: counts (R258), histogram (R259), running maxima (R253), the
first-NaN trap (R249–R252), sentinels (R266–R268) and the freeze they ask for (R273).
-/
namespace Sys2Proof.Machine

/-- R273: the reserve becomes FROZEN when this step's capture is complete. -/
def Mach.askFreeze (s : Mach) (c : Nat) : Mach :=
  s.modCtx c (fun x =>
    if x.reserve.state == .capturing && !x.reserve.closing then { x with reserve := { x.reserve with freezeReq := true } } else x)

/-- The trap record's fields for an element (R250), VALID 0. -/
def trapOf (x : Station) (t : Task) (step : W64) (path lane blk elem : Nat) : NanTrap :=
  { path, lane, tensor := t.tensor, layer := t.layer, mb := t.mb, stage := t.stage, ctx := t.ctx
    src := t.entry.src.code, elem, block := blk, step := step.toNat, sclk := x.sclk }

/-- The tie-breaks of R251 between two NaNs. -/
def NanTrap.before (a b : NanTrap) : Bool :=
  a.aclk == b.aclk &&
    (decide (a.station < b.station) ||
      (a.station == b.station && a.sclk == b.sclk &&
        (decide (a.lane < b.lane) || (a.lane == b.lane && a.block == b.block && decide (a.elem < b.elem)))))

/-- A NaN is marked: it sets the latch, or is counted under MORE (R249). -/
def Mach.markNan (s : Mach) (n : Nat) (t : Task) (path lane blk elem : Nat) : Mach :=
  let x := s.ctx t.ctx
  let now : NanTrap := { trapOf (s.st n) t x.step path lane blk elem with valid := true, aclk := s.aclk, station := n }
  if x.trap.valid then
    let more := satAdd 32 x.trap.more 1
    if now.before x.trap then
      (s.modCtx t.ctx (fun x => { x with trap := { now with more } })).amendLog t.ctx .nantrap (fun e =>
        { e with unit := n, tensor := t.tensor, stage := t.stage, mb := t.mb, block := blk, layer := t.layer })
    else s.modCtx t.ctx (fun x => { x with trap := { x.trap with more } })
  else
    let s := s.modCtx t.ctx (fun x => { x with trap := now })
    let s := s.logTask n t .nantrap 0 blk 0
    let s := s.raiseCtx t.ctx irqNan
    let s := if t.cfg.frzNan then s.askFreeze t.ctx else s
    if t.cfg.nanAct then s.forceAbort t.ctx (rankNum n lane) .nantrap else s

def sentNonfinite : Nat := 0
def sentJump : Nat := 1

/-- A sentinel fires (R268). -/
def Mach.fireSentinel (s : Mach) (n : Nat) (t : Task) (cause path lane blk elem : Nat) (amax h : W32) : Mach :=
  let x := s.ctx t.ctx
  let body := (trapBytes (trapOf (s.st n) t x.step path lane blk elem)).take 28 ++ leBytes 4 amax.toNat ++
    leBytes 4 h.toNat ++ leBytes 1 t.scale ++ leBytes 1 cause
  let s := s.modCtx t.ctx (fun x => { x with sentFired := x.sentFired ++ [(t.ent, cause)] })
  let s := s.logTask n t .sentinel 0 blk 0
  let s := s.raiseCtx t.ctx irqSentinel
  let s := s.postReport t.ctx .sentinel body
  let s := if t.cfg.frzSent then s.askFreeze t.ctx else s
  if t.cfg.sentAct then s.forceAbort t.ctx (rankNum n lane) .sentinel else s

/-- The bin of a binary exponent (R259). -/
def histBin (hlo : Nat) (e : Int) : Nat :=
  let k := e - sext hlo 8
  if k < 0 then 0 else min k.toNat 31

def countIf {α : Type} (p : α → Bool) (l : List α) : Nat := (l.filter p).length

def maxW (a b : W32) : W32 := if a.toNat < b.toNat then b else a

/-- The running amax after each element: the first element with which it exceeds the jump threshold. -/
def firstJump (jump : Nat) (h : W32) : W32 → Nat → List Obs → Option Nat
  | _, _, [] => none
  | a, i, o :: os =>
    let a' := match o.feed with
      | some v => maxW a v
      | none => a
    if jumpExceeds jump h a' then some i else firstJump jump h a' (i + 1) os

def firstWhere (p : Obs → Bool) (os : List Obs) : Option Nat := (findIx p os 0).map (·.1)

def feedMax (os : List Obs) : W32 :=
  os.foldl (fun a o => match o.feed with
    | some v => maxW a v
    | none => a) 0

/-- Counts of R258 and bins of R259 of one block: at level 1 and above the histogram takes none. -/
def Mach.countObs (s : Mach) (t : Task) (path : Nat) (os : List Obs) : Mach :=
  let x := s.ctx t.ctx
  let f := if path = 0 then t.entry.fmt.code else t.entry.src.code
  let bump := fun (m : Assoc Nat) k v => amod 0 m k (fun a => satAdd 64 a v)
  let s := s.modStats t.ctx t.stage (fun y => { y with
    fmtCnt := bump (bump (bump (bump y.fmtCnt (4 * f) os.length) (4 * f + 1) (countIf Obs.ovf os))
      (4 * f + 2) (countIf Obs.vanish os)) (4 * f + 3) (countIf Obs.nan os) })
  let exps := os.filterMap Obs.bexp
  if path = 0 && x.histOn && bit x.histMask.toNat t.stage && decide (s.level = 0) then
    s.modStats t.ctx t.stage (fun y => { y with
      hist := exps.foldl (fun m e => amod 0 m (histBin x.histLo e) (fun a => satAdd 32 a 1)) y.hist })
  else s

/-- Observes the elements of a block once (R245): the task is read afresh from the station. -/
def Mach.observe (s : Mach) (n id path lane blk : Nat) (os : List Obs) : Mach :=
  match s.task n id with
  | none => s
  | some t =>
    if t.seen.contains blk then s
    else
      let before := t.runMax
      let after := maxW before (feedMax os)
      let s := s.modTask n id (fun t => { t with seen := t.seen ++ [blk], runMax := after })
      let s := s.countObs t path os
      let s := s.modCtx t.ctx (fun x => { x with
        amax := amod {} x.amax t.ent (fun a => { a with running := maxW a.running (feedMax os), used := true }) })
      let s := overList (fun s (p : Nat × Obs) => if p.2.nan then s.markNan n t path lane blk p.1 else s) s
        ((List.range os.length).zip os)
      if !t.cfg.sentinel then s
      else
        -- the ring that the task started with (R94, R276): H is 0 where it is empty
        let h := t.ringH
        let fired := fun k => ((s.ctx t.ctx).sentFired).contains (t.ent, k)
        let s := match firstWhere Obs.nonfin os with
          | some i => if fired sentNonfinite then s else s.fireSentinel n t sentNonfinite path lane blk i after h
          | none => s
        if t.cfg.jump = 0 || h = 0 || fired sentJump then s
        else match firstJump t.cfg.jump h before 0 os with
          | some i => s.fireSentinel n t sentJump path lane blk i after h
          | none => s

end Sys2Proof.Machine
end

