-- ==== Sys2Proof/Machine/Engines.lean ====
section
/-!
DEFINITION. Stream-program engines (R101–R118): dispatch (R103), the instructions, the stream of core SRAM reads and
the cutting of blocks (R119, R120); encode lanes (R170, R171).
-/
namespace Sys2Proof.Machine

/-! ## Encode lanes -/

/-- The lowest free lane. -/
def Station.freeLane (x : Station) : Option Nat := findNat (fun i => (aget none x.lanes i).isNone) 16

/-- Stash blocks before demotion blocks, then by task and block (R171). -/
def jobBefore (a b : LaneJob) : Bool :=
  if a.demote != b.demote then !a.demote
  else if a.task != b.task then decide (a.task < b.task) else decide (a.blk < b.blk)

def firstJob : List LaneJob → Option LaneJob
  | [] => none
  | j :: js => some (js.foldl (fun b k => if jobBefore k b then k else b) j)

def Mach.setBlk (s : Mach) (n id blk : Nat) (f : Blk → Blk) : Mach :=
  s.modTask n id (fun t => { t with blks := modWhere (fun b => b.ix == blk) f t.blks })

/-- The free lanes take the waiting blocks; none at level 4 and above (R171). `fuel` bounds the lanes. -/
def Mach.fillLanes (s : Mach) (n : Nat) : Nat → Mach
  | 0 => s
  | fuel + 1 =>
    if 4 ≤ s.level then s
    else
      match (s.st n).freeLane, firstJob (s.st n).laneQ with
      | some l, some j =>
        let s := s.modSt n (fun x => { x with
          lanes := aset none x.lanes l (some j), laneQ := x.laneQ.filter (fun k => k != j) })
        Mach.fillLanes (s.setBlk n j.task j.blk (fun b => { b with st := .lane })) n fuel
      | _, _ => s

def Mach.queueLane (s : Mach) (n : Nat) (j : LaneJob) : Mach :=
  (s.modSt n (fun x => { x with laneQ := x.laneQ ++ [j] })).fillLanes n 16

/-- A task moves on after a block has been coded. -/
def Mach.advance (s : Mach) (n id : Nat) : Mach :=
  match s.task n id with
  | none => s
  | some t =>
    if t.path == .raw || t.path == .husk then (s.advanceCellar n id).cellarDone n id
    else s.advanceSend n id

/-- A closed block of a stash goes to a lane, or as it is to the Cellar (R30, R176, R245). -/
def Mach.handBlock (s : Mach) (n id eng core : Nat) (raw : List Byte) : Mach :=
  match s.task n id with
  | none => s
  | some t =>
    let ix := t.blks.length
    let isRaw := t.path == .raw
    let b : Blk := { ix, core, rawLen := raw.length, raw, st := if isRaw then .ready else .closed }
    let s := s.modTask n id (fun t => { t with blks := t.blks ++ [b] })
    let s := if identityPath t.entry then
        s.observe n id 1 (16 + eng) ix ((elemsOf t.entry.src.bytes (raw.length / t.entry.src.bytes) raw).map (tapElem t.entry.src))
      else s
    if isRaw then s.advance n id else s.queueLane n { task := id, blk := ix, demote := false }

/-- The stash output queue of a station holds as many slots ready to write as it has places (R135; log entry 94). -/
def Station.outFull (x : Station) : Bool :=
  decide (64 ≤ (x.acc.filter (fun a => match a.hook with
    | .slotWrite _ _ => true
    | _ => false)).length)

/-- A block for the Cellar that finds the output queue full does not leave its lane, or enter from core SRAM. -/
def Mach.outWaits (s : Mach) (n id : Nat) (p : Path) : Bool :=
  (s.st n).outFull && ((s.task n id).map (fun t => t.path == p)).getD false

/-- A lane ends a block (R170, R172); a demotion's block comes from the Inn rooms that hold it (R395). -/
def Mach.laneDone (s : Mach) (n lane : Nat) : Mach :=
  match aget none (s.st n).lanes lane with
  | none => s
  | some j =>
    if s.outWaits n j.task .husk then s
    else
    let s := s.modSt n (fun x => { x with lanes := aset none x.lanes lane none })
    let code := fun (s : Mach) =>
      match s.task n j.task with
      | none => s
      | some t =>
        match t.blks[j.blk]? with
        | none => s
        | some b =>
          let en := if j.demote then { t.entry with disp := .keep } else t.entry
          let r := huskEncode en t.scale t.seed t.acorn t.stage t.mb j.blk b.raw
          let s := s.setBlk n j.task j.blk (fun b => { b with stored := r.1, raw := [], st := .ready })
          let s := if r.2.isEmpty then s else s.observe n j.task 0 lane j.blk r.2
          s.advance n j.task
    (if j.demote then s.readInn n j.task j.blk code else code s).fillLanes n 16

/-! ## Dispatch (R103) -/

def Station.engFree (x : Station) (e : Nat) : Bool := (aget {} x.engines e).task.isNone

/-- Engines a task may run on, in the order it takes them. -/
def Task.engines (t : Task) : List Nat :=
  match t.kind with
  | .fetch => if t.cls = 0 then [5, 4] else [4]
  | .demote => [4]
  | _ => [0, 1, 2, 3]

/-- Place of a task in the order of R103. -/
def Task.engRank (t : Task) : Nat :=
  match t.kind with
  | .fetch => if t.cls = 0 then 0 else 1
  | .demote => 1
  | _ => 2

/-- The next waiting task for which an engine is free, with the engine (R103): fetch runs of one class take engines in
the order in which they became tasks (DESIGN CHOICE, log entry 112). -/
def Station.nextRun (x : Station) : Option (Task × Nat) :=
  let ws := x.tasks.filter (fun t => t.ph == .engine)
  let try_ := fun r => ((ws.filter (fun t => t.engRank == r)).filterMap (fun t =>
    (t.engines.find? x.engFree).map (fun e => (t, e)))).head?
  match try_ 0 with
  | some p => some p
  | none => match try_ 1 with
    | some p => some p
    | none => try_ 2

def Mach.dispatch (s : Mach) (n : Nat) : Mach :=
  match (s.st n).nextRun with
  | none => s
  | some (t, e) =>
    (s.modSt n (fun x => { x with engines := aset {} x.engines e { task := some t.id } })).modTask n t.id
      (fun t => { t with eng := some e, ph := .run })

/-! ## Instructions -/

/-- The word of program memory that holds an instruction. -/
def progWord (c prog pc : Nat) : Nat := 2 ^ 24 * c + 2 ^ 12 * prog + pc

/-- The program an engine runs, from program memory. -/
def Mach.engProg (s : Mach) (n : Nat) (t : Task) : List Ins := ((aget [] (s.st n).progMem t.ctx)[t.prog]?).getD []

/-- The task and the instruction an engine stands at; none while it waits or has ended. -/
def Mach.engAt (s : Mach) (n e : Nat) : Option (Engine × Task × Ins) :=
  let g := s.eng n e
  if g.waiting.isSome || g.draining || g.done then none
  else
    match g.task.bind (s.task n) with
    | none => none
    | some t => ((s.engProg n t)[g.pc]?).map (fun i => (g, t, i))

def isStashRun (t : Task) : Bool := t.kind == .stash || t.kind == .recall

/-- Which command carries an instruction out: its opcode, 0x07 for both tile forms and 0x18 for a WAIT of KIND 1. -/
def Ins.form : Ins → Nat
  | .land _ _ => 0x01
  | .seta _ _ => 0x02
  | .loop _ _ _ => 0x03
  | .batch _ _ _ => 0x04
  | .endl => 0x05
  | .skiplen _ => 0x06
  | .linear _ => 0x07
  | .rows _ _ _ => 0x07
  | .waitSem _ => 0x08
  | .waitDrain => 0x18
  | .fin => 0x0F

/-- An engine reads the instruction of this form that it stands at, and goes on with `go`. A word with a single-bit error
is corrected and logged; one with a double-bit error fails every run that reads it (R395). -/
def Mach.readIns (s : Mach) (n e form : Nat) (go : Mach → Mach) : Mach :=
  match s.engAt n e with
  | none => go s
  | some (g, t, i) =>
    let w := progWord t.ctx t.prog g.pc
    if i.form ≠ form then s
    else
      match aget .clean (s.st n).progEcc w with
      | .clean => go s
      | .single => go ((s.corrected n t 0).modSt n (fun x => { x with progEcc := aset .clean x.progEcc w .clean }))
      | .double => s.failInn n t 0

/-- Closes the open block of a fetch-direction run: it is mapped. -/
def Mach.closeMap (s : Mach) (n e id : Nat) : Mach :=
  let g := s.eng n e
  match g.openCore with
  | none => s
  | some c =>
    let s := s.modEng n e (fun g => { g with openCore := none, openLen := 0 })
    if g.openLen = 0 then s
    else s.modTask n id (fun t => { t with
      blks := t.blks ++ [{ ix := t.blks.length, core := c, rawLen := g.openLen }] })

/-- Maps `len` bytes of core `c` into blocks; `fuel` bounds the blocks. -/
def Mach.mapBytes (s : Mach) (n e id c : Nat) : Nat → Nat → Mach
  | 0, _ => s
  | fuel + 1, len =>
    if len = 0 then s
    else
      let g := s.eng n e
      match g.openCore with
      | some k =>
        if k != c then Mach.mapBytes (s.closeMap n e id) n e id c fuel len
        else
          let take := min len (4096 - g.openLen)
          let s := s.modEng n e (fun g => { g with openLen := g.openLen + take })
          let s := if g.openLen + take = 4096 then s.closeMap n e id else s
          Mach.mapBytes s n e id c fuel (len - take)
      | none => Mach.mapBytes (s.modEng n e (fun g => { g with openCore := some c, openLen := 0 })) n e id c fuel len

/-- A close of the open block, in the order of the stream (R119). -/
def Mach.closePoint (s : Mach) (n e : Nat) (t : Task) : Mach :=
  if isStashRun t then s.modEng n e (fun g => { g with reads := g.reads ++ [.close] })
  else s.closeMap n e t.id

/-- The index after the ENDL that closes a body which begins at `pc`. -/
def afterEndl : Nat → Nat → List Ins → Nat
  | pc, _, [] => pc
  | pc, d, i :: is =>
    match i with
    | .endl => if d = 0 then pc + 1 else afterEndl (pc + 1) (d - 1) is
    | .loop _ _ _ => afterEndl (pc + 1) (d + 1) is
    | .batch _ _ _ => afterEndl (pc + 1) (d + 1) is
    | _ => afterEndl (pc + 1) d is

def Mach.insLand (s : Mach) (n e : Nat) : Mach :=
  match s.engAt n e with
  | some (_, t, .land nf lo) =>
    (s.modEng n e (fun g => { g with pc := g.pc + 1, landed := true })).modTask n t.id
      (fun t => { t with nframes := nf, landoff := lo })
  | _ => s

def Mach.insSeta (s : Mach) (n e : Nat) : Mach :=
  match s.engAt n e with
  | some (_, _, .seta c o) => s.modEng n e (fun g => { g with pc := g.pc + 1, core := c, off := o })
  | _ => s

/-- Opens a LOOP or BATCH level, or passes a body that runs 0 times (R109). -/
def Mach.openLevel (s : Mach) (n e : Nat) (t : Task) (isBatch : Bool) (count : Nat) (dc d : Int) : Mach :=
  let is := s.engProg n t
  s.modEng n e (fun g =>
    if count = 0 then { g with pc := afterEndl (g.pc + 1) 0 (is.drop (g.pc + 1)) }
    else
      { g with
        pc := g.pc + 1
        loops := { isBatch, bodyPc := g.pc + 1, count, iter := 0, dcore := dc, doff := d, core0 := g.core
                   off0 := g.off } :: g.loops })

def Mach.insLoop (s : Mach) (n e : Nat) : Mach :=
  match s.engAt n e with
  | some (_, t, .loop c dc d) => s.openLevel n e t false c dc d
  | _ => s

def Mach.insBatch (s : Mach) (n e : Nat) : Mach :=
  match s.engAt n e with
  | some (_, t, .batch c dc d) =>
    let s := if c = 0 then s else s.closePoint n e t
    s.openLevel n e t true c dc d
  | _ => s

/-- R109, R110: the end of an iteration. -/
def Mach.insEndl (s : Mach) (n e : Nat) : Mach :=
  match s.engAt n e with
  | some (g, t, .endl) =>
    match g.loops with
    | [] => s
    | l :: ls =>
      if l.iter + 1 < l.count then
        let s := if l.isBatch then s.closePoint n e t else s
        s.modEng n e (fun g => { g with
          pc := l.bodyPc, core := g.core + l.dcore, off := g.off + l.doff, loops := { l with iter := l.iter + 1 } :: ls })
      else s.modEng n e (fun g => { g with pc := g.pc + 1, core := l.core0, off := l.off0, loops := ls })
  | _ => s

/-- R111, R123: trims the enclosing loop, each time it is entered. -/
def Mach.insSkiplen (s : Mach) (n e : Nat) : Mach :=
  match s.engAt n e with
  | some (g, t, .skiplen _) =>
    match g.loops with
    | [] => s
    | l :: ls =>
      let count := match t.iters with
        | some k => min l.count k
        | none => l.count
      let is := s.engProg n t
      s.modEng n e (fun g =>
        if count = 0 then
          { g with pc := afterEndl (g.pc + 1) 0 (is.drop (g.pc + 1)), core := l.core0, off := l.off0, loops := ls }
        else { g with pc := g.pc + 1, loops := { l with count, bodyPc := g.pc + 1 } :: ls })
  | _ => s

/-- R113: appends a tile, or maps its blocks. -/
def Mach.insEmit (s : Mach) (n e : Nat) : Mach :=
  match s.engAt n e with
  | some (g, t, i) =>
    match s.stageOf t.ctx t.stage, s.plan t.ctx with
    | some sg, some p =>
      let core := (g.core + sg.firstCore).toNat
      let off := t.sramBase + (16 * g.off).toNat
      let next := fun (s : Mach) => s.modEng n e (fun g => { g with pc := g.pc + 1 })
      let tile := fun (lin : Bool) (len pitch : Nat) =>
        if isStashRun t then
          let item : StreamItem :=
            if lin then .tile core off 1 len 0 false
            else .tile core off len t.entry.src.bytes pitch (p.width core == 15)
          next ((s.modEng n e (fun g => { g with reads := g.reads ++ [item] })).modTask n t.id (fun t =>
            { t with readCores := if t.readCores.contains core then t.readCores else t.readCores ++ [core] }))
        else
          let b := tileBytes t.entry.src lin len
          next (s.mapBytes n e t.id core (2 * (b / 4096) + 4) b)
      match i with
      | .linear len => tile true len 0
      | .rows _ pitch len => tile false len pitch
      | _ => s
    | _, _ => s
  | none => s

/-- R116, R317: takes 1 of the semaphore, or waits for it. A fetch run passes over. -/
def Mach.insWaitSem (s : Mach) (n e : Nat) : Mach :=
  match s.engAt n e with
  | some (_, t, .waitSem i) =>
    if !isStashRun t then s.modEng n e (fun g => { g with pc := g.pc + 1 })
    else if 0 < s.sem n i then
      (s.setSem n i (s.sem n i - 1)).modEng n e (fun g => { g with pc := g.pc + 1 })
    else
      let o := (s.st n).waitSeq
      (s.modSt n (fun x => { x with waitSeq := o + 1 })).modEng n e (fun g => { g with waiting := some i, waitOrder := o })
  | _ => s

def hasTile (l : List StreamItem) : Bool :=
  l.any (fun i => match i with
    | .tile _ _ _ _ _ _ => true
    | _ => false)

/-- R116: waits until every read the run has issued is back. -/
def Mach.insWaitDrain (s : Mach) (n e : Nat) : Mach :=
  match s.engAt n e with
  | some (g, t, .waitDrain) =>
    if isStashRun t && hasTile g.reads then s.modEng n e (fun g => { g with draining := true })
    else s.modEng n e (fun g => { g with pc := g.pc + 1 })
  | _ => s

/-! ## The stream of a stash run -/

/-- Rows of a tile as they enter the raw stream: the pad lane is +0 (R113, R114). -/
def tileData (sram : List Host.Cell) (core off rows rowUnits pitch : Nat) (pad : Bool) : List Byte :=
  ((List.range rows).map (fun j =>
    let l := memReads sram (sramAddr core (off + 16 * (j * pitch))) (16 * rowUnits)
    if pad then l.take (15 * rowUnits) ++ List.replicate rowUnits 0 else l)).flatten

/-- Closes the open block of a stash run. -/
def Mach.closeRaw (s : Mach) (n e : Nat) : Mach :=
  let g := s.eng n e
  let s := s.modEng n e (fun g => { g with openCore := none, openBytes := [], openLen := 0 })
  match g.openCore, g.task with
  | some c, some id => if g.openBytes.isEmpty then s else s.handBlock n id e c g.openBytes
  | _, _ => s

/-- Appends bytes of core `c` to the raw stream (R119); `fuel` bounds the blocks. -/
def Mach.feedRaw (s : Mach) (n e c : Nat) : Nat → List Byte → Mach
  | 0, _ => s
  | fuel + 1, l =>
    if l.isEmpty then s
    else
      let g := s.eng n e
      match g.openCore with
      | some k =>
        if k != c then Mach.feedRaw (s.closeRaw n e) n e c fuel l
        else
          let room := 4096 - g.openLen
          let s := s.modEng n e (fun g => { g with
            openBytes := g.openBytes ++ l.take room, openLen := g.openLen + (l.take room).length })
          let s := if room ≤ l.length then s.closeRaw n e else s
          Mach.feedRaw s n e c fuel (l.drop room)
      | none => Mach.feedRaw (s.modEng n e (fun g => { g with openCore := some c, openBytes := [], openLen := 0 })) n e c fuel l

/-- The run's last block is closed: the engine is free and the task's data moves on. -/
def Mach.endRun (s : Mach) (n e : Nat) : Mach :=
  match (s.eng n e).task with
  | none => s
  | some id =>
    let s := s.modSt n (fun x => { x with engines := aset {} x.engines e {} })
    let s := s.modTask n id (fun t => { t with eng := none, allClosed := true, ph := if t.ph == .run then .move else t.ph })
    s.advance n id

/-- Closes that stand at the head of the stream take place. -/
def Mach.runCloses (s : Mach) (n e : Nat) : Nat → Mach
  | 0 => s
  | fuel + 1 =>
    match (s.eng n e).reads with
    | .close :: r => Mach.runCloses ((s.modEng n e (fun g => { g with reads := r })).closeRaw n e) n e fuel
    | .last :: _ => (s.closeRaw n e).endRun n e
    | _ => s

/-- R118: END closes the open block and ends the run. -/
def Mach.insEnd (s : Mach) (n e : Nat) : Mach :=
  match s.engAt n e with
  | some (_, t, .fin) =>
    if isStashRun t then
      (s.modEng n e (fun g => { g with reads := g.reads ++ [.last], done := true })).runCloses n e ((s.eng n e).reads.length + 1)
    else
      let s := (s.closeMap n e t.id).modSt n (fun x => { x with engines := aset {} x.engines e {} })
      s.modTask n t.id (fun t => { t with eng := none, allClosed := true, ph := if t.ph == .run then .move else t.ph })
  | _ => s

/-- The oldest core SRAM read of a stash engine returns; an uncorrectable one fails the task (R395). -/
def Mach.sramReturn (s : Mach) (mem : Mems) (n e : Nat) (err : Bool) : Mach :=
  let g := s.eng n e
  match g.task.bind (s.task n) with
  | none => s
  | some t =>
    if s.outWaits n t.id .raw && !err then s
    else
    let s := s.runCloses n e (g.reads.length + 1)
    match (s.eng n e).reads with
    | .tile core off rows ru pitch pad :: r =>
      let s := s.modEng n e (fun g => { g with reads := r })
      if err then s.failSend n t .rderr
      else
        let l := tileData mem.sram core off rows ru pitch pad
        let s := s.feedRaw n e core (2 * (l.length / 4096) + 4) l
        let s := s.runCloses n e (r.length + 1)
        let g := s.eng n e
        if g.draining && !hasTile g.reads then s.modEng n e (fun g => { g with draining := false, pc := g.pc + 1 }) else s
    | _ => s

/-! ## The commands -/

/-- ENGINE_DISPATCH (R103). -/
def execEngineDispatch (st : Nat) (s : State) : Out :=
  act (.engineDispatch st) s (fun _ m => m.dispatch st)

/-- LAND (R106, R126). -/
def execLand (st e : Nat) (s : State) : Out :=
  act (.land st e) s (fun _ m => m.readIns st e 0x01 (fun m => m.insLand st e))

/-- SETA (R108). -/
def execSeta (st e : Nat) (s : State) : Out :=
  act (.seta st e) s (fun _ m => m.readIns st e 0x02 (fun m => m.insSeta st e))

/-- LOOP (R109). -/
def execLoop (st e : Nat) (s : State) : Out :=
  act (.loop st e) s (fun _ m => m.readIns st e 0x03 (fun m => m.insLoop st e))

/-- BATCH (R110). -/
def execBatch (st e : Nat) (s : State) : Out :=
  act (.batch st e) s (fun _ m => m.readIns st e 0x04 (fun m => m.insBatch st e))

/-- ENDL (R109, R110). -/
def execEndl (st e : Nat) (s : State) : Out :=
  act (.endl st e) s (fun _ m => m.readIns st e 0x05 (fun m => m.insEndl st e))

/-- SKIPLEN (R111). -/
def execSkiplen (st e : Nat) (s : State) : Out :=
  act (.skiplen st e) s (fun _ m => m.readIns st e 0x06 (fun m => m.insSkiplen st e))

/-- EMIT (R113). -/
def execEmit (st e : Nat) (s : State) : Out :=
  act (.emit st e) s (fun _ m => m.readIns st e 0x07 (fun m => m.insEmit st e))

/-- WAIT with KIND 0 (R116, R317). -/
def execWaitSemaphore (st e : Nat) (s : State) : Out :=
  act (.waitSemaphore st e) s (fun _ m => m.readIns st e 0x08 (fun m => m.insWaitSem st e))

/-- WAIT with KIND 1 (R116). -/
def execWaitDrain (st e : Nat) (s : State) : Out :=
  act (.waitDrain st e) s (fun _ m => m.readIns st e 0x18 (fun m => m.insWaitDrain st e))

end Sys2Proof.Machine
end

