-- ==== Sys2Proof/Machine/Demote.lean ====
section
/-!
DEFINITION. Demotion: its marks and the choice of a chunk (R46, R48, R49), the demotion of a record (R47, R201), its
faults (R389), and the chunk that returns to the pool.
-/
namespace Sys2Proof.Machine

/-- The due tick of a record's next fetch, E being 0 at TIER 0 (R159). -/
def dueTickOf (nlayer consume lead extra : Nat) : Nat := min (consume + lead + extra) (nlayer - 1)

/-- R48, R271: a record that demotion passes over. -/
def Mach.undemotable (s : Mach) (c g : Nat) (r : RecInfo) : Bool :=
  match s.stageOf c g, (s.plan c).bind (fun p => p.entries[r.ent]?) with
  | some e, some en =>
    let last := aget 0 (s.stage c g).lastTick r.mb
    r.stashing || r.lost.isSome || r.rc.state != .resident || r.rc.tier != 0 ||
    en.pin || r.fetched || !r.captured ||
    (last != 0 && decide (last - 1 ≤ dueTickOf e.nlayer ((en.consume.head?).getD 0) en.lead 0 + 2 * en.lead))
  | _, _ => true

/-- Records with storage in the bottom chunk, oldest first; a record that is drained keeps its storage until it is
reclaimed from the top (R45). -/
def StageRun.bottom (x : StageRun) : List (Nat × RecInfo) :=
  let lo := Config.slotsPerChunk * x.chainBase
  ((List.range x.recs.length).zip x.recs).filter (fun p =>
    decide (0 < p.2.slots) && !p.2.reclaimed && decide (p.2.slot0 < lo + Config.slotsPerChunk) &&
      decide (lo < p.2.slot0 + p.2.slots))

/-- The demotion target of a stage: its tier index; none for DTARGET 3 or a lost or full tier (R300, R354, R359). -/
def Mach.demoteTier (s : Mach) (c : Nat) (e : StageEntry) : Option Nat :=
  let x := s.ctx c
  if e.dtarget = 1 then (if x.lostTiers.contains e.dtierix then none else some e.dtierix)
  else if e.dtarget = 2 then (if x.farLost || x.farFull.contains e.dtierix then none else some e.dtierix)
  else none

/-- The stages over their reserve that can give their bottom chunk: excess and stage number. -/
def Mach.demoteStage (s : Mach) (c : Nat) : Option StageEntry :=
  match s.plan c with
  | none => none
  | some p =>
    let ok := p.stages.filter (fun e =>
      let x := s.stage c e.stage
      decide (e.reserve < x.chain.length) && (s.demoteTier c e).isSome &&
        (match x.bottom.head? with
         | some q => !s.undemotable c e.stage q.2
         | none => true))
    let excess := fun (e : StageEntry) => (s.stage c e.stage).chain.length - e.reserve
    match ok with
    | [] => none
    | e :: es =>
      some (es.foldl (fun b e =>
        if excess b < excess e ∨ (excess b = excess e ∧ e.stage < b.stage) then e else b) e)

/-- Starts the demotion of a record: it is rewritten DEMOTING (R47 step 1). -/
def Mach.startDemotion (s : Mach) (c : Nat) (e : StageEntry) (k : Nat) (r : RecInfo) : Mach :=
  match (s.plan c).bind (fun p => p.entries[r.ent]?), s.demoteTier c e with
  | some en, some tix =>
    let n := e.home
    let p := s.freshId n
    let t : Task :=
      { id := p.1, kind := .demote, path := if e.dtarget = 1 then .peer else .far, ph := .recWrite, ctx := c, stage := e.stage
        mb := r.mb, layer := r.layer, tensor := r.tensor, fill := some k, ent := r.ent, entry := en, rc := r.rc
        acorn := r.rc.acorn, rawTotal := r.rc.rawLen, tierix := tix, chan := s.localChan n
        chan2 := if e.dtarget = 1 then 6 else 5
        coreFirst := r.rc.coreFirst, cfg := (s.ctx c).act.taskCfg e.stage r.layer r.tensor
        slotsNeeded := ceilDiv (if r.rc.isRaw then r.rc.rawLen else r.rc.storLen) 4096 }
    (p.2.modSt n (fun x => { x with tasks := x.tasks ++ [t] })).readCache n t (fun s => s.writeRec n t { r.rc with state := .demoting })
  | _, _ => s

/-- The next record of the chosen stage's bottom chunk is demoted; with none left the chunk returns to the pool;
at one that R48 names the demotion of the stage ends. -/
def Mach.demoteNext (s : Mach) (c g : Nat) : Mach :=
  match s.stageOf c g with
  | none => s
  | some e =>
    let x := s.stage c g
    match x.bottom with
    | [] =>
      let s := s.modStage c g (fun x => { x with
        demoteChunk := false, chain := x.chain.drop 1
        chainBase := if x.chain.isEmpty then x.chainBase else x.chainBase + 1
        fillPtr := max x.fillPtr (if x.chain.isEmpty then 0 else Config.slotsPerChunk * (x.chainBase + 1)) })
      (s.demoteMarks c).reserveAll e.home c g
    | (k, r) :: _ =>
      let live := (s.ctx c).state == .running || (s.ctx c).state == .draining
      if s.undemotable c g r || decide (2 ≤ s.level) || !live || (s.demoteTier c e).isNone then
        s.modStage c g (fun x => { x with demoteChunk := false })
      else s.startDemotion c e k r

/-- DEMOTE_CHUNK: chooses a stage and begins its bottom chunk (R46). -/
def Mach.demoteChunk (s : Mach) (c : Nat) : Mach :=
  let s := s.demoteMarks c
  let busy := (s.ctx c).stages.any (fun p => p.2.demoteChunk)
  let live := (s.ctx c).state == .running || (s.ctx c).state == .draining
  if !(s.ctx c).demoteOn || busy || decide (2 ≤ s.level) || !live then s
  else
    match s.demoteStage c with
    | none => s
    | some e => (s.modStage c e.stage (fun x => { x with demoteChunk := true })).demoteNext c e.stage

/-- The DEMOTING record is written: the record's slots are read, and a KEEP record's block cuts are found (R201). -/
def Mach.demoteWritten (s : Mach) (n : Nat) (t : Task) : Mach :=
  match (s.plan t.ctx).bind (fun p => p.fetchProg n t.entry t.rc.rawLen) with
  | none => s.failDemotion n t .lenfault kRecord 0 false
  | some (prog, k) =>
    let t := { t with prog, iters := k, pendDone := true }
    s.modTask n t.id (fun _ => { t with
      nexp := (s.fetchMap t).length, ph := if t.rc.isRaw then .engine else .move, allClosed := false })

/-- A demotion takes a room, while fewer than two hold unsent blocks (R135), and reads on. Its rooms are held until the tier
acknowledges the record (R32, R295, R352). -/
def Mach.takeDemoteRoom (s : Mach) (n : Nat) (t : Task) : Mach :=
  let more := decide (16 * t.rooms < t.slotsNeeded) && t.pendDone && (t.ph == .engine || t.ph == .run || t.ph == .move)
  if more && decide (t.roomsUnsent < 2) && decide ((s.st n).roomsUsed t.ctx false < s.srooms t.ctx n) then
    let t := { t with rooms := t.rooms + 1 }
    let todo := (List.range (min t.slotsNeeded (16 * t.rooms))).drop t.slotsIssued
    if todo.any (fun i => (s.readAt n t i).isNone) then s.failDemotion n t .lenfault kRecord 0 false
    else
      let s := s.modTask n t.id (fun _ => { t with slotsIssued := t.slotsIssued + todo.length })
      overList (fun s i =>
        match s.readAt n t i with
        | none => s
        | some (a, len) =>
          s.queueAcc n { share := 0, cls := 1, ctx := t.ctx, chan := t.chan, owner := t.id, cost := 4096, addr := a, len
                         hook := .slotRead t.id i }) s todo
  else s

/-- Gives the lanes the blocks of a KEEP record whose data is here, or takes the blocks of a HUSK record as they
are after their checks (R201, R194); then the sends go on. -/
def Mach.advanceDemote (s : Mach) (n id : Nat) : Mach :=
  match s.task n id with
  | none => s
  | some t =>
    if t.kind != .demote || !(t.ph == .run || t.ph == .move) then s
    else
      let l := gatherReads t.slotData t.slotsNeeded 0
      if t.rc.isRaw then
        let start := sumNat ((t.blks.take t.parsed).map (fun b => b.rawLen))
        let here := cutRaw ((t.blks.drop t.parsed).map (fun b => (0, b.rawLen))) ((l.take t.rc.rawLen).drop start)
        let s := s.modTask n id (fun t => { t with
          parsed := t.parsed + here.length
          blks := t.blks.map (fun b =>
            if t.parsed ≤ b.ix then match here[b.ix - t.parsed]? with
              | some d => { b with raw := d }
              | none => b
            else b) })
        let s := overList (fun s i => s.queueLane n { task := id, blk := t.parsed + i, demote := true }) s
          (List.range here.length)
        s.advanceSend n id
      else
        let r := parseBlocks t.rc.storLen t.nexp (t.nexp + 1) 0 0 (l.take t.rc.storLen)
        let bad := findIx (fun b => !huskCrcOk (huskParse b) b) r.1 0
        match bad, r.2 with
        | some (i, _), _ => s.failDemotion n t .huskCrc 0 i false
        | none, some (st, k, i) => s.failDemotion n t st k i false
        | none, none =>
          let new := (r.1.drop t.blks.length)
          let o := t.blks.length
          let bs := ((List.range new.length).zip new).map (fun p =>
            ({ ix := o + p.1, core := 0, rawLen := (huskParse p.2).rawLen, stored := p.2, st := .ready } : Blk))
          let s := s.modTask n id (fun t => { t with blks := t.blks ++ bs, allClosed := r.1.length == t.nexp })
          s.advanceSend n id

/-- Data of read `i` of a demotion. -/
def Mach.demoteData (s : Mach) (n : Nat) (t : Task) (i : Nat) (l : List Byte) : Mach :=
  let s := s.modTask n t.id (fun t => { t with slotData := aset [] t.slotData i l, slotsDone := t.slotsDone + 1 })
  if t.ph == .fail then
    s.endFailed n t
  else s.advanceDemote n t.id

/-- The record stands RESIDENT at its new tier: its Cellar storage is given up (R47). -/
def Mach.demoteFinished (s : Mach) (n : Nat) (t : Task) : Mach :=
  let s := match t.fill with
    | none => s
    | some k => s.modRec t.ctx t.stage k (fun r => { r with slots := 0, hole := 0, reclaimed := true })
  (s.endTask n t .ok).demoteNext t.ctx t.stage

/-! ## The commands -/

/-- DEMOTE_CHUNK (R46–R49). -/
def execDemoteChunk (c : Nat) (s : State) : Out :=
  act (.demoteChunk c) s (fun _ m => m.demoteChunk c)

/-- END (R118). -/
def execFin (st e : Nat) (s : State) : Out :=
  act (.fin st e) s (fun _ m => m.readIns st e 0x0F (fun m => match (m.eng st e).task with
    | some t => (m.insEnd st e).advanceDemote st t
    | none => m))

/-- LANE_BLOCK_DONE (R170–R172). -/
def execLaneBlockDone (st lane : Nat) (s : State) : Out :=
  act (.laneBlockDone st lane) s (fun _ m => m.laneDone st lane)

end Sys2Proof.Machine
end

