-- ==== Sys2Proof/Machine/Stash.lean ====
section
/-!
DEFINITION. Stash tasks: the scale and the amax ring (R253–R255), the path a stash takes (R30, R378, R380), DROP and
EMPTY records (R29, R33), and what follows when a record's write is acknowledged (R31, R43, R53).
-/
namespace Sys2Proof.Machine

/-- How a stash of an entry is carried out now: its entry as used, and its path. A FAR stash that goes to the Cellar because
the far tier is lost (R359) is not counted in the far-full count (DESIGN CHOICE, log entry 137). -/
def Mach.choosePath (s : Mach) (c : Nat) (e : Entry) : Entry × Path :=
  let x := s.ctx c
  if 4 ≤ s.level ∧ e.disp ≠ .keep then ({ e with disp := .keep, fmt := e.src }, .raw)
  else
    (e, match e.disp with
      | .keep => .raw
      | .husk => .husk
      | .lodge => if 2 ≤ s.level || x.lostTiers.contains e.tierix then .husk else .peer
      | .far => if 2 ≤ s.level || x.farLost then .husk else .far
      | .drop => .raw)

/-- Fabric address of an entry's amax ring in a telemetry area (R262). -/
def Mach.ringAt (s : Mach) (base ent : Nat) : Nat := s.fabAddr (base + 0x12000 + 128 * ent)

/-- That of the active set's area. -/
def Mach.ringAddr (s : Mach) (c ent : Nat) : Nat := s.ringAt (s.ctx c).act.telBase.toNat ent

/-- The station whose stash tasks use an entry's ring. -/
def Mach.entHome (s : Mach) (c ent : Nat) : Nat :=
  match (s.plan c).bind (fun p => p.entries[ent]?) with
  | some e => s.home c e.stage
  | none => 0

/-- Rooms of a LODGE or FAR stash, taken one by one (R32): the first waiting stash of the context goes first. -/
def Mach.takeStashRoom (s : Mach) (n : Nat) (t : Task) : Mach :=
  let first := (s.st n).tasks.find? (fun u => u.ctx == t.ctx && u.kind == .stash && u.ph == .rooms)
  if (first.map (fun u => u.id)) == some t.id && t.ph == .rooms &&
      decide ((s.st n).roomsUsed t.ctx false < s.srooms t.ctx n) then
    s.modTask n t.id (fun t =>
      { t with rooms := t.rooms + 1, ph := if t.roomNeed ≤ t.rooms + 1 then .engine else .rooms })
  else s

/-- A stash starts, with its entry's amax ring where it has one: scale, path, channel, and its storage (R30 step 1). -/
def Mach.startStash (s : Mach) (n id : Nat) (ring : Option Amax) : Mach :=
  match s.task n id with
  | none => s
  | some t =>
    match s.plan t.ctx with
    | none => s
    | some p =>
      let ep := s.choosePath t.ctx t.entry
      let e := ep.1
      let scale := if identityPath e then 0 else chooseScale e.fmt t.cfg.scaleCtl ring
      let sp := p.stashProg n t.entry t.runLen
      let items := (p.progNode n sp.1).items sp.2
      let bl := blocksOf e.src items
      let raw := sumNat (bl.map (·.2))
      let first := ((s.stageOf t.ctx t.stage).map (fun g => g.firstCore)).getD 0
      let remote := ep.2 == .peer || ep.2 == .far
      let need := if ep.2 == .raw then raw else raw + 32 * bl.length
      let s := s.modCtx t.ctx (fun x => { x with amax := amod {} x.amax t.ent (fun a => { a with lastScale := scale }) })
      let s := s.modTask n id (fun t => { t with
        entry := e, path := ep.2, scale, ringH := (ring.map amaxH).getD 0, prog := sp.1, iters := sp.2, rawTotal := raw
        nexp := bl.length
        coreFirst := first + ((bl.head?).map (fun q => q.1.toNat)).getD 0
        tierix := e.tierix, chan := if ep.2 == .peer then 6 else if ep.2 == .far then 5 else s.localChan n
        ph := if remote then .rooms else .chunk
        slotsNeeded := if remote then 0 else ceilDiv need Config.slotBytes
        roomNeed := if remote then ceilDiv bl.length 15 else 0 })
      if remote then s else s.reserveAll n t.ctx t.stage

/-- A read of the amax ring at `ring` waits or is out. -/
def Station.ringComing (x : Station) (ring : Nat) : Bool :=
  (x.acc ++ x.outst).any (fun a => match a.hook with
    | .ringRead _ _ i => a.addr == ring + 64 * i
    | _ => false)

/-- A stash waits for its entry's ring, or starts (R253). The ring is that of the set it has started with (R94). -/
def Mach.beginStash (s : Mach) (n id : Nat) : Mach :=
  match s.task n id with
  | none => s
  | some t =>
    match t.cfg.tel with
    | none => s.startStash n id none
    | some base =>
      let am := aget {} (s.ctx t.ctx).amax t.ent
      let ring := s.ringAt base t.ent
      if am.loaded && ring == s.ringAddr t.ctx t.ent then s.startStash n id (some am)
      else if (s.st n).ringComing ring then s
      else
        overList (fun s i =>
          s.queueAcc n { share := 0, cls := 1, ctx := t.ctx, chan := 8, owner := id, cost := 64
                         addr := ring + 64 * i, len := 64, hook := .ringRead t.ctx t.ent i }) s [0, 1]

/-- Both halves of the ring at `ring` are here: a faulty ring is empty (R254), and the stashes that waited for it start.
The context keeps it for the rest of the step when it lies in the active set's area (R94, R253). -/
def Mach.ringLoaded (s : Mach) (mem : Mems) (n c ent ring : Nat) : Mach :=
  if (s.st n).ringComing ring then s
  else
    let l := fabReads mem ring 128
    let bad := ringBad l
    let cur := aget {} (s.ctx c).amax ent
    let new : Amax := if bad then { loaded := true, rewrite := true } else ringParse l
    let am := { new with running := cur.running, used := cur.used }
    let en := ((s.plan c).bind (fun p => p.entries[ent]?)).getD {}
    let s := if bad then
        s.logv { status := .telCrc, src := srcStation, unit := n, ctx := some c, value := ent, addr := ring
                 tensor := en.tensor, stage := en.stage, layer := en.layer }
      else s
    let s := if ring == s.ringAddr c ent then s.modCtx c (fun x => { x with amax := aset {} x.amax ent am }) else s
    Mach.overTasks n (fun s t =>
      if t.kind == .stash && t.ph == .ring && t.ctx == c && t.ent == ent && t.cfg.tel.map (fun b => s.ringAt b ent) == some ring then
        s.startStash n t.id (some am)
      else s) s

/-! ## DROP and EMPTY -/

/-- The checkpoint record a DROP task refers to, once its FWD_DONE has been accepted (R33). -/
def Mach.ckptOf (s : Mach) (t : Task) : Option (Nat × RecInfo × Segment) :=
  match (s.plan t.ctx).bind (fun p => p.segs[t.entry.segix]?) with
  | none => none
  | some sg => ((s.stage t.ctx t.stage).find t.mb sg.ckptLayer sg.ckpt).map (fun q => (q.1, q.2, sg))

/-- A DROP task writes its REFERENCE record, or waits for the checkpoint (R33). -/
def Mach.tryDrop (s : Mach) (n : Nat) (t : Task) : Mach :=
  match s.ckptOf t with
  | none => s
  | some (k, _, sg) =>
    let rc := { t.baseRec (s.ctx t.ctx).step with
      state := .reference, tier := 3, loc := s.recAddr t.ctx t.stage k, rawLen := 0, storLen := 0
      segFirst := sg.segFirst, segLast := sg.segLast }
    (s.modTask n t.id (fun t => { t with ph := .recWrite })).writeRec n t rc

/-- Waiting DROP tasks of a stage and slot go on after a FWD_DONE. -/
def Mach.wakeDrops (s : Mach) (n c g mb : Nat) : Mach :=
  Mach.overTasks n (fun s t =>
    if t.kind == .dropWait && t.ph == .waitCkpt && t.ctx == c && t.stage == g && t.mb == mb then s.tryDrop n t else s) s

/-! ## An accepted FWD_DONE (R29–R33) -/

/-- Starts the task of an accepted FWD_DONE at its home station. -/
def Mach.acceptFwd (s : Mach) (n : Nat) (e : QEvent) (ent : Nat) (en : Entry) : Mach :=
  let c := evCtx e.w0
  let g := evStage e.w0
  let mb := evMb e.w0
  let x := s.ctx c
  let k := (s.stage c g).recs.length
  let base := acornBase (evLayer e.w0) mb (evTensor e.w0)
  let s := s.modStage c g (fun y => { y with
    recs := y.recs ++ [{ ent, mb, layer := evLayer e.w0, tensor := evTensor e.w0 }] })
  let p := s.freshId n
  let poster := evCore e.w1
  let t : Task :=
    { id := p.1, ctx := c, stage := g, mb, layer := evLayer e.w0, tensor := evTensor e.w0, fill := some k, ent, entry := en
      poster, sramBase := evSramBase e.w1, runLen := evRunLen e.w1, acorn := base, seed := s.seedOf c g x.step
      coreFirst := poster
      cfg := { x.act.taskCfg g (evLayer e.w0) (evTensor e.w0) with
        tel := if x.tel.st = 0 then some x.act.telBase.toNat else none } }
  let add := fun (s : Mach) (t : Task) => s.modSt n (fun y => { y with tasks := y.tasks ++ [t] })
  let s := p.2
  let s :=
    if en.disp == .drop then
      let t := { t with kind := .dropWait, ph := .waitCkpt }
      ((add s t).postReleased n en.cell [poster]).tryDrop n t
    else if evRunLen e.w1 = 0 then
      let t := { t with ph := .recWrite }
      (add s t).writeRec n t { t.baseRec x.step with state := .empty, tier := 3, rawLen := 0, storLen := 0 }
    else (add s { t with ph := .ring }).beginStash n t.id
  (s.wakeDrops n c g mb).wakeFetches c g k

/-! ## The record's write is acknowledged -/

/-- What the reserve keeps of a stash's data, and whether it is sealed (R270). -/
def Mach.captureData (s : Mach) (t : Task) : List Byte × Bool :=
  if t.path == .peer || t.path == .far || t.kind == .recall then ((t.blks.map (s.sealedBlk t)).flatten, true)
  else (t.gather, false)

/-- A capture reads the blocks of a LODGE or FAR record in their Inn rooms (R270, R395). -/
def Mach.readRooms (s : Mach) (n id : Nat) (go : Mach → Mach) : Mach :=
  if (s.task n id).any (fun t => s.capturing t.ctx) then s.readInn n id 0 go else go s

/-- The write of a task's record has its response without error. -/
def Mach.recordWritten (s : Mach) (n : Nat) (t : Task) : Mach :=
  match t.fill with
  | none => s
  | some k =>
    let done := fun (s : Mach) => (s.modRec t.ctx t.stage k (fun r => { r with stashing := false }))
    let rc := ((s.recInfo t.ctx t.stage k).map (fun r => r.rc)).getD {}
    if t.ph == .fail then s.endFailed n t
    else
      match t.kind with
      | .dropWait =>
        let s := ((done s).captureRec n t rc [] false).dropTask n t.id
        s.wakeFetches t.ctx t.stage k
      | .demote =>
        if t.ph == .final then s.demoteFinished n t else if t.pendDone then s else s.demoteWritten n t
      | .stash | .recall =>
        if rc.state == .empty then
          let s := ((done s).postReleased n t.entry.cell [t.poster]).captureRec n t rc [] false
          (s.dropTask n t.id).wakeFetches t.ctx t.stage k
        else if t.ph == .final then
          let s := if t.kind == .recall then s.trim t.ctx t.stage k rc.storLen else s
          let t := { t with finalDone := true }
          -- the last delivery came from the rooms before the record stood at the innkeeper (R53, R298)
          let freed := rc.tier == 1 && t.kind == .stash && ((s.recInfo t.ctx t.stage k).map (fun r => r.drained)).getD false
          let s := if freed then s.sendFree t.ctx rc.loc else s
          (s.modTask n t.id (fun _ => t)).endRemote n t
        else if (t.path == .raw || t.path == .husk) && t.kind == .stash then
          let s := ((done s).trim t.ctx t.stage k rc.storLen).postReleased n t.entry.cell (sortedCores t.readCores)
          let d := s.captureData t
          ((s.captureRec n t rc d.1 d.2).endTask n t .ok).wakeFetches t.ctx t.stage k
        else if t.pendDone then s
        else
          let t' := { t with pendDone := true, ph := if t.ph == .recWrite then .remote else t.ph }
          let s := ((done s).modTask n t.id (fun _ => t')).postReleased n t.entry.cell (sortedCores t.readCores)
          s.readRooms n t.id (fun s =>
            let d := s.captureData t'
            let s := s.captureRec n t' rc d.1 d.2
            let s := s.wakeFetches t.ctx t.stage k
            if t.kind == .recall then s.cellarDone n t.id else s.tierAcked n t.id)
      | _ => s

end Sys2Proof.Machine
end

