-- ==== Sys2Proof/Machine/Issue.lean ====
section
/-!
DEFINITION. Issue of accesses: channel slots and turns (R133, R134), share tokens (R152, R154, R155), the order of
R153 and R156, and sends to the tiers (R133, R281, R293, R352, R354).
-/
namespace Sys2Proof.Machine

/-! ## Tokens, in sixths of a byte (R152) -/

def shareDepth : Nat := 6 * 131072
/-- Class buckets are kept in 24ths of a byte: a quarter and a half of the accrual are whole numbers there (R154, R155). -/
def classDepth : Nat := 24 * 65536

/-- Tokens of a share; a bucket is full at reset. -/
def Station.tok (x : Station) (share : Nat) : Nat := aget shareDepth x.tokens share
/-- Tokens of the class 0 bucket (key 0) or of the class 1 bucket of a share (key 1 + share). -/
def Station.clsTok (x : Station) (k : Nat) : Nat := aget classDepth x.clsTokens k

def Station.spend (x : Station) (share n : Nat) : Station :=
  { x with tokens := aset shareDepth x.tokens share (x.tok share - 6 * n) }
def Station.spendCls (x : Station) (k n : Nat) : Station :=
  { x with clsTokens := aset classDepth x.clsTokens k (x.clsTok k - 24 * n) }

/-- The class bucket an access also draws from, if any (R154, R155). -/
def Mach.clsBucket (s : Mach) (a : Access) : Option Nat :=
  if 3 ≤ a.share then none
  else if a.cls = 0 then (if a.share = 0 then some 0 else none)
  else if a.cls = 1 ∧ 3 ≤ s.level then some (1 + a.share)
  else none

/-! ## Slots of a channel (R133, R134) -/

/-- Whose transfer an access of a channel is: a task's, a descriptor transfer's, or that of a capture, a checkpoint,
telemetry or a reader of the gatehouse (R132, R134). -/
def Access.taskKey (a : Access) : Nat :=
  if a.owner ≠ 0 then 8 * a.owner
  else
    match a.hook with
    | .xferRead r p _ _ => 8 * (64 * p + r) + 1
    | .xferWrite r p _ => 8 * (64 * p + r) + 1
    | .inlineWrite r p => 8 * (64 * p + r) + 1
    | .xferBack r p => 8 * (64 * p + r) + 1
    | .capWrite c _ _ => 8 * c + 2
    | .capHead c => 8 * c + 2
    | .capFetch c => 8 * c + 2
    | .ckptWrite c => 8 * c + 3
    | .ckptRead c => 8 * c + 3
    | .ckptBack c => 8 * c + 3
    | .loadRead => 5
    | .seqRead => 8 + 5
    | .ctxSave c => 8 * c + 6
    | .bedZero c => 8 * c + 7
    | _ => 8 * a.ctx + 4

def Station.chanUse (x : Station) (k : Nat) : Nat := (x.outst.filter (fun a => a.chan == k)).length

def Station.taskUse (x : Station) (k t : Nat) : Nat :=
  (x.outst.filter (fun a => a.chan == k && a.taskKey == t)).length

/-- A slot is free for the access: 16 a channel, and 8 a task while another task on the channel waits. -/
def Station.slotFree (x : Station) (a : Access) : Bool :=
  if 8 ≤ a.chan then true
  else
    let others := x.acc.any (fun b => b.chan == a.chan && b.taskKey != a.taskKey)
    decide (x.chanUse a.chan < 16) && (!others || decide (x.taskUse a.chan a.taskKey < 8))

/-- No first block goes out at level 2 and above (R49, R378). -/
def Mach.sendHeld (s : Mach) (n : Nat) (a : Access) : Bool :=
  match a.hook with
  | .putSend t _ => decide (2 ≤ s.level) && ((s.task n t).map (fun t => !t.started)).getD false
  | .farSend t _ => decide (2 ≤ s.level) && ((s.task n t).map (fun t => !t.started)).getD false
  | _ => false

/-! ## The order of R153 and R156 -/

def firstBy (lt : Access → Access → Bool) : List Access → Option Access
  | [] => none
  | a :: as => some (as.foldl (fun b c => if lt c b then c else b) a)

/-- The order in which the tasks of accesses started; a fetch's task starts as it falls due. -/
def startOrder (a b : Access) : Bool :=
  let k := fun (a : Access) => if a.owner = 0 then a.id else a.owner
  decide (k a < k b) || (k a == k b && decide (a.id < b.id))

/-- The order in which accesses were queued. -/
def issueOrder (a b : Access) : Bool := decide (a.id < b.id)

/-- By whose transfer it is. -/
def keyOrder (a b : Access) : Bool := decide (a.taskKey < b.taskKey) || (a.taskKey == b.taskKey && decide (a.id < b.id))

/-- Whose turn an access of a channel comes under: by class and context; toward the links and the CXL port, where a class is
served in issue order whatever the context, by class (R134, R153, R156). -/
def Access.turnKey (a : Access) : Nat :=
  16 * a.chan + (if a.share = 3 then 12 + a.cls else 4 * a.cls + a.ctx)

/-- Of the accesses `l` of one channel and turn: the tasks take turns, one transfer each (R134). -/
def Station.chanNext (x : Station) (l : List Access) : Option Access :=
  let last := aget 0 x.chanTurn (((l.head?).map Access.turnKey).getD 0)
  match firstBy keyOrder (l.filter (fun a => decide (last < a.taskKey))) with
  | some a => some a
  | none => firstBy keyOrder l

/-- What the channels offer of the accesses `l` of one turn: one from each channel in its tasks' turn, and every metadata
access, which travels on no channel. -/
def Station.offers (x : Station) (l : List Access) : List Access :=
  ((List.range 8).filterMap (fun k => x.chanNext (l.filter (fun a => a.chan == k)))) ++
    l.filter (fun a => decide (8 ≤ a.chan))

/-- Within a class the contexts take turns, one access each; within a context the order is that of the tasks' starts. -/
def Station.turnPick (x : Station) (share cls : Nat) (l : List Access) : Option Access :=
  let last := aget 0 x.ctxTurn (4 * share + cls)
  -- contexts from the one after the last served on
  let order := (List.range 4).map (fun i => (last + i) % 4)
  match order.find? (fun c => l.any (fun a => a.ctx == c)) with
  | some c => firstBy startOrder (x.offers (l.filter (fun a => a.ctx == c)))
  | none => none

/-- Toward the links and the CXL port a class is served in issue order; of a channel the tasks take turns, one transfer each,
whatever their contexts (R134, R156). -/
def Station.linkPick (x : Station) (l : List Access) : Option Access := firstBy issueOrder (x.offers l)

/-- The accesses that wait for a share with a channel slot to be had, those that must not go apart. -/
def Mach.waiting (s : Mach) (n share : Nat) : List Access :=
  (s.st n).acc.filter (fun a => a.share == share && (s.st n).slotFree a && !s.sendHeld n a)

/-- The head of a class on a share: class 0 in the order in which the fetches fell due, the others in turn (R153); toward
the links and the CXL port in issue order (R156). -/
def Mach.headOf (s : Mach) (n share cls : Nat) : Option Access :=
  let x := s.st n
  let l := (s.waiting n share).filter (fun a => a.cls == cls)
  if share = 3 then x.linkPick l
  else if cls = 0 then firstBy startOrder l
  else x.turnPick share cls l

/-- The head of a class that its class bucket lets go (R154, R155). -/
def Mach.readyHead (s : Mach) (n share cls : Nat) : Option Access :=
  match s.headOf n share cls with
  | none => none
  | some a =>
    match s.clsBucket a with
    | some k => if 24 * a.cost ≤ (s.st n).clsTok k then some a else none
    | none => some a

/-- The access that goes next on a share: class 0 first, then class 1 and class 2, weighted 15 to 1 in bytes while both
wait (R153); the links and the CXL port take the classes in strict order (R156). -/
def Mach.choose (s : Mach) (n share : Nat) : Option Access :=
  match s.readyHead n share 0 with
  | some a => some a
  | none =>
    match s.readyHead n share 1, s.readyHead n share 2 with
    | some a, some b =>
      let w := aget (0, 0) (s.st n).wrr share
      some (if share = 3 || decide (w.1 < 15 * (w.2 + b.cost)) then a else b)
    | some a, none => some a
    | none, b => b

/-- Counts the bytes of classes 1 and 2 while both wait. -/
def Station.countWrr (x : Station) (share : Nat) (a : Access) (both : Bool) : Station :=
  if share = 3 || a.cls = 0 then x
  else if !both then { x with wrr := aset (0, 0) x.wrr share (0, 0) }
  else
    { x with wrr := amod (0, 0) x.wrr share (fun w => if a.cls = 1 then (w.1 + a.cost, w.2) else (w.1, w.2 + a.cost)) }

/-! ## Sends -/

/-- Sends a block of a LODGE stash or a demotion as a PUT: the first block of an attempt chooses the link. It is sent when
the link takes it (R293). -/
def Mach.sendPut (s : Mach) (n id blk : Nat) : Mach :=
  match s.task n id with
  | none => s
  | some t =>
    match t.blks[blk]?, (s.ctx t.ctx).claimAt (s.taskTier t).base, t.fill with
    | some b, some k, some f =>
      let dev := k.dev
      let link := if blk = 0 then s.putLink dev else t.link
      let isLast := t.allCoded && blk + 1 == t.blks.length
      let s := s.setBlk n id blk (fun b => { b with st := .sent })
      let s := s.modTask n id (fun t => { t with link })
      let msg := mkMsg lopPut 1 s.devid dev t.ctx k.claim (BitVec.ofNat 64 (s.recAddr t.ctx t.stage f))
        (word [(blk, 0), (b2n (blk == 0), 62), (b2n isLast, 63)]) (BitVec.ofNat 64 ((s.ctx t.ctx).step.toNat % 2 ^ 32))
        (s.sealedBlk t b)
      s.newReq (.put n id blk) dev link msg 1
    | _, _, _ => s

/-- Where block `i` begins in a far write. -/
def Task.farOff (t : Task) (i : Nat) : Nat := sumNat ((t.blks.take i).map Blk.sealedLen)

/-- The bytes of a far write up to block `i`. -/
def Mach.farStream (s : Mach) (t : Task) (i : Nat) : List Byte := ((t.blks.take i).map (s.sealedBlk t)).flatten

/-- Writes the host lines that block `i` completes; the last block completes the last line. A block whose lines the
attachment holds has not been sent (R357). -/
def Mach.sendFar (s : Mach) (n id i : Nat) : Mach :=
  match s.task n id with
  | none => s
  | some t =>
    let lo := t.farOff i / 64 * 64
    let hiB := t.farOff (i + 1)
    let hi := if t.allCoded && i + 1 == t.blks.length then hiB else hiB / 64 * 64
    let l := (((s.farStream t (i + 1)).drop lo).take (hi - lo))
    let s := s.setBlk n id i (fun b => { b with st := .sent })
    let s := s.modTask n id (fun t => { t with started := t.started || s.hostLive })
    overList (fun s (p : Nat × List Byte) => s.hostWrite (n % 2) (.farLine n id) (t.loc + lo + 64 * p.1) p.2 false) s
      (let ls := chop 64 (l.length / 64 + 1) l
       (List.range ls.length).zip ls)

/-! ## Issue -/

/-- Host lines that bytes from address `a` on fall into, each with its bytes there. -/
def hostLines (a : Nat) (l : List Byte) : List (Nat × List Byte) :=
  let n0 := min l.length (64 - a % 64)
  let rest := chop 64 (l.length / 64 + 1) (l.drop n0)
  (a, l.take n0) :: ((List.range rest.length).zip rest).map (fun p => (a + n0 + 64 * p.1, p.2))

/-- An access of a channel toward the CXL port goes out as host lines: of far reads and read-backs on the station's port,
else on port 0 (R332; for the lines of a descriptor transfer and of a capture DESIGN CHOICE, log entry 120). -/
def Mach.toHost (s : Mach) (n : Nat) (a : Access) : Mach :=
  let put := fun (use : HostUse) => overList (fun (s : Mach) (p : Nat × List Byte) => s.hostWrite 0 use p.1 p.2 false) s
    (hostLines a.addr (a.data.map (fun p => p.2)))
  match a.hook with
  | .slotRead t i => s.hostRead (n % 2) (.farRead n t i) a.addr a.len false
  | .farBack t => s.hostRead (n % 2) (.farBack n t) a.addr a.len false
  | .xferRead r p o tgt => s.hostRead 0 (.xferRead r p o tgt) a.addr a.len false
  | .xferBack r p => s.hostRead 0 (.xferBack r p) a.addr a.len false
  | .ckptBack c => s.hostRead 0 (.ckptBack c) a.addr a.len false
  | .xferWrite r p o => put (.xferLine r p o)
  | .ckptWrite c => put (.ckptLine c a.id)
  | _ => s

/-- The bytes of an access as it goes out: a station record carries the station's counters as they are then (R264). -/
def Mach.issued (s : Mach) (n : Nat) (a : Access) : Access :=
  { a with
    urgent := a.cls == 0 && decide (a.share < 3) && !a.write
    data := match a.hook with
      | .telStation _ => placed a.addr (stationRecBytes (s.st n) s.aclk)
      | _ => a.data }

/-- Carries an access out as far as Uzoto goes: it is outstanding from now (R133), and a class 0 read of HBM is marked
urgent (R414). -/
def Mach.issueAccess (s : Mach) (n : Nat) (a : Access) : Mach :=
  let a := s.issued n a
  let s := s.modSt n (fun x =>
    let x := { x with acc := x.acc.filter (fun b => b.id != a.id), outst := x.outst ++ [a] }
    let x := if a.chan < 8 then { x with chanTurn := aset 0 x.chanTurn a.turnKey a.taskKey } else x
    if a.share < 3 then x.spend a.share a.cost else x)
  match a.hook with
  | .putSend t b => s.readInn n t b (fun s => s.sendPut n t b)
  | .farSend t b => s.readInn n t b (fun s => s.sendFar n t b)
  | .peerAsk t first => s.askPeer n t first
  | _ => if a.share = 3 then s.toHost n a else s

/-- A station issues accesses while it is ACTIVE: the next of a share goes when the share holds its tokens (R152). -/
def Mach.transferIssue (s : Mach) (n share : Nat) : Mach :=
  let x := s.st n
  if x.pwr != .active then s
  else
    match s.choose n share with
    | none => s
    | some a =>
      if share < 3 ∧ x.tok share < 6 * a.cost then s
      else
        let both := (s.readyHead n share 1).isSome && (s.readyHead n share 2).isSome
        let s := s.modSt n (fun x =>
          let x := x.countWrr share a both
          let x := { x with ctxTurn := aset 0 x.ctxTurn (4 * share + a.cls) (a.ctx + 1) }
          match s.clsBucket a with
          | some k => x.spendCls k a.cost
          | none => x)
        s.issueAccess n a

/-- The link layer has accepted a send: its slot is free (R133), and a stash all of whose blocks have gone out goes on
(R30 step 6). -/
def Mach.linkAccept (s : Mach) (n acc : Nat) : Mach :=
  match (s.st n).outst.find? (fun a => a.id == acc) with
  | none => s
  | some a =>
    if !s.wentOut n a.hook then s
    else
      let s := s.modSt n (fun x => { x with outst := x.outst.filter (fun b => b.id != acc) })
      match s.task n a.owner with
      | some t =>
        if t.ph == .fail then s.endFailed n t else s.sendsGone n t.id
      | none => s

/-! ## Acknowledgements of the far tier (R352, R355) -/

def Mach.farLinesOut (s : Mach) (n id : Nat) : Bool :=
  s.hs.ops.any (fun o => o.use == .farLine n id) ||
    ((s.st n).acc ++ (s.st n).outst).any (fun a => match a.hook with
      | .farSend t _ => t == id && ((s.st n).acc.any (fun b => b.id == a.id))
      | _ => false)

/-- An access toward the host has its answers: it is over (R133). -/
def Mach.hostAccDone (s : Mach) (n : Nat) (p : Access → Bool) : Mach :=
  s.modSt n (fun x => { x with outst := x.outst.filter (fun a => !(a.share == 3 && p a)) })

/-- A line has its GO: after the last, the last line is read back, as a transfer of channel 5 (R133, R156, R352). -/
def Mach.farLineGo (s : Mach) (n id : Nat) : Mach :=
  match s.task n id with
  | none => s
  | some t =>
    let allSent := t.allCoded && t.blks.all (fun b => b.st == .sent)
    if t.ph != .fail && allSent && !s.farLinesOut n id then
      let o := (t.sealedTotal - 1) / 64 * 64
      s.queueAcc n { share := 3, cls := 1, ctx := t.ctx, chan := 5, owner := id, cost := 0, addr := t.loc + o
                     len := t.sealedTotal - o, hook := .farBack id }
    else s

/-- The blocks of a far write are sent once more, out of their Inn rooms, as transfers of channel 5 (R133, R156, R352). -/
def Mach.resendFar (s : Mach) (n id : Nat) : Mach :=
  match s.task n id with
  | none => s
  | some t =>
    (s.modTask n id (fun t => { t with sendsQueued := 0, blks := t.blks.map (fun b => { b with st := .ready }) })).pushSends n id
      t.blks.length

/-- A far write fails for good: a stash is recalled, a demotion abandoned; FARERR is logged with the host address. -/
def Mach.failFar (s : Mach) (n id addr : Nat) : Mach :=
  match s.task n id with
  | none => s
  | some t =>
    let s := s.logTask n t .farerr 0 0 addr
    if t.kind == .demote then s.abandonDemotion n t else s.recall n id

/-- The read-back of a far write returns (R352). -/
def Mach.farReadBack (s : Mach) (n id : Nat) (data : List Byte) (err : Bool) : Mach :=
  let s := s.hostAccDone n (fun a => a.hook == .farBack id)
  match s.task n id with
  | none => s
  | some t =>
    let total := t.sealedTotal
    let o := (total - 1) / 64 * 64
    if t.ph == .fail then s.endFailed n t
    else if !err && data == (s.farStream t t.blks.length).drop o then
      (s.modTask n id (fun t => { t with blks := t.blks.map (fun b => { b with st := .acked }) })).tierAcked n id
    else if t.readBacks = 0 then (s.modTask n id (fun t => { t with readBacks := 1 })).resendFar n id
    else s.failFar n id (t.loc + o)

/-! ## The commands -/

/-- LINK_LAYER_ACCEPTANCE (R133). -/
def execLinkLayerAcceptance (st acc : Nat) (s : State) : Out :=
  act (.linkLayerAcceptance st acc) s (fun _ m => m.linkAccept st acc)

end Sys2Proof.Machine
end

