-- ==== Sys2Proof/Machine/Waits.lean ====
section
/-!
DEFINITION. What a task waits for (R165) and the cause of a missed deadline (R166).
-/
namespace Sys2Proof.Machine

/-- A fetch that may take no room though it needs one. -/
def Mach.roomWait (s : Mach) (n : Nat) (t : Task) : Bool :=
  (t.wantsRoom && !s.fetchRoomFree n t) ||
    (t.kind == .stash && t.ph == .rooms && decide (s.srooms t.ctx n ≤ (s.st n).roomsUsed t.ctx false)) ||
    (t.kind == .demote && t.pendDone && decide (16 * t.rooms < t.slotsNeeded) &&
      (decide (2 ≤ t.roomsUnsent) || decide (s.srooms t.ctx n ≤ (s.st n).roomsUsed t.ctx false)))

/-- R154, its second case: the class 0 fetches of the context hold a reserve's worth of rooms. -/
def Mach.overReserve (s : Mach) (n : Nat) (t : Task) : Bool :=
  let held := sumNat (((s.st n).tasks.filter (fun u => u.ctx == t.ctx && isFetch u && u.cls == 0)).map Task.roomsHeld)
  t.kind == .fetch && t.cls == 0 && t.wantsRoom && !s.fetchRoomFree n t && decide (roomReserve (s.frooms t.ctx n) ≤ held)

/-- Accesses of a task that wait. -/
def Station.accOf (x : Station) (id : Nat) : List Access := x.acc.filter (fun a => a.owner == id)

/-- An access with a slot lacks share tokens, or class 1 tokens under R155. -/
def Mach.bwWait (s : Mach) (n : Nat) (a : Access) : Bool :=
  let x := s.st n
  x.slotFree a && decide (a.share < 3) &&
    (decide (x.tok a.share < 6 * a.cost) || (a.cls == 1 && match s.clsBucket a with
      | some k => decide (x.clsTok k < 24 * a.cost)
      | none => false))

/-- A class 0 access of the read share lacks class 0 tokens (R154), whatever slot it has (R421). -/
def Mach.c0Wait (s : Mach) (n : Nat) (a : Access) : Bool :=
  a.cls == 0 && a.share == 0 && decide ((s.st n).clsTok 0 < 24 * a.cost)

/-- A transfer of a task waits for a peer or the far tier to answer or to give link credit: a send until it is
acknowledged, a fetch's request or read until its data is in (R164, R280). -/
def Mach.tierWait (s : Mach) (n : Nat) (t : Task) : Bool :=
  (s.st n).outst.any (fun a => a.owner == t.id && a.share == 3) || t.ph == .remote || t.blks.any (fun b => b.st == .sent)

/-- A class 0 fetch of the context of `t` at this station, before it in the order in which they fell due, that has been
counted under C0_OVER (R417). -/
def Station.behindOver (x : Station) (t : Task) : Bool :=
  t.kind == .fetch && t.cls == 0 &&
    x.tasks.any (fun u => u.kind == .fetch && u.cls == 0 && u.ctx == t.ctx && u.c0over && decide (u.id < t.id))

/-- A complete block waits while the port serves another fetch (R138). -/
def Station.deliverWait (x : Station) (t : Task) : Bool :=
  t.deliverable && (match x.nextDelivery with
    | some u => u.id != t.id
    | none => false)

/-- The causes a task waits under, in the order of R166 and then CELLAR_FULL. Under R417 a wait for engine 5, channel 0
slots, rooms or the delivery port counts under C0_OVER too. -/
def Mach.waitCauses (s : Mach) (n : Nat) (t : Task) : List Nat :=
  let x := s.st n
  let acc := x.accOf t.id
  let when_ := fun (b : Bool) (k : Nat) => if b then [k] else []
  let engine := t.ph == .engine && !t.engines.any x.engFree
  let slots := fun (k : Nat) => acc.any (fun a => a.chan == k && !x.slotFree a)
  let slot := (List.range 8).any slots
  let room := s.roomWait n t
  let port := x.deliverWait t
  when_ (t.ph == .waitStash) causeStashWait ++
  when_ engine causeEngineWait ++
  when_ (s.overReserve n t || acc.any (s.c0Wait n) || (x.behindOver t && (engine || slots 0 || room || port))) causeC0Over ++
  when_ room causeRoomWait ++
  when_ slot causeChanWait ++
  when_ (acc.any (s.bwWait n)) causeBwWait ++
  when_ (s.tierWait n t) causeTierWait ++
  when_ port causeDeliverWait ++
  when_ t.waitsSlots causeCellarFull

/-- The previous fetches of a record that a fetch waits behind, the first of the chain in front (R162). -/
def Station.ahead (x : Station) (t : Task) : List Task :=
  x.tasks.filter (fun u => (u.kind == .fetch || u.kind == .dropFetch) && u.ctx == t.ctx && u.stage == t.stage &&
    u.mb == t.mb && u.layer == t.layer && u.tensor == t.tensor && decide (u.fetchNo < t.fetchNo))

/-- R166: the cause of a miss at the tick that makes the fetch late. -/
def Mach.missCause (s : Mach) (n : Nat) (t : Task) : Nat :=
  let u := if t.ph == .waitPrev then (((s.st n).ahead t).head?).getD t else t
  (((s.waitCauses n u).filter (fun k => k != causeCellarFull)).head?).getD causeDeliverWait

end Sys2Proof.Machine
end

