-- ==== Sys2Proof/Machine/Events.lean ====
section
/-!
DEFINITION. Layer-progress events: the event port and queues (R24–R28), their checks (R29, R82, R158), the start of a
step (R17), ticks and due fetches (R158–R163, R166, R167), STEP_END, MB_CANCEL (R60), and a replay step's events (R275).
-/
namespace Sys2Proof.Machine

/-! ## Queues (R26–R28, R370) -/

/-- Posts that wait enter the queue while it has places and the station runs. `fuel` bounds the places. -/
def Station.letIn (x : Station) : Nat → Station
  | 0 => x
  | fuel + 1 =>
    match x.evWait with
    | [] => x
    | e :: es =>
      if x.pwr == .active && decide (x.evq.length < Config.eventQueueDepth) then
        Station.letIn { x with evq := x.evq ++ [e], evWait := es } fuel
      else x

def Mach.letIn (s : Mach) (n : Nat) : Mach := s.modSt n (fun x => x.letIn Config.eventQueueDepth)

/-- A post to a station that is OFF is discarded and counted (R383). -/
def Mach.dropPost (s : Mach) : Mach := { s with shed := { s.shed with dropped := satAdd 16 s.shed.dropped 1 } }

/-- A core's post arrives at the station of its field, which it wakes; it is held while the station sleeps, and discarded
when its context is in ABORTING (R21, R26, R27, R370, R383). -/
def Mach.postEvent (s : Mach) (core : Nat) (w0 w1 : W64) : Mach :=
  let n := fieldOf core
  let e : QEvent := { w0, w1, poster := core }
  if (s.st n).pwr == .off then s.dropPost
  else if (s.st n).pwr == .active && (s.ctx (evCtx w0)).state == .aborting then (s.wakeStation n).discardEvent e
  else ((s.wakeStation n).modSt n (fun x => { x with evWait := x.evWait ++ [e] })).letIn n

/-- A station that has woken discards the posts it has held of contexts in ABORTING (R21). -/
def Mach.discardHeld (s : Mach) (n : Nat) : Mach :=
  let gone := fun (e : QEvent) => (s.ctx (evCtx e.w0)).state == .aborting
  let s' := overList Mach.discardEvent s ((s.st n).evWait.filter gone)
  s'.modSt n (fun x => { x with evWait := x.evWait.filter (fun e => !gone e) })

/-- The context's events are held (R21, R73, R94). -/
def Mach.holdsEvents (s : Mach) (c : Nat) : Bool :=
  let x := s.ctx c
  x.state == .draining || x.state == .boundary || x.state == .aborting || (x.state == .armed && (x.arming || x.exchanging))

/-- Where an event goes on from its arrival station (R26). -/
def Mach.evHome (s : Mach) (e : QEvent) : Option Nat := (s.stageOf (evCtx e.w0) (evStage e.w0)).map (fun g => g.home)

/-! ## Faults (R29, R82, R158): the offending field's byte offset and its value -/

def firstBadField : List (Bool × Nat × Nat) → Option (Nat × Nat)
  | [] => none
  | (b, o, v) :: l => if b then some (o, v) else firstBadField l

/-- Faults that need no stage's state (R26). -/
def Mach.arrivalFault (s : Mach) (e : QEvent) : Option (Nat × Nat) :=
  let k := evKind e.w0
  firstBadField [
    (k == 0 || decide (evMbCancel < k), 0, k),
    (evRsvd0 e.w0 != 0, 6, evRsvd0 e.w0),
    (evRsvd15 e.w1 != 0, 9, evRsvd15 e.w1),
    (evRsvd1 e.w1 != 0, 14, evRsvd1 e.w1),
    (k != evFwdDone && evTensor e.w0 != Config.noTensor, 4, evTensor e.w0),
    ((s.ctx (evCtx e.w0)).state == .idle, 0, evCtx e.w0),
    ((s.stageOf (evCtx e.w0) (evStage e.w0)).isNone, 0, evStage e.w0)]

/-! ## The queue -/

/-- An event held for its context's state or for the power level (R21, R73, R381). -/
def Mach.evHeld (s : Mach) (e : QEvent) : Bool :=
  s.holdsEvents (evCtx e.w0) || (decide (5 ≤ s.level) && evKind e.w0 == evFwdDone)

/-- The other station that an event of arrival station `n` is to be forwarded to (R26). -/
def Mach.evGoes (s : Mach) (n : Nat) (e : QEvent) : Option Nat :=
  if e.fwd || (s.arrivalFault e).isSome then none else (s.evHome e).filter (fun h => h != n)

/-- The event is to be forwarded to a station whose queue is full (R27). -/
def Mach.evHomeFull (s : Mach) (n : Nat) (e : QEvent) : Bool := match s.evGoes n e with
  | some h => decide (Config.eventQueueDepth ≤ (s.st h).evq.length)
  | none => false

/-- An event that the executor of station `n` may not take now (R21, R26, R73, R381). -/
def Mach.evBlocked (s : Mach) (n : Nat) (e : QEvent) : Bool :=
  s.evHeld e || s.evHomeFull n e || match s.evGoes n e with
    | some h => (s.st h).pwr != .active
    | none => false

/-- The events of station `n` that only a full home queue holds back: the first of its core and context (R27, R28). -/
def Mach.forwardWaits (s : Mach) (n : Nat) : List (Nat × Nat) → List QEvent → List QEvent
  | _, [] => []
  | seen, e :: es =>
    let k := (e.poster, evCtx e.w0)
    let rest := s.forwardWaits n (if s.evBlocked n e then k :: seen else seen) es
    if !seen.contains k && !s.evHeld e && s.evHomeFull n e then e :: rest else rest

/-- The home stations whose sleep alone holds back an event of station `n`: each is woken (R26, R370). -/
def Mach.sleepWaits (s : Mach) (n : Nat) : List (Nat × Nat) → List QEvent → List Nat
  | _, [] => []
  | seen, e :: es =>
    let k := (e.poster, evCtx e.w0)
    let rest := s.sleepWaits n (if s.evBlocked n e then k :: seen else seen) es
    match s.evGoes n e with
    | some h =>
      if !seen.contains k && !s.evHeld e && !s.evHomeFull n e && (s.st h).pwr != .active then h :: rest else rest
    | none => rest

/-- The first event that may be taken, with its place: one behind a blocked event of its core and context may not. -/
def pickEvent (blocked : QEvent → Bool) : List (Nat × Nat) → Nat → List QEvent → Option (Nat × QEvent)
  | _, _, [] => none
  | seen, i, e :: es =>
    let k := (e.poster, evCtx e.w0)
    if seen.contains k || blocked e then pickEvent blocked (k :: seen) (i + 1) es else some (i, e)

def Mach.nextEvent (s : Mach) (n : Nat) : Option (Nat × QEvent) :=
  if (s.st n).pwr == .active then pickEvent (s.evBlocked n) [] 0 (s.st n).evq else none

/-- Takes the event at place `i` out of the queue. -/
def Mach.unqueue (s : Mach) (n i : Nat) : Mach := (s.modSt n (fun x => { x with evq := x.evq.eraseIdx i })).letIn n

/-! ## Faults found at the home station (R29, R82, R158) -/

/-- The entry a FWD_DONE names. -/
def Mach.evEntry (s : Mach) (e : QEvent) : Option (Nat × Entry) :=
  (s.plan (evCtx e.w0)).bind (fun p => p.entry (evStage e.w0) (evLayer e.w0) (evTensor e.w0))

/-- R29's faults that the home station judges. -/
def Mach.homeFault (s : Mach) (g : StageEntry) (e : QEvent) : Option (Nat × Nat) :=
  let fwd := evKind e.w0 == evFwdDone
  let x := s.stage (evCtx e.w0) (evStage e.w0)
  let core := evCore e.w1
  firstBadField [
    (decide (g.nlayer ≤ evLayer e.w0), 2, evLayer e.w0),
    (decide (g.mbslots ≤ evMb e.w0), 1, evMb e.w0),
    (fwd && (s.evEntry e).isNone, 4, evTensor e.w0),
    (decide (Config.nCore ≤ core) || core != e.poster, 8, core),
    (fwd && !g.hasCore core, 8, core),
    (!fwd && core != g.leadCore, 8, core),
    (fwd && (x.find (evMb e.w0) (evLayer e.w0) (evTensor e.w0)).isSome, 4, evTensor e.w0),
    (x.ended, 0, evKind e.w0)]

/-- R82. An event of a bucketed entry whose RUNLEN is above the last BOUND is judged for its extent by the program of the
last bucket (DESIGN CHOICE, log entry 115). -/
def Mach.fwdFault (s : Mach) (g : StageEntry) (e : QEvent) : Option (Nat × Nat) :=
  match s.plan (evCtx e.w0), s.evEntry e with
  | some p, some (_, en) =>
    let base := evSramBase e.w1
    let rl := evRunLen e.w1
    let full := p.fullLen g.home en
    let tooLong := rl != 0xFFFF && decide (full < rl)
    let prog := (p.stashProg g.home en (if tooLong then 0xFFFF else rl)).1
    let ext := extentOf en.src ((p.progNode g.home prog).items none)
    let run := en.disp != .drop
    firstBadField [
      (base % 16 != 0, 12, base),
      (run && decide ((Config.sramBytes : Int) < base + ext), 12, base),
      (run && tooLong, 10, rl)]
  | _, _ => none

/-- R158. -/
def Mach.tickFault (s : Mach) (e : QEvent) : Option (Nat × Nat) :=
  let last := aget 0 (s.stage (evCtx e.w0) (evStage e.w0)).lastTick (evMb e.w0)
  firstBadField [(last != 0 && decide (last - 1 ≤ evLayer e.w0), 2, evLayer e.w0)]

/-- A faulty event is discarded and logged (R29). -/
def Mach.logEvent (s : Mach) (n : Nat) (e : QEvent) (f : Nat × Nat) : Mach :=
  s.logv { status := .violEvent, src := srcStation, unit := n, ctx := some (evCtx e.w0), foff := f.1, value := f.2
           tensor := evTensor e.w0, stage := evStage e.w0, mb := evMb e.w0, core := e.poster, layer := evLayer e.w0 }

/-! ## The step begins (R17, R259, R272) -/

/-- The first accepted event of an ARMED context begins its step. -/
def Mach.beginStep (s : Mach) (c : Nat) : Mach :=
  if (s.ctx c).state != .armed then s
  else
    let s := s.modCtx c (fun x => { x with
      state := .running, replaying := x.replayReq, replayReq := false
      lostTiers := x.lostTiers.filter (fun t => !x.regained.contains t), regained := []
      histOn := W64.bits x.act.telCtl 1 1 == 1, histLo := W64.bits x.act.telCtl 15 8, histMask := x.act.histMask })
    (s.histPartial c).beginCapture c

/-- T_FIRST, and SLOW from there (R261, R263). -/
def Mach.stampFirst (s : Mach) (n c g : Nat) : Mach :=
  let x := s.st n
  s.modStage c g (fun y =>
    if y.begun then y
    else { y with begun := true, stats := { y.stats with tFirst := x.sclk, slowFirst := x.slow } })

/-- An event that has passed its checks: the step may begin with it. -/
def Mach.accepted (s : Mach) (n : Nat) (e : QEvent) : Mach :=
  (s.beginStep (evCtx e.w0)).stampFirst n (evCtx e.w0) (evStage e.w0)

/-- An event's words are read from its queue (R395): a single-bit error is corrected and logged, and an event with a
double-bit error is logged and discarded (DESIGN CHOICE, log entry 118). `gone` is what follows a context's discarded event
(R17). -/
def Mach.readQueue (s : Mach) (n i : Nat) (e : QEvent) (gone : Mach → Nat → Mach) (go : Mach → Mach) : Mach :=
  let note := fun (s : Mach) kind => s.logv { status := .innerr, src := srcStation, unit := n, kind, core := e.poster }
  match e.ecc with
  | .clean => go s
  | .single => go (note s 0)
  | .double => gone (note (s.unqueue n i) 1) (evCtx e.w0)

/-- Takes the next event of station `n` if it has this kind and is for this station: faulty events are discarded and
logged, others are handed on. An event that has been forwarded is taken here, also where an exchange has moved its stage's
home since (DESIGN CHOICE, log entry 128). -/
def Mach.takeEvent (s : Mach) (n kind : Nat) (gone : Mach → Nat → Mach)
    (more : Mach → StageEntry → QEvent → Option (Nat × Nat)) (f : Mach → StageEntry → QEvent → Mach) : Mach :=
  match s.nextEvent n with
  | none => s
  | some (i, e) =>
    if evKind e.w0 != kind then s
    else
      let discard := fun (s : Mach) bad => gone (s.logEvent n e bad) (evCtx e.w0)
      match s.arrivalFault e, s.stageOf (evCtx e.w0) (evStage e.w0) with
      | some bad, _ => s.readQueue n i e gone (fun s => discard (s.unqueue n i) bad)
      | none, none => s
      | none, some g =>
        if !e.fwd && g.home != n then s
        else s.readQueue n i e gone (fun s =>
          let s := s.unqueue n i
          match s.homeFault g e with
          | some bad => discard s bad
          | none =>
            match more s g e with
            | some bad => discard s bad
            | none => f s g e)

/-! ## EVENT_FORWARD -/

/-- The next event goes to its home station's queue, or is discarded here (R26). -/
def Mach.forwardEvent (s : Mach) (n : Nat) (gone : Mach → Nat → Mach) : Mach :=
  match s.nextEvent n with
  | none =>
    if (s.st n).pwr == .active then overList (fun s h => s.wakeStation h) s (s.sleepWaits n [] (s.st n).evq) else s
  | some (i, e) =>
    if e.fwd then s
    else
      match s.arrivalFault e, s.evHome e with
      | some bad, _ => s.readQueue n i e gone (fun s => gone ((s.unqueue n i).logEvent n e bad) (evCtx e.w0))
      | none, some h =>
        if h = n then s
        else s.readQueue n i e gone (fun s =>
          ((s.unqueue n i).wakeStation h).modSt h (fun x => { x with evq := x.evq ++ [{ e with fwd := true, ecc := .clean }] }))
      | none, none => s

/-! ## FWD_DONE -/

def Mach.cancelledSlot (s : Mach) (c g mb : Nat) : Bool := (s.stage c g).cancelled.contains mb

/-- R60's discard comes before the checks of R82. -/
def Mach.fwdMore (s : Mach) (g : StageEntry) (e : QEvent) : Option (Nat × Nat) :=
  if s.cancelledSlot (evCtx e.w0) (evStage e.w0) (evMb e.w0) then none else s.fwdFault g e

/-- An accepted FWD_DONE; in a replay step and for a cancelled slot it is discarded and counted (R60, R275). -/
def Mach.fwdDone (s : Mach) (n : Nat) (e : QEvent) : Mach :=
  let c := evCtx e.w0
  let g := evStage e.w0
  if s.cancelledSlot c g (evMb e.w0) then s.addDiscarded c g
  else
    let s := s.accepted n e
    let s := s.modStats c g (fun x => { x with tFwdLast := (s.st n).sclk })
    if (s.ctx c).replaying then s.addDiscarded c g
    else
      match s.evEntry e with
      | some (i, en) => s.acceptFwd n e i en
      | none => s

/-! ## BWD_TICK -/

/-- Tier a record has, or that its entry plans (R167). -/
def plannedTier : Disp → Nat
  | .keep => 0 | .husk => 0 | .lodge => 1 | .far => 2 | .drop => 3

def Mach.tierNow (s : Mach) (c g mb : Nat) (en : Entry) : Nat :=
  match (s.stage c g).find mb en.layer en.tensor with
  | some (_, r) => if r.stashing && r.rc.state == .free then plannedTier en.disp else r.rc.tier
  | none => plannedTier en.disp

/-- Extra lead of a home station and tier (R163). -/
def Ctx.lead (x : Ctx) (n tier : Nat) : Nat :=
  if tier = 1 ∨ tier = 2 then (aget (0, 0) x.extra (2 * n + tier - 1)).1 else 0

/-- A fetch that falls due: entry, its index, and which fetch. -/
structure DueFetch where
  ent : Nat
  entry : Entry
  no : Nat
  tier : Nat

/-- The fetches of a slot that the tick of layer `t` makes due (R159). -/
def Mach.dueAt (s : Mach) (n c g mb t : Nat) : List DueFetch :=
  match s.plan c, s.stageOf c g with
  | some p, some sg =>
    let x := s.stage c g
    if x.cancelled.contains mb then []
    else
      (((List.range p.entries.length).zip p.entries).filter (fun q => q.2.stage == g)).flatMap (fun q =>
        let tier := s.tierNow c g mb q.2
        let e := (s.ctx c).lead n tier
        ((List.range q.2.consume.length).filter (fun j =>
          decide (t ≤ dueTickOf sg.nlayer ((q.2.consume[j]?).getD 0) q.2.lead e) && !x.due.contains (mb, q.1, j))).map
          (fun j => { ent := q.1, entry := q.2, no := j, tier }))
  | _, _ => []

def tierRank (t : Nat) : Nat := if t = 2 then 0 else if t = 1 then 1 else 2

/-- R160's order. A DROP record ranks with the Cellar, and fetches that tie beyond the tensor id keep the order of their
plan entries (DESIGN CHOICE, log entry 113). -/
def dueBefore (a b : DueFetch) : Bool :=
  let c := fun (d : DueFetch) => (d.entry.consume[d.no]?).getD 0
  if a.entry.cls != b.entry.cls then decide (a.entry.cls < b.entry.cls)
  else if tierRank a.tier != tierRank b.tier then decide (tierRank a.tier < tierRank b.tier)
  else if c a != c b then decide (c b < c a)
  else decide (a.entry.tensor < b.entry.tensor)

def insertDue (d : DueFetch) : List DueFetch → List DueFetch
  | [] => [d]
  | e :: es => if dueBefore d e then d :: e :: es else e :: insertDue d es

def sortDue (l : List DueFetch) : List DueFetch := l.foldl (fun acc d => insertDue d acc) []

/-- A fetch task, as it starts (R94, R448). -/
def Mach.newFetch (s : Mach) (n c g mb tick : Nat) (ent : Nat) (en : Entry) (no cls : Nat) : Task × Mach :=
  let p := s.freshId n
  ({ id := p.1, kind := if en.disp == .drop then .dropFetch else .fetch, ph := .waitStash, ctx := c, stage := g, mb
     layer := en.layer, tensor := en.tensor, ent, entry := en, fetchNo := no, consume := (en.consume[no]?).getD 0, cls
     dueTick := tick, cfg := (s.ctx c).act.taskCfg g en.layer en.tensor }, p.2)

/-- A due fetch starts (R52). -/
def Mach.startFetch (s : Mach) (n c g mb tick : Nat) (d : DueFetch) : Mach :=
  let p := s.newFetch n c g mb tick d.ent d.entry d.no d.entry.cls
  let s := p.2.modSt n (fun x => { x with tasks := x.tasks ++ [p.1] })
  let s := s.modStage c g (fun x => { x with due := x.due ++ [(mb, d.ent, d.no)] })
  s.issueFetch n p.1.id

/-- The replay fetch of FETCH item `i` of a part becomes a task; it waits for the fetches logged ahead of it (R275). -/
def Mach.addReplay (s : Mach) (n c g mb tick no cls i off dataLen ledger : Nat) (rc : Rec) : Mach :=
  match (s.plan c).bind (fun p => p.entry g rc.layer rc.tensor) with
  | none => s
  | some (ent, en) =>
    let p := s.newFetch n c g mb tick ent en no cls
    let t : Task := { p.1 with ph := .waitPrev, replayRec := some (off, dataLen), replayIx := i + 1, loc := ledger, rc }
    p.2.modSt n (fun x => { x with tasks := x.tasks ++ [t] })

/-- The task of FETCH item `i` of a part. -/
def Station.replayOf (x : Station) (c i : Nat) : Option Task :=
  x.tasks.find? (fun t => t.ctx == c && t.replayIx == i + 1)

/-- A FETCH item whose logged LAYER its slot's ticks have reached becomes a task, once in the step (R275). -/
def Mach.replayDue (s : Mach) (n c tick i : Nat) : Mach :=
  let items := aget [] (s.ctx c).reserve.items n
  match items[i]? with
  | some (.fetch g mb layer no cls ref) =>
    let last := aget 0 (s.stage c g).lastTick mb
    if decide (i < aget 0 (s.ctx c).replayPtr n) || ((s.st n).replayOf c i).isSome || s.cancelledSlot c g mb || last = 0 ||
        layer < last - 1 then s
    else
      match items.find? (fun it => match it with
          | .recd _ _ _ _ off _ _ _ => off == ref
          | _ => false) with
      | some (.recd _ _ _ ledger off dataLen _ rc) => s.addReplay n c g mb tick no cls i off dataLen ledger rc
      | _ => s
  | _ => s

/-- The part's FETCH items whose ticks have come become tasks, and those that no item ahead holds back start with the read
of their record copies, in their logged order (R275); a fetch behind its record's previous fetch holds those after it
(R162). `fuel` bounds the items. -/
def Mach.replayStart (s : Mach) (n c : Nat) : Nat → Mach
  | 0 => s
  | fuel + 1 =>
    let x := s.ctx c
    let i := aget 0 x.replayPtr n
    let next := fun (s : Mach) => s.modCtx c (fun x => { x with replayPtr := aset 0 x.replayPtr n (i + 1) })
    match (aget [] x.reserve.items n)[i]? with
    | none => s
    | some (.recd _ _ _ _ _ _ _ _) => Mach.replayStart (next s) n c fuel
    | some (.fetch g mb layer _ _ _) =>
      let last := aget 0 (s.stage c g).lastTick mb
      match (s.st n).replayOf c i with
      | some t =>
        if (s.st n).behind t then s
        else
          let s := (next s).modTask n t.id (fun t => { t with ph := .recRead })
          Mach.replayStart (s.queueAcc n { share := 0, cls := t.cls, ctx := c, chan := 8, owner := t.id, cost := 64
                                           addr := s.partBase c n + (t.replayRec.getD (0, 0)).1 + 64, len := 64
                                           hook := .recRead t.id }) n c fuel
      | none =>
        if !s.cancelledSlot c g mb && (last = 0 || decide (layer < last - 1)) then s
        else Mach.replayStart (next s) n c fuel

/-- What a tick of a replay step issues (R275). -/
def Mach.replayIssue (s : Mach) (n c tick : Nat) : Mach :=
  let k := (aget [] (s.ctx c).reserve.items n).length
  (overList (fun s i => s.replayDue n c tick i) s (List.range k)).replayStart n c (k + 1)

/-- The replay fetches that no further tick can issue end as R61 ends a fetch that was not issued (DESIGN CHOICE, log
entry 121). -/
def Mach.dropReplays (s : Mach) (c : Nat) : Mach :=
  overList (fun s n => Mach.overTasks n (fun s t =>
    if t.ctx == c && t.replayIx != 0 && t.ph == .waitPrev then s.dropTask n t.id else s) s) s (List.range 6)

/-- Body of a DLMISS report (R346). -/
def missBody (t : Task) (tier cause : Nat) (step sclk : Nat) : List Byte :=
  leBytes 8 (wordN [(t.ctx, 0), (t.stage, 2), (t.mb, 8), (t.consume, 14), (t.tensor, 30), (tier, 50), (cause, 52)]) ++
    leBytes 8 step ++ leBytes 8 sclk

/-- A fetch that this tick makes late (R161, R163, R166, R167). One that is served from the rooms that still hold its blocks,
or from the replay reserve, is no fetch from a tier. -/
def Mach.makeLate (s : Mach) (n : Nat) (t : Task) : Mach :=
  let cause := s.missCause n t
  let tier := match t.fill.bind (s.recInfo t.ctx t.stage) with
    | some r => if r.stashing && r.rc.state == .free then plannedTier t.entry.disp else r.rc.tier
    | none => if t.replayRec.isSome then t.rc.tier else plannedTier t.entry.disp
  let s := s.modTask n t.id (fun t => { t with late := some cause })
  let s := s.modStats t.ctx t.stage (fun x => { x with miss := amod 0 x.miss cause (satAdd 32 1) })
  let s :=
    if (tier = 1 ∨ tier = 2) && t.replayRec.isNone && !t.fromRooms then
      s.modCtx t.ctx (fun x => { x with extra := amod (0, 0) x.extra (2 * n + tier - 1) (fun p =>
        (if cause = causeTierWait then min (p.1 + 1) 4 else p.1, 0)) })
    else s
  if t.cfg.rt && decide ((s.ctx t.ctx).dlPosted < 256) then
    let s := s.modCtx t.ctx (fun x => { x with dlPosted := x.dlPosted + 1 })
    let s := s.modStats t.ctx t.stage (fun x => { x with dlPost := satAdd 32 x.dlPost 1 })
    s.postReport t.ctx .dlmiss (missBody t tier cause (s.ctx t.ctx).step.toNat (s.st n).sclk)
  else s

/-- Fetches of the slot that are not complete at their consuming tick. -/
def Mach.judgeLate (s : Mach) (n c g mb layer : Nat) : Mach :=
  Mach.overTasks n (fun s t =>
    if (t.kind == .fetch || t.kind == .dropFetch) && t.ctx == c && t.stage == g && t.mb == mb && t.late.isNone &&
        t.ph != .fail && decide (layer ≤ t.consume) then s.makeLate n t
    else s) s

def Mach.bwdTick (s : Mach) (n : Nat) (e : QEvent) : Mach :=
  let c := evCtx e.w0
  let g := evStage e.w0
  let mb := evMb e.w0
  let t := evLayer e.w0
  let s := s.accepted n e
  let s := if (s.stage c g).lastTick.isEmpty then s.modStats c g (fun x => { x with tBwdFirst := (s.st n).sclk }) else s
  let s := s.modStage c g (fun x => { x with lastTick := aset 0 x.lastTick mb (t + 1) })
  let s :=
    if (s.ctx c).replaying then s.replayIssue n c t
    else overList (fun s d => s.startFetch n c g mb t d) s (sortDue (s.dueAt n c g mb t))
  s.judgeLate n c g mb t

/-! ## STEP_END -/

/-- R33, R53: what still waits for a FWD_DONE of the stage ends. -/
def Mach.endWaits (s : Mach) (n c g : Nat) : Mach :=
  Mach.overTasks n (fun s t =>
    if t.ctx == c && t.stage == g then
      match t.kind, t.ph with
      | .dropWait, .waitCkpt => s.dropLost n t
      | .fetch, .waitStash => if t.fill.isNone then s.failFetch n t .reclost 0 0 else s
      | .dropFetch, .waitStash => if t.fill.isNone then s.failFetch n t .reclost 0 0 else s
      | _, _ => s
    else s) s

/-- Every stage of the plan has posted STEP_END. -/
def Mach.allEnded (s : Mach) (c : Nat) : Bool :=
  match s.plan c with
  | some p => p.stages.all (fun e => (s.stage c e.stage).ended)
  | none => false

def Mach.stepEnd (s : Mach) (n : Nat) (e : QEvent) : Mach :=
  let c := evCtx e.w0
  let g := evStage e.w0
  let s := s.accepted n e
  let s := s.modStage c g (fun x => { x with ended := true, stats := { x.stats with tEnd := (s.st n).sclk } })
  let s := s.endWaits n c g
  if (s.ctx c).state == .running && s.allEnded c then (s.dropReplays c).modCtx c (fun x => { x with state := .draining }) else s

/-! ## MB_CANCEL -/

/-- R60 for one task of the slot. -/
def Mach.cancelTask (s : Mach) (n : Nat) (t : Task) : Mach :=
  match t.kind, t.ph with
  | .fetch, .waitStash => s.dropTask n t.id
  | .fetch, .waitPrev => s.dropTask n t.id
  | .dropFetch, _ => s.dropTask n t.id
  | .fetch, _ => s.cancelFetch n t
  | _, _ => s

def Mach.mbCancel (s : Mach) (n : Nat) (e : QEvent) : Mach :=
  let c := evCtx e.w0
  let g := evStage e.w0
  let mb := evMb e.w0
  let s := s.accepted n e
  let s := s.modStage c g (fun x => { x with
    cancelled := if x.cancelled.contains mb then x.cancelled else x.cancelled ++ [mb] })
  let s := s.dropTickets (fun k => k.ctx == c && k.stage == g && k.mb == mb)
  let s := Mach.overTasks n (fun s t => if t.ctx == c && t.stage == g && t.mb == mb then s.cancelTask n t else s) s
  -- the fetches that stood behind those of the slot in a replay step's order
  if (s.ctx c).replaying then s.replayStart n c ((aget [] (s.ctx c).reserve.items n).length + 1) else s

/-! ## Late tiers and stall thresholds -/

/-- R163: 64 fetches on time in a row lower the extra lead. -/
def Mach.leadDown (s : Mach) (c n tier : Nat) : Mach :=
  s.modCtx c (fun x => { x with extra := amod (0, 0) x.extra (2 * n + tier - 1) (fun p =>
    if 64 ≤ p.2 then (p.1 - 1, p.2 - 64) else p) })

/-- R168: a cause that has fallen due is raised once for its stage in the step. -/
def Mach.stallCheck (s : Mach) (c g k : Nat) : Mach :=
  if (s.stage c g).stallDue.contains k then
    let s := s.modStage c g (fun y => { y with
      stallDue := y.stallDue.filter (fun j => j != k), stallRaised := y.stallRaised ++ [k] })
    (s.modCtx c (fun x => { x with lastCause := k, lastStage := g })).raiseCtx c irqStall
  else s

/-! ## The commands -/

/-- EVENT_POST (R24–R27). -/
def execEventPost (core : Nat) (w0 w1 : W64) (s : State) : Out :=
  act (.eventPost core w0 w1) s (fun _ m => m.postEvent core w0 w1)

/-- EXTRA_LEAD_DECREASE (R163). -/
def execExtraLeadDecrease (c st tier : Nat) (s : State) : Out :=
  act (.extraLeadDecrease c st tier) s (fun _ m => m.leadDown c st tier)

/-- STALL_THRESHOLD (R168). -/
def execStallThreshold (c stage cause : Nat) (s : State) : Out :=
  act (.stallThreshold c stage cause) s (fun _ m => m.stallCheck c stage cause)

/-- DEFERRED_FETCH_ISSUE (R162): in a replay step the part goes on in its logged order (R275). -/
def execDeferredFetchIssue (st task : Nat) (s : State) : Out :=
  act (.deferredFetchIssue st task) s (fun _ m =>
    match m.task st task with
    | some t =>
      if !((t.kind == .fetch || t.kind == .dropFetch) && t.ph == .waitPrev && !(m.st st).behind t) then m
      else if t.replayIx == 0 then m.issueFetch st task
      else m.replayStart st t.ctx ((aget [] (m.ctx t.ctx).reserve.items st).length + 1)
    | none => m)

end Sys2Proof.Machine
end

