-- ==== Sys2Proof/Machine/RegFile.lean ====
section
/-!
DEFINITION. What every register reads as (R422–R425, R429–R446, R373, R374, R382, R399), and the read latch of R424.
-/
namespace Sys2Proof.Machine

/-! ## Fields from the rest of the machine -/

def CtxState.code : CtxState → Nat
  | .idle => 0 | .armed => 1 | .running => 2 | .draining => 3 | .boundary => 4 | .aborting => 5

def RingState.code : RingState → Nat
  | .disabled => 0 | .running => 1 | .halted => 2

def AttState.code : AttState → Nat
  | .attached => 0 | .holding => 1 | .detached => 2

def PwrState.code : PwrState → Nat
  | .active => 0 | .clockGated => 1 | .powerGated => 2 | .waking => 3 | .off => 4

/-- Fields of one kind for the numbers below `n`. -/
def fieldsOf (n : Nat) (f : Nat → Nat × Nat) : W64 := word ((List.range n).map f)

/-- Plans of the active and shadow slots of a context. -/
def Ctx.bothPlans (x : Ctx) : List Plan := x.act.plan.toList ++ x.shd.plan.toList

/-- A key slot that a plan of a context that is not IDLE names (R199). -/
def Mach.keyInUse (s : Mach) (k : Nat) : Bool :=
  (List.range 4).any (fun c => (s.ctx c).state != .idle && (s.ctx c).bothPlans.any (fun p => p.tiers.any (fun t => t.keySlot == k)))

def Mach.keyLoaded (s : Mach) (k : Nat) : Bool := (aget none s.keys k).isSome

/-- Some context holds a device as lost (R436). -/
def Mach.holdsLost (s : Mach) (d : Nat) : Bool :=
  (List.range 4).any (fun c => match s.plan c with
    | none => false
    | some p => (s.ctx c).lostTiers.any (fun t => !(s.ctx c).regained.contains t && faDev (p.tier t).base == d))

def capsWord (devid : Nat) : W64 :=
  word [(0x42, 56), (devid, 48), (Config.nCtx, 44), (Config.nKey, 40), (Config.nChan, 32), (64, 24), (16, 16),
    (Config.nStation, 12), (Config.nRoom, 0)]

def Mach.pwrStat (s : Mach) : W64 := fieldsOf 6 (fun n => ((s.st n).pwr.code, 4 * n))

def Mach.shedStat (s : Mach) : W64 :=
  let h := s.shed
  word [(h.offCount, 48), (h.dropped, 32), (h.sample, 24), (b2n h.off, 23), (h.maxLevel, 8), (h.level, 0)]

def VLog.ptr (l : VLog) : W64 := word [(l.lost, 48), (l.wr % 65536, 32), (l.rd, 0)]

def Mach.swapStat (s : Mach) : W64 :=
  word ((List.range 4).flatMap (fun c =>
    let x := s.ctx c
    [(x.swapLast.code, 16 * c + 8), (b2n x.swapDone, 16 * c + 4)] ++
    match x.swap with
    | none => []
    | some w => [(b2n w.exchanging, 16 * c + 3), (b2n w.plan, 16 * c + 2), (b2n w.immediate, 16 * c + 1), (1, 16 * c)]))

def Mach.glStat (s : Mach) (w : Nat) : W64 :=
  if w = 0 then
    fieldsOf 12 (fun l => ((s.link l).st, 2 * l)) ||| fieldsOf 8 (fun d => (b2n (s.holdsLost d), 32 + d)) |||
      fieldsOf 8 (fun d => (b2n (s.peer d).haltd, 40 + d))
  else fieldsOf 12 (fun l => (if (s.link l).st = 2 then (s.link l).dev else 0, 4 * l))

def Mach.hostStat (s : Mach) (w : Nat) : W64 :=
  let h := s.hs
  if w = 0 then
    word [(h.heldDrop, 16), (b2n h.reattach, 10), (b2n h.hostReset, 9), (b2n h.portChg, 8), (b2n h.portUp1, 3),
      (b2n h.portUp0, 2), (h.att.code, 0)] ||| fieldsOf 4 (fun c => (b2n (s.ctx c).farLost, 32 + c))
  else if w = 1 then fieldsOf 4 (fun c => (aget 0 h.lostRpt c, 16 * c))
  else if w = 2 then fieldsOf 4 (fun c => (aget 0 h.farFullCnt c, 16 * c))
  else 0

/-- The entry in slot SEL. -/
def VLog.win (l : VLog) (w : Nat) : W64 :=
  match l.slots.find? (fun p => p.1 == l.sel) with
  | none => 0
  | some p => BitVec.ofNat 64 (rdNat (vEntryBytes p.2) (8 * w) 8)

/-- The step counter that STEP0 of the active plan gives (R65): all ones keep it, but on a context's first arm since reset
set it to 0 (R73, R454). -/
def Mach.step0 (s : Mach) (c : Nat) (arm : Bool) : W64 :=
  let x := s.ctx c
  match s.plan c with
  | none => x.step
  | some p => if p.glob.step0 != 0xFFFFFFFFFFFFFFFF then p.glob.step0 else if arm && !x.armedOnce then 0 else x.step

/-- The step counter as UZ_CTX_STAT shows it: of a context shown ARMED it is the number of the next step, the one that
an arm under way is about to set among them (R445). -/
def Mach.stepShown (s : Mach) (c : Nat) : W64 := if (s.ctx c).arming then s.step0 c true else (s.ctx c).step

def Mach.ctxStat (s : Mach) (c w : Nat) : W64 :=
  let x := s.ctx c
  if w = 0 then
    word [(x.lastCause, 24), (x.lastStage, 16), ((x.abortSt.map Status.code).getD 0, 8), (b2n (x.replayReq || x.replaying), 6),
      (b2n x.shd.plan.isSome, 5), (b2n x.act.plan.isSome, 4), (x.state.code, 0)]
  else s.stepShown c

def Mach.trapWord (s : Mach) (c w : Nat) : W64 := BitVec.ofNat 64 (rdNat (trapBytes (s.ctx c).trap) (8 * w) 8)

/-- Area bytes that a plan requires (R444). -/
def Plan.telNeed (p : Plan) : Nat := 0x12000 + 128 * p.entries.length

def Mach.telStat (s : Mach) (c : Nat) : W64 :=
  word [(((s.plan c).map Plan.telNeed).getD 0, 32), ((s.ctx c).tel.st, 0)]

def Mach.rplStat (s : Mach) (c : Nat) : W64 :=
  let r := (s.ctx c).reserve
  let code := match r.state with
    | .empty => 0 | .capturing => 1 | .valid => 2 | .frozen => 3 | .invalid => 4
  word [(if r.state == .empty then 0 else r.step.toNat % 2 ^ 32, 32), (b2n r.copying, 5), (b2n r.aborted, 4),
    (b2n r.badRegion, 3), (code, 0)]

def Mach.chanStat (s : Mach) (n : Nat) : W64 :=
  let k := s.chan n
  word [(b2n k.pend, 63), (k.status.code, 48), (k.count, 32), (k.residue, 0)]

/-- A base register's halves (R438). -/
def baseLo (a : Nat) : W64 := BitVec.ofNat 64 (a % 2 ^ 32)
def baseHi (a : Nat) : W64 := BitVec.ofNat 64 (a / 2 ^ 32)

def ringStat0 (st : RingState) (halt : Status) (inflight : Nat) (dispend : Bool) : W64 :=
  word [(if st == .halted then halt.code else 0, 16), (inflight, 8), (b2n dispend, 2), (st.code, 0)]

/-- Word at block offset `x` of command ring `n` (R430). -/
def Mach.ringWord (s : Mach) (n x : Nat) : W64 :=
  let r := s.ring n
  match x with
  | 0x00 => baseLo r.base
  | 0x08 => baseHi r.base
  | 0x10 => BitVec.ofNat 64 r.log2
  | 0x18 => baseLo r.cqBase
  | 0x20 => baseHi r.cqBase
  | 0x30 => ringStat0 r.state r.haltSt r.descs.length r.dispend
  | 0x38 => word [(r.cqProd, 32), (r.cons, 0)]
  | _ => 0

/-- Word at block offset `x` of the report ring of a context. -/
def Mach.rptWord (s : Mach) (c x : Nat) : W64 :=
  let r := s.rpt c
  match x with
  | 0x00 => baseLo r.base
  | 0x08 => baseHi r.base
  | 0x10 => BitVec.ofNat 64 r.log2
  | 0x30 => ringStat0 r.state r.haltSt 0 r.dispend
  | 0x38 => BitVec.ofNat 64 r.prod
  | _ => 0

/-- Word at block offset `x` of a configuration set block (R431, R446). -/
def ConfigSet.word (k : ConfigSet) (x : Nat) : W64 :=
  match x with
  | 0x000 => k.ctxCtl
  | 0x008 => k.sentCtl
  | 0x010 => k.rplCtl
  | 0x018 => k.telCtl
  | 0x020 => k.histMask
  | 0x028 => k.scaleCtl
  | 0x030 => k.telBase
  | 0x038 => k.telSize
  | 0x040 => k.rplBase
  | 0x048 => k.rplSize
  | 0x050 => BitVec.ofNat 64 ((k.plan.map (fun p => faLocal p.addr)).getD 0)
  | 0x058 => match k.plan with
    | none => 0
    | some p => Machine.word [(1, 32), (p.crc.toNat, 0)]
  | _ =>
    if 0x80 ≤ x ∧ x < 0xC0 then
      let i := (x - 0x80) / 4
      Machine.word [((aget 0 k.stallThr i).toNat, 0), ((aget 0 k.stallThr (i + 1)).toNat, 32)]
    else if 0x800 ≤ x ∧ x < 0x1000 then aget 0 k.sentTab ((x - 0x800) / 8)
    else 0

/-- The register words below 0x200 and the per-context status registers. -/
def Mach.gateWord (s : Mach) (a : Nat) : W64 :=
  match a with
  | 0x00 => capsWord s.devid
  | 0x08 => BitVec.ofNat 64 s.aclk
  | 0x10 => s.regs.testCtl
  | 0x18 => s.regs.irqStat
  | 0x20 => s.regs.bwGrant
  | 0x28 => s.regs.bwSplit
  | 0x30 => s.regs.pwrCtl
  | 0x38 => s.pwrStat
  | 0x40 => s.regs.shedThr
  | 0x48 => s.regs.shedCtl
  | 0x50 => s.shedStat
  | 0x58 => s.regs.glCtl
  | 0x60 => s.regs.glEpoch
  | 0x68 => s.regs.glTmo
  | 0x78 => s.regs.hostTmo
  | 0x80 => s.vlog.ptr
  | 0x88 => word [(s.vlog.mark, 16), (s.vlog.sel, 0)]
  | 0x90 => s.regs.chanIen
  | 0xA8 => fieldsOf 4 (fun k => (b2n (s.keyInUse k), 8 + k)) ||| fieldsOf 4 (fun k => (b2n (s.keyLoaded k), k))
  | 0xB0 => s.swapStat
  | _ =>
    if 0xC0 ≤ a ∧ a < 0xD0 then s.glStat ((a - 0xC0) / 8)
    else if 0xE0 ≤ a ∧ a < 0x100 then s.hostStat ((a - 0xE0) / 8)
    else if 0x140 ≤ a ∧ a < 0x180 then s.vlog.win ((a - 0x140) / 8)
    else if 0x200 ≤ a ∧ a < 0x240 then s.ctxStat ((a - 0x200) / 16) (a / 8 % 2)
    else if 0x240 ≤ a ∧ a < 0x2C0 then s.trapWord ((a - 0x240) / 32) ((a - 0x240) / 8 % 4)
    else if 0x2C0 ≤ a ∧ a < 0x2E0 then s.telStat ((a - 0x2C0) / 8)
    else if 0x2E0 ≤ a ∧ a < 0x300 then s.rplStat ((a - 0x2E0) / 8)
    else if 0x400 ≤ a ∧ a < 0x580 then s.chanStat ((a - 0x400) / 8)
    else 0

/-- The word at an 8 B aligned offset of the window, as it reads without the latch; a reserved word reads 0 (R422). -/
def Mach.regWord (s : Mach) (a : Nat) : W64 :=
  if a < 0x800 then s.gateWord a
  else if a < 0xC00 then s.ringWord ((a - 0x800) / 64) (a % 64)
  else if a < 0xD00 then s.rptWord ((a - 0xC00) / 64) (a % 64)
  else if a < 0x1000 then 0
  else if a < 0x1080 then BitVec.ofNat 64 (s.ring ((a - 0x1000) / 8)).bell
  else if a < 0x1100 then BitVec.ofNat 64 (s.ring ((a - 0x1080) / 8)).cqBell
  else if a < 0x1120 then BitVec.ofNat 64 (s.rpt ((a - 0x1100) / 8)).bell
  else if 0x2000 ≤ a ∧ a < 0x6000 then (s.ctx ((a - 0x2000) / 0x1000)).act.word (a % 0x1000)
  else if 0xA000 ≤ a ∧ a < 0xE000 then (s.ctx ((a - 0xA000) / 0x1000)).shd.word (a % 0x1000)
  else 0

/-- The register that holds an 8 B aligned word: the offset of its word 0, and its words (R423). Each entry of
UZ_SENT_TAB is read on its own. -/
def regBase (a : Nat) : Nat × Nat :=
  let at_ := fun (lo size : Nat) => (lo + (a - lo) / size * size, size / 8)
  if a < 0xC0 then (a, 1)
  else if a < 0xD0 then at_ 0xC0 16
  else if 0xE0 ≤ a ∧ a < 0x100 then at_ 0xE0 32
  else if 0x100 ≤ a ∧ a < 0x180 then at_ 0x100 64
  else if 0x200 ≤ a ∧ a < 0x240 then at_ 0x200 16
  else if 0x240 ≤ a ∧ a < 0x2C0 then at_ 0x240 32
  else if 0x800 ≤ a ∧ a < 0xD00 ∧ 0x30 ≤ a % 64 then (a / 16 * 16, 2)
  else if (0x2000 ≤ a ∧ a < 0x6000) ∨ (0xA000 ≤ a ∧ a < 0xE000) then
    let x := a % 0x1000
    if 0x50 ≤ x ∧ x < 0x60 then (a / 16 * 16, 2)
    else if 0x80 ≤ x ∧ x < 0xC0 then (a / 64 * 64, 8)
    else (a, 1)
  else (a, 1)

/-! ## Reads -/

/-- Access of 4 B or 8 B, naturally aligned (R361, R423). -/
def okAccess (off size : Nat) : Bool := (size == 4 || size == 8) && off % size == 0

/-- A violation of an MMIO access is logged. -/
def Mach.logMmio (s : Mach) (st : Status) (off value : Nat) : Mach :=
  s.logv { status := st, src := srcMmio, foff := off, value }

/-- The latched value of a word: the value at reset before the first latch (R424). -/
def Mach.latched (s : Mach) (a : Nat) : W64 :=
  match aget none s.latch a with
  | some v => v
  | none => ({ devid := s.devid } : Mach).regWord a

/-- A read of the lowest 4 B of a register latches all of it. -/
def Mach.latchAll (s : Mach) (base words : Nat) : Mach :=
  overList (fun (s' : Mach) i =>
    { s' with latch := aset none s'.latch (base + 8 * i) (some (s.regWord (base + 8 * i))) }) s (List.range words)

/-- An MMIO read; the data crosses to the host. -/
def Mach.mmioRead (s : Mach) (off size : Nat) : Mach :=
  if !okAccess off size then { s.logMmio .violMmio off 0 with lastRead := 0 }
  else
    let a := off / 8 * 8
    let r := regBase a
    let s := if off = r.1 then s.latchAll r.1 r.2 else s
    let v := s.latched a
    { s with lastRead := if size = 8 then v
                         else BitVec.ofNat 64 (if off % 8 = 4 then v.toNat / 2 ^ 32 else v.toNat % 2 ^ 32) }

/-- REGISTER_READ_LATCH (R422–R425). -/
def execRegisterReadLatch (off size : Nat) (s : State) : Out :=
  act (.registerReadLatch off size) s (fun _ m => m.mmioRead off size)

end Sys2Proof.Machine
end

