-- ==== Sys2Proof/Machine/Region.lean ====
section
/-!
DEFINITION. Guest regions in and out of service (R282, R283, R302), beds (R284), and what this device asks of its
innkeepers for a plan: CLAIM, UNCLAIM and RELEASE (R290, R292, R298, R301).
-/
namespace Sys2Proof.Machine

/-- The agent station of a link (R277). -/
def agentOf (l : Nat) : Nat := if l < 3 then 0 else if l < 6 then 2 else if l < 9 then 3 else 5

/-! ## Beds -/

/-- Beds of a region, and the beds that its bed table fills (R283). -/
def bedCount (size : Nat) : Nat := size / Config.roomBytes
def tableBeds (size : Nat) : Nat := ceilDiv (8 * bedCount size) Config.roomBytes

def noBed : Nat := 0x1FFFFFF

/-- A bed table entry. -/
def bedWord (head : Bool) (step claim used next : Nat) : Nat :=
  wordN [(1, 63), (b2n head, 62), (step, 54), (claim, 49), (used / 16, 36), (next, 0)]

/-- Writes the entry of the bed at `loc` in the table of a region, through the remote share of an agent (R294): a metadata
access (R152). -/
def Mach.writeBed (s : Mach) (n c cls region loc word : Nat) (hook : Hook) : Mach :=
  let a := region + 8 * ((loc - region) / Config.roomBytes)
  s.queueAcc n { share := 2, cls, ctx := c, chan := 8, cost := 64, addr := a, len := 8, write := true
                 data := placed a (leBytes 8 word), hook }

def Mach.innClaim (s : Mach) (i : Nat) : Option InnClaim := aget none s.lodge.claims i

/-- Beds that belong to a record. -/
def Mach.busyBed (s : Mach) (loc : Nat) : Bool := s.lodge.recs.any (fun r => r.beds.contains loc)

/-- The entry of a record's bed `i`, as it stands. -/
def InnRec.bedEntry (r : InnRec) (region i : Nat) : Nat :=
  let next := match r.beds[i + 1]? with
    | some b => (b - region) / Config.roomBytes
    | none => noBed
  bedWord (i == 0) r.step r.claim ((r.used[i]?).getD 0) next

/-- The agent that writes the entries of a device's beds: that of the lowest link to it. -/
def Mach.bedAgent (s : Mach) (dev : Nat) : Nat :=
  agentOf (((List.range Config.nLink).find? (fun l => (s.link l).dev == dev)).getD 0)

/-- A record's beds are free: their entries become zeros, written by agent `n` while the region is in service, a GET of
it is over, and a PUT of it that is still being written closes no record (R294). -/
def Mach.freeInnRec (s : Mach) (n : Nat) (r : InnRec) : Mach :=
  let s := match s.innClaim r.claim with
    | none => s
    | some k => overList (fun s loc => s.writeBed n r.ctx 1 k.region loc 0 .plain) s r.beds
  s.modLodge (fun x => { x with
    recs := x.recs.filter (fun q => !(q.dev == r.dev && q.ledger == r.ledger))
    gets := x.gets.filter (fun g => !(g.dev == r.dev && g.ledger == r.ledger))
    puts := modWhere (fun p => p.dev == r.dev && p.ledger == r.ledger) (fun p => { p with stale := true }) x.puts })

def Mach.freeInnRecs (s : Mach) (n : Nat) (p : InnRec → Bool) : Mach :=
  overList (fun s (r : InnRec) => if p r then s.freeInnRec n r else s) s s.lodge.recs

/-- A claim and its records are gone. -/
def Mach.dropInnClaim (s : Mach) (i : Nat) : Mach :=
  s.modLodge (fun x => { x with
    claims := adel x.claims i, gets := x.gets.filter (fun g => g.claim != i), recs := x.recs.filter (fun r => r.claim != i) })

/-- A claim ends with its beds, freed by agent `n` (R292). -/
def Mach.endInnClaim (s : Mach) (n i : Nat) : Mach := (s.freeInnRecs n (fun r => r.claim == i)).dropInnClaim i

/-! ## Service -/

/-- A region enters service once its bed table is zeros, written as class 2 traffic on channel 7 of S0 (R282). -/
def Mach.serveRegion (s : Mach) (c : Nat) (p : Plan) : Mach :=
  let n := 8 * bedCount p.glob.guestSize
  if n = 0 then s
  else
    overList (fun s (q : Nat × List Byte) => s.queue2 0 1 c q.1 q.2 (.bedZero c)) (s.modCtx c (fun x => { x with opening := true }))
      (cut4k (n / 4096 + 2) p.glob.guestBase (List.replicate n 0))

/-- A context's region leaves service with its bed table: EVICT for each claim held in it, whose beds are gone (R302). With no
link to the claimant UP its EVICT is not sent (DESIGN CHOICE, log entry 133). -/
def Mach.retireRegion (s : Mach) (c : Nat) : Mach :=
  overList (fun s (p : Nat × Option InnClaim) =>
    match p.2 with
    | none => s
    | some k =>
      if k.owner != c then s
      else
        let s := match s.otherLink k.dev with
          | some l =>
            s.queueTx l { msg := mkMsg lopEvict 1 s.devid k.dev k.ctx 0 (BitVec.ofNat 64 k.base) 8 0 [], cls := 1 }
          | none => s
        s.dropInnClaim p.1) s s.lodge.claims

/-- The region of a context's active slot gives way to that of another plan; one that keeps its place and size stays
in service. -/
def Mach.changeRegion (s : Mach) (c : Nat) (old new : Option Plan) : Mach :=
  let place := fun (p : Option Plan) => match p with
    | none => (0, 0)
    | some p => (p.glob.guestBase, p.glob.guestSize)
  if place old = place new then s
  else
    let s := ((s.retireRegion c).dropWaiting (· == .bedZero c)).modCtx c (fun x => { x with opening := false })
    match new with
    | none => s
    | some p => s.serveRegion c p

/-! ## Asking innkeepers -/

/-- CLAIM of a tier's window. -/
def Mach.sendClaim (s : Mach) (c tier : Nat) (t : Tier) (use : ReqUse) : Mach :=
  let dev := faDev t.base
  s.newReq use dev (s.otherLink dev)
    (mkMsg lopClaim 1 s.devid dev c 0 (BitVec.ofNat 64 t.base) (BitVec.ofNat 64 tier) 0 (leBytes 8 t.size ++ leBytes 8 0)) 1

/-- UNCLAIM of a claim. -/
def Mach.sendUnclaim (s : Mach) (c : Nat) (k : ReqClaim) : Mach :=
  s.newReq (.unclaim c) k.dev (s.otherLink k.dev)
    (mkMsg lopUnclaim 1 s.devid k.dev c k.claim (BitVec.ofNat 64 k.base) 0 0 []) 1

def Mach.sendUnclaims (s : Mach) (c : Nat) (l : List ReqClaim) : Mach := overList (fun s k => s.sendUnclaim c k) s l

/-- RELEASE of the ending step to each innkeeper with a claim (R298). A lost tier has none until its window is held again
(R300, R301). -/
def Mach.sendReleases (s : Mach) (c : Nat) : Mach :=
  let x := s.ctx c
  overList (fun s (k : ReqClaim) =>
    s.newReq (.release c) k.dev (s.otherLink k.dev)
      (mkMsg lopRelease 1 s.devid k.dev c k.claim 0 (BitVec.ofNat 64 (x.step.toNat % 256)) 0 []) 1) s x.claims

/-- A lost tier's window is claimed again once an UP link to the peer has carried its HELLO (R301). -/
def Mach.reclaimTiers (s : Mach) (c : Nat) : Mach :=
  match s.plan c with
  | none => s
  | some p =>
    overList (fun s t =>
      let dev := faDev (p.tier t).base
      let known := (s.upLinks dev).any (fun l => (s.link l).helloSeen)
      let asked := s.lodge.reqs.any (fun r => r.use == .reclaim c t)
      if known && !asked && !(s.ctx c).regained.contains t then s.sendClaim c t (p.tier t) (.reclaim c t) else s) s (s.ctx c).lostTiers

/-- Guest-region tiers of a plan, in tier-index order (R290). -/
def Plan.peerTiers (p : Plan) : List Nat := (List.range p.tiers.length).filter (fun i => (p.tier i).kind == 1)

end Sys2Proof.Machine
end

