-- ==== Sys2Proof/Machine/Loader.lean ====
section
/-!
DEFINITION. The loader: reading a plan image (R63–R70, R83) and the checks of Table: Loader checks in their order
(R75, R457), each answering the code and the offset of the field that fails.
-/
namespace Sys2Proof.Machine

/-- What a verification works on: the machine, the memory, the context and the image's fabric address. -/
structure Ld where
  s : Mach
  fab : List Host.Cell
  c : Nat
  base : Nat

/-- A little-endian field of the image. -/
def Ld.u (x : Ld) (o n : Nat) : Nat := leNat (memReads x.fab (x.base + o) n)

def Ld.secOff (x : Ld) (i : Nat) : Nat := x.u (24 + 8 * i) 4
def Ld.secLen (x : Ld) (i : Nat) : Nat := x.u (28 + 8 * i) 4
def Ld.totLen (x : Ld) : Nat := x.u 8 4
def Ld.totOk (x : Ld) : Bool := x.totLen % 64 == 0 && decide (128 ≤ x.totLen) && decide (x.totLen ≤ 268435456)
def Ld.bucketed (x : Ld) : Bool := bit (x.u 6 2) 0

def secSize : Nat → Nat
  | 0 => 128 | 1 => 64 | 2 => 64 | 3 => 16 | 4 => 32 | 5 => 8 | _ => 1

/-- Entries of a table section, with their offsets. -/
def Ld.ents (x : Ld) (i : Nat) : List Nat :=
  (List.range (x.secLen i / secSize i)).map (fun k => x.secOff i + secSize i * k)

/-! ## Reading the tables -/

def Ld.glob (x : Ld) : GlobalSec :=
  let o := x.secOff 0
  { poolBase := x.u o 8, poolChunks := x.u (o + 8) 4, dstart := x.u (o + 12) 4, dstop := x.u (o + 16) 4
    jobSeed := BitVec.ofNat 64 (x.u (o + 24) 8), step0 := BitVec.ofNat 64 (x.u (o + 32) 8)
    guestBase := x.u (o + 40) 8, guestSize := x.u (o + 48) 8
    frooms := (List.range 6).map (fun k => x.u (o + 64 + 2 * k) 2)
    srooms := (List.range 6).map (fun k => x.u (o + 80 + 2 * k) 2) }

def Ld.stageAt (x : Ld) (o : Nat) : StageEntry :=
  { stage := x.u o 1 % 64, home := x.u (o + 1) 1, dtarget := x.u (o + 2) 1, dtierix := x.u (o + 3) 1
    reserve := x.u (o + 4) 4, cap := x.u (o + 8) 4, nlayer := x.u (o + 12) 2, mbslots := x.u (o + 14) 1
    ledgerBase := x.u (o + 16) 8, ledgerCap := x.u (o + 24) 4, firstCore := x.u (o + 28) 2 % 2 ^ 15
    ncores := x.u (o + 30) 2, leadCore := x.u (o + 32) 2 % 2 ^ 15 }

def dispOf : Nat → Disp
  | 0 => .keep | 1 => .husk | 2 => .lodge | 3 => .far | _ => .drop

def Ld.entryAt (x : Ld) (o : Nat) : Entry :=
  let k := x.u o 4
  let f := x.u (o + 7) 1
  let n := x.u (o + 9) 1
  { tensor := natBits k 19 0, disp := dispOf (natBits k 22 20), fmt := (fmtOf (natBits k 25 23)).getD .fp32
    src := (fmtOf (natBits k 28 26)).getD .fp32, layer := x.u (o + 4) 2, stage := x.u (o + 6) 1 % 64
    stoch := natBits f 1 0 == 1, sat := bit f 2, pin := bit f 3, cls := natBits f 5 4
    cell := x.u (o + 8) 1 % 32, lead := x.u (o + 10) 2
    consume := (List.range (min n 4)).map (fun i => x.u (o + 12 + 2 * i) 2)
    ringDepth := x.u (o + 20) 2, prog := x.u (o + 22) 2, rawMax := x.u (o + 24) 4
    bias := BitVec.ofNat 32 (x.u (o + 28) 4), clipLo := BitVec.ofNat 32 (x.u (o + 32) 4)
    clipHi := BitVec.ofNat 32 (x.u (o + 36) 4), segix := x.u (o + 40) 2, tierix := x.u (o + 42) 1
    maskp := x.u (o + 44) 2 }

def Ld.segAt (x : Ld) (o : Nat) : Segment :=
  { ckpt := x.u o 4 % 2 ^ 20, ckptLayer := x.u (o + 4) 2, segFirst := x.u (o + 6) 2, segLast := x.u (o + 8) 2
    recLead := x.u (o + 10) 2 }

def Ld.tierAt (x : Ld) (o : Nat) : Tier :=
  { kind := x.u o 1, keySlot := x.u (o + 1) 1 % 4, minLead := x.u (o + 2) 2, base := x.u (o + 8) 8
    size := x.u (o + 16) 8 }

def Ld.bucketAt (x : Ld) (o : Nat) : Bucket :=
  { bound := x.u o 2, prog := x.u (o + 2) 2, rawLen := x.u (o + 4) 3, last := bit (x.u (o + 7) 1) 0 }

/-- Program section of station `n`: its programs' count, entry offsets and where its code begins (R70). -/
def Ld.nprog (x : Ld) (n : Nat) : Nat := x.u (x.secOff (6 + n)) 4
def Ld.progOff (x : Ld) (n i : Nat) : Nat := x.u (x.secOff (6 + n) + 4 + 2 * i) 2
def Ld.codeAt (x : Ld) (n : Nat) : Nat := roundUp (4 + 2 * x.nprog n) 8

/-- The words of a program, up to and with its END. -/
def Ld.words (x : Ld) (n : Nat) : Nat → Nat → List Nat
  | 0, _ => []
  | fuel + 1, o =>
    if x.secLen (6 + n) < o + 8 then []
    else
      let w := x.u (x.secOff (6 + n) + o) 8
      if insOpcode w = 0x0F then [w] else w :: x.words n fuel (o + 8)

def Ld.progWords (x : Ld) (n i : Nat) : List Nat := x.words n (x.secLen (6 + n) / 8 + 1) (x.progOff n i)
def Ld.progIns (x : Ld) (n i : Nat) : List Ins := (x.progWords n i).filterMap insOf

def Ld.isHome (x : Ld) (n : Nat) : Bool := (x.ents 1).any (fun o => (x.stageAt o).home == n)

/-- The plan as read, before any check. -/
def Ld.plan (x : Ld) : Plan :=
  { addr := x.base, crc := BitVec.ofNat 32 (x.u 124 4), ctx := x.c, bucketed := x.bucketed, totLen := x.totLen
    header := memReads x.fab x.base 128, glob := x.glob, stages := (x.ents 1).map x.stageAt
    entries := (x.ents 2).map x.entryAt, segs := (x.ents 3).map x.segAt, tiers := (x.ents 4).map x.tierAt
    buckets := (x.ents 5).map x.bucketAt
    progs := (List.range 6).map (fun n =>
      if x.secLen (6 + n) = 0 then [] else (List.range (x.nprog n)).map (x.progIns n))
    progLen := (List.range 6).map (fun n => x.secLen (6 + n))
    widths := x.s.widthPin }

/-! ## Checks -/

/-- A failing field: its code and offset. -/
abbrev Bad := Option (Status × Nat)

/-- The first condition that holds. -/
def firstBad : List (Bool × Status × Nat) → Bad
  | [] => none
  | (b, st, o) :: l => if b then some (st, o) else firstBad l

def anyBad {α : Type} (l : List α) (f : α → Bad) : Bad := (l.filterMap f).head?

/-- Half-open ranges meet. -/
def overlap (a n b m : Nat) : Bool := decide (a < b + m) && decide (b < a + n) && decide (0 < n) && decide (0 < m)

def Ld.local (x : Ld) (a : Nat) : Bool := a / 2 ^ 48 == x.s.devid
/-- A range of fabric addresses lies wholly within this device's HBM. -/
def Ld.inHbm (x : Ld) (a n : Nat) : Bool := x.local a && decide (a % 2 ^ 48 + n ≤ Config.hbmBytes)

/-- Active and shadow plans of a context. -/
def Mach.plansOf (s : Mach) (c : Nat) : List Plan :=
  [(s.ctx c).act.plan, (s.ctx c).shd.plan].filterMap id

def Ld.others (x : Ld) : List Plan :=
  (((List.range 4).filter (· != x.c)).map x.s.plansOf).flatten

/-- Order 1. -/
def ck1 (x : Ld) : Bad :=
  let n := if x.totOk then x.totLen else 128
  firstBad [
    (x.base % 4096 != 0, .ldrAlign, 0),
    (!x.inHbm x.base n, .ldrOverlap, 0),
    (x.others.any (fun p => overlap x.base n p.addr p.totLen), .ldrOverlap, 0)]

/-- Order 2. -/
def ck2 (x : Ld) : Bad :=
  let v := x.u 4 2
  firstBad [
    (x.u 0 4 != 0x4C505A55, .ldrHeader, 0),
    (v != 1 && v != 2, .ldrHeader, 4),
    (x.bucketed != (v == 1), .ldrHeader, 6),
    (!x.totOk, .ldrHeader, 8),
    (x.u 12 1 % 4 != x.c, .ldrHeader, 12)]

/-- The image with bytes 124–127 taken as 0 (R63). -/
def Ld.image (x : Ld) : List Byte := splice (memReads x.fab x.base x.totLen) 124 (leBytes 4 0)

/-- Order 3. -/
def ck3 (x : Ld) : Bad := firstBad [((crc32c x.image).toNat != x.u 124 4, .ldrCrc, 124)]

/-- Order 4: Table: Plan sections (R63, R64). Which sections an image must have is read in its tables, so the place of every
section, its whole entries and the overlaps are judged before the presence of sections, though R75 names presence first: the
field reported is then that of the first such fault (DESIGN CHOICE, log entry 28). -/
def ck4 (x : Ld) : Bad :=
  let d := fun i => 24 + 8 * i
  let drop := (x.ents 2).any (fun o => natBits (x.u o 4) 22 20 == 4)
  let needTier := (x.ents 2).any (fun o => natBits (x.u o 4) 22 20 == 2 || natBits (x.u o 4) 22 20 == 3) ||
    (x.ents 1).any (fun o => (x.stageAt o).dtarget == 1 || (x.stageAt o).dtarget == 2)
  let ln := fun i => 28 + 8 * i
  let placeBad := ((List.range 12).map (fun i =>
    [(if x.secLen i = 0 then x.secOff i != 0
      else x.secOff i % 64 != 0 || decide (x.secOff i < 128) || decide (x.totLen < x.secOff i + x.secLen i), Status.ldrSect, d i),
     (x.secLen i % secSize i != 0, Status.ldrSect, ln i)])).flatten
  let lap := (List.range 12).map (fun i =>
    ((List.range i).any (fun j => overlap (x.secOff i) (x.secLen i) (x.secOff j) (x.secLen j)), Status.ldrSect, d i))
  firstBad (placeBad ++ lap ++ [
    (x.secLen 0 != 128, .ldrSect, ln 0),
    (x.secLen 1 == 0 || decide (64 * 64 < x.secLen 1), .ldrSect, ln 1),
    (x.secLen 2 == 0, .ldrSect, ln 2),
    ((drop && x.secLen 3 == 0) || decide (16 * 65535 < x.secLen 3), .ldrSect, ln 3),
    ((needTier && x.secLen 4 == 0) || decide (32 * 16 < x.secLen 4), .ldrSect, ln 4),
    ((x.bucketed && x.secLen 5 == 0) || (!x.bucketed && x.secLen 5 != 0) || decide (8 * 65535 < x.secLen 5), .ldrSect, ln 5)]
    ++ (List.range 6).map (fun n => (x.isHome n && x.secLen (6 + n) == 0, Status.ldrSect, ln (6 + n))))

/-- The least byte that a mask touches. -/
def maskByte (mask : Nat) : Nat := (findNat (fun b => mask / 2 ^ (8 * b) % 256 != 0) 64).getD 0

/-- Reserved bits of a field are not 0: the offset is that of the byte of their lowest bit (log entry 12). -/
def Ld.rsvd (x : Ld) (o n mask : Nat) : Bool × Status × Nat :=
  ((x.u o n) &&& mask != 0, .ldrRsvd, o + maskByte mask)

def ones (n : Nat) : Nat := 2 ^ (8 * n) - 1

/-- Order 5: reserved fields, program padding and reserved instruction bits. -/
def ck5 (x : Ld) : Bad :=
  let g := x.secOff 0
  firstBad ([x.rsvd 6 2 0xFFFE, x.rsvd 12 1 0xFC, x.rsvd 13 11 (ones 11), x.rsvd 120 4 (ones 4),
    x.rsvd (g + 20) 4 (ones 4), x.rsvd (g + 56) 8 (ones 8), x.rsvd (g + 76) 4 (ones 4), x.rsvd (g + 92) 36 (ones 36)] ++
    ((x.ents 1).map (fun o => [x.rsvd o 1 0xC0, x.rsvd (o + 15) 1 0xFF, x.rsvd (o + 28) 2 0x8000,
      x.rsvd (o + 32) 2 0x8000, x.rsvd (o + 34) 30 (ones 30)])).flatten ++
    ((x.ents 2).map (fun o => [x.rsvd o 4 0xE0000000, x.rsvd (o + 6) 1 0xC0, x.rsvd (o + 7) 1 0xC0,
      x.rsvd (o + 8) 1 0xE0] ++
      (List.range 4).map (fun i => ((decide (x.u (o + 9) 1 ≤ i)) && x.u (o + 12 + 2 * i) 2 != 0, Status.ldrRsvd, o + 12 + 2 * i)) ++
      [x.rsvd (o + 43) 1 0xFF, x.rsvd (o + 46) 18 (ones 18)])).flatten ++
    ((x.ents 3).map (fun o => [x.rsvd o 4 0xFFF00000, x.rsvd (o + 12) 4 (ones 4)])).flatten ++
    ((x.ents 4).map (fun o => [x.rsvd (o + 1) 1 0xFC, x.rsvd (o + 4) 4 (ones 4), x.rsvd (o + 24) 8 (ones 8)])).flatten ++
    ((x.ents 5).map (fun o => [x.rsvd (o + 7) 1 0xFE])).flatten ++
    ((List.range 6).map (fun n =>
      let so := x.secOff (6 + n)
      let np := x.nprog n
      if x.secLen (6 + n) = 0 ∨ np = 0 ∨ 1024 < np then []
      else
        let pe := 4 + 2 * np
        [(x.u (so + pe) (x.codeAt n - pe) != 0, Status.ldrRsvd, so + pe)] ++
        (List.range ((x.secLen (6 + n) - x.codeAt n) / 8)).map (fun i =>
          let o := so + x.codeAt n + 8 * i
          (insRsvdBad (x.u o 8), Status.ldrRsvd, o)))).flatten)

/-- Order 6 (R13, R457). FROOMS or SROOMS above 512 (R65), and a bucket's RAWLEN that is not a multiple of 16 (R83), are
refused here, as values out of the field's range: the spec names no order for them (DESIGN CHOICE, log entry 110). -/
def ck6 (x : Ld) : Bad :=
  let g := x.secOff 0
  let r := Status.ldrRange
  firstBad ([
    (x.u (g + 48) 8 == 0 && x.u (g + 40) 8 != 0, r, g + 40)] ++
    (List.range 6).map (fun k => (decide (512 < x.u (g + 64 + 2 * k) 2), r, g + 64 + 2 * k)) ++
    (List.range 6).map (fun k => (decide (512 < x.u (g + 80 + 2 * k) 2), r, g + 80 + 2 * k)) ++
    ((x.ents 1).map (fun o => [
      (decide (5 < x.u (o + 1) 1), r, o + 1),
      (x.u (o + 2) 1 == 0 || decide (3 < x.u (o + 2) 1), r, o + 2),
      (x.u (o + 2) 1 == 3 && x.u (o + 3) 1 != 0xFF, r, o + 3),
      (x.u (o + 12) 2 == 0, r, o + 12),
      (x.u (o + 14) 1 == 0 || decide (64 < x.u (o + 14) 1), r, o + 14),
      (x.u (o + 30) 2 == 0, r, o + 30)])).flatten ++
    ((x.ents 2).map (fun o =>
      let d := natBits (x.u o 4) 22 20
      [(x.u o 4 % 2 ^ 20 == Config.noTensor, r, o),
       (decide (2 < natBits (x.u o 4) 28 26), r, o + 3),
       (decide (1 < x.u (o + 7) 1 % 4), r, o + 7),
       (x.u (o + 10) 2 == 0, r, o + 10),
       (d != 4 && x.u (o + 40) 2 != 0xFFFF, r, o + 40),
       (d != 2 && d != 3 && x.u (o + 42) 1 != 0xFF, r, o + 42)])).flatten ++
    ((x.ents 3).map (fun o => [(x.u o 4 % 2 ^ 20 == Config.noTensor, r, o)])).flatten ++
    ((x.ents 4).map (fun o => [
      (x.u o 1 != 1 && x.u o 1 != 2, r, o),
      (x.u (o + 2) 2 == 0, r, o + 2),
      (x.u (o + 16) 8 == 0, r, o + 16)])).flatten ++
    ((x.ents 5).map (fun o => [
      (x.u o 2 == 0, r, o),
      (x.u (o + 4) 3 == 0 || x.u (o + 4) 3 % 16 != 0, r, o + 4)])).flatten)

/-- A fabric address whose device id is 8–15 (R8), or that has a bit beyond its 52: of a plan's address field such a bit is
refused as a bad device id is (DESIGN CHOICE, log entry 126). -/
def fabBad (a : Nat) : Bool := decide (8 ≤ a / 2 ^ 48)
/-- A host address beyond 57 bits (R9). -/
def hostBad (a : Nat) : Bool := decide (2 ^ 57 ≤ a)

/-- Order 7. -/
def ck7 (x : Ld) : Bad :=
  let g := x.secOff 0
  let r := Status.violAddr
  firstBad ([(fabBad (x.u g 8), r, g), (fabBad (x.u (g + 40) 8), r, g + 40)] ++
    (x.ents 1).map (fun o => (fabBad (x.u (o + 16) 8), r, o + 16)) ++
    (x.ents 4).map (fun o =>
      ((if x.u o 1 = 1 then fabBad (x.u (o + 8) 8) else hostBad (x.u (o + 8) 8)), r, o + 8)))

/-- Order 8. -/
def ck8 (x : Ld) : Bad :=
  let g := x.secOff 0
  let r := Status.ldrAlign
  firstBad ([(x.u g 8 % Config.chunkBytes != 0, r, g), (x.u (g + 40) 8 % 4096 != 0, r, g + 40),
    (x.u (g + 48) 8 % 4096 != 0, r, g + 48)] ++
    (x.ents 1).map (fun o => (x.u (o + 16) 8 % 64 != 0, r, o + 16)) ++
    ((x.ents 4).map (fun o => [(x.u (o + 8) 8 % 4096 != 0, r, o + 8), (x.u (o + 16) 8 % 4096 != 0, r, o + 16)])).flatten)

/-- Order 9. -/
def ck9 (x : Ld) : Bad :=
  let g := x.secOff 0
  firstBad [(x.glob.poolChunks == 0, .ldrPool, g + 8),
    (!x.inHbm x.glob.poolBase (Config.chunkBytes * x.glob.poolChunks), .ldrPool, g)]

/-- Pool, ledgers and guest region of a plan, each with the offset of its base field. -/
def Ld.areas (x : Ld) : List (Nat × Nat × Nat) :=
  let g := x.secOff 0
  [(x.glob.poolBase, Config.chunkBytes * x.glob.poolChunks, g), (x.glob.guestBase, x.glob.guestSize, g + 40)] ++
  (x.ents 1).map (fun o => (x.u (o + 16) 8, 64 * x.u (o + 24) 4, o + 16))

def Plan.areas (p : Plan) : List (Nat × Nat) :=
  [(p.glob.poolBase, Config.chunkBytes * p.glob.poolChunks), (p.glob.guestBase, p.glob.guestSize)] ++
  p.stages.map (fun e => (e.ledgerBase, 64 * e.ledgerCap))

/-- Each pair of areas that meets, by the later one's offset. -/
def pairBad : List (Nat × Nat × Nat) → List (Nat × Nat × Nat) → List (Bool × Status × Nat)
  | _, [] => []
  | seen, a :: l =>
    (seen.any (fun b => overlap a.1 a.2.1 b.1 b.2.1), .ldrOverlap, a.2.2) :: pairBad (a :: seen) l

/-- Order 10 (R457). -/
def ck10 (x : Ld) : Bad :=
  let g := x.secOff 0
  let all := (x.base, x.totLen, 0) :: x.areas
  firstBad ([(x.glob.guestSize != 0 && !x.inHbm x.glob.guestBase x.glob.guestSize, .ldrOverlap, g + 40)] ++
    (x.ents 1).map (fun o => (!x.inHbm (x.u (o + 16) 8) (64 * x.u (o + 24) 4), Status.ldrOverlap, o + 16)) ++
    pairBad [] all ++
    all.map (fun a =>
      (x.others.any (fun p => p.areas.any (fun b => overlap a.1 a.2.1 b.1 b.2)), Status.ldrOverlap, a.2.2)))

/-- Order 11. -/
def ck11 (x : Ld) : Bad :=
  firstBad ((x.ents 1).map (fun o => (decide (x.u (o + 8) 4 < x.u (o + 4) 4), Status.ldrReserve, o + 4)) ++
    [(decide (x.glob.poolChunks < sumNat ((x.ents 1).map (fun o => x.u (o + 4) 4))), .ldrReserve, x.secOff 0 + 8)])

/-- Order 12. -/
def ck12 (x : Ld) : Bad :=
  let g := x.secOff 0
  firstBad [(decide (x.glob.dstop ≤ x.glob.dstart), .ldrMarks, g + 16),
    (decide (x.glob.poolChunks < x.glob.dstop), .ldrMarks, g + 16)]

/-- Order 13. -/
def ck13 (x : Ld) : Bad :=
  firstBad ((x.ents 1).map (fun o => (decide (Config.nCore < (x.stageAt o).ncores), Status.ldrCores, o + 30)) ++
    (x.ents 1).map (fun o =>
      (decide (Config.nCore < (x.stageAt o).firstCore + (x.stageAt o).ncores), Status.ldrCores, o + 28)) ++
    (x.ents 1).map (fun o => ((x.ents 1).any (fun q => decide (q < o) &&
      overlap (x.stageAt o).firstCore (x.stageAt o).ncores (x.stageAt q).firstCore (x.stageAt q).ncores),
      Status.ldrCores, o + 28)) ++
    (x.ents 1).map (fun o => (!(x.stageAt o).hasCore (x.stageAt o).leadCore, Status.ldrCores, o + 32)))

def isPow2 (n : Nat) : Bool := n != 0 && 2 ^ Nat.log2 n == n

/-- Order 14. -/
def ck14 (x : Ld) : Bad :=
  firstBad ((x.ents 1).map (fun o =>
    let e := x.stageAt o
    let n := ((x.ents 2).filter (fun q => (x.entryAt q).stage == e.stage)).length
    (!isPow2 e.ledgerCap || decide (e.ledgerCap < 256) || decide (1048576 < e.ledgerCap) ||
      decide (e.ledgerCap < n * e.mbslots), Status.ldrLedger, o + 24)))

def sameKey (a b : Entry) : Bool := a.stage == b.stage && a.layer == b.layer && a.tensor == b.tensor

/-- Order 15. -/
def ck15 (x : Ld) : Bad :=
  let es := x.ents 2
  firstBad ((x.ents 1).map (fun o => ((x.ents 1).any (fun q => decide (q < o) &&
      (x.stageAt q).stage == (x.stageAt o).stage), Status.ldrDup, o)) ++
    es.map (fun o => (es.any (fun q => decide (q < o) && sameKey (x.entryAt q) (x.entryAt o)), Status.ldrDup, o)) ++
    (es.map (fun o =>
      let e := x.entryAt o
      [(((x.plan).stage e.stage).isNone, Status.ldrRange, o + 6),
       (decide ((((x.plan).stage e.stage).map (fun g => g.nlayer)).getD 65536 ≤ e.layer), Status.ldrRange, o + 4)])).flatten)

def fltNan (w : W32) : Bool := fltVal .fp32 w.toNat == .nan
def fltInf (w : W32) : Bool :=
  match fltVal .fp32 w.toNat with
  | .inf _ => true
  | _ => false

/-- Order 16 (R178). -/
def ck16 (x : Ld) : Bad :=
  let r := Status.ldrDisp
  firstBad (((x.ents 2).map (fun o =>
    let k := x.u o 4
    let e := x.entryAt o
    let cap := (((x.plan).stage e.stage).map (fun g => g.cap)).getD 0
    [(decide (4 < natBits k 22 20), r, o + 2),
     (decide (4 < natBits k 25 23), r, o + 2),
     (decide (e.src.bytes < e.fmt.bytes), r, o + 2),
     (e.disp == .keep && e.fmt != e.src, r, o + 2),
     (fltNan e.bias || fltInf e.bias, r, o + 28),
     (fltNan e.clipLo, r, o + 32),
     (fltNan e.clipHi || numLt (constVal e.clipHi) (constVal e.clipLo), r, o + 36),
     (e.stoch && identityPath e, r, o + 7),
     ((e.disp == .keep || e.disp == .husk) && cap == 0, r, o + 2)])).flatten)

/-- Order 17. -/
def ck17 (x : Ld) : Bad :=
  firstBad ((x.ents 2).map (fun o =>
    let e := x.entryAt o
    let n := (((x.plan).stage e.stage).map (fun g => g.ncores)).getD 0
    (e.rawMax == 0 || e.rawMax % 16 != 0 || decide (Config.sramBytes * n < e.rawMax), Status.ldrSize, o + 24)))

/-- Order 18. -/
def ck18 (x : Ld) : Bad :=
  let kindAt := fun i => (((x.plan).tiers[i]?).map (fun t => t.kind)).getD 0
  firstBad ((x.ents 2).map (fun o =>
      let e := x.entryAt o
      ((e.disp == .lodge && kindAt e.tierix != 1) || (e.disp == .far && kindAt e.tierix != 2), Status.ldrTier, o + 42)) ++
    (x.ents 1).map (fun o =>
      let e := x.stageAt o
      ((e.dtarget == 1 && kindAt e.dtierix != 1) || (e.dtarget == 2 && kindAt e.dtierix != 2), Status.ldrTier, o + 3)))

/-- Order 19. -/
def ck19 (x : Ld) : Bad :=
  firstBad ((x.ents 4).map (fun o => ((aget none x.s.keys (x.tierAt o).keySlot).isNone, Status.ldrKey, o + 1)))

/-- A device that some link reaches. -/
def Mach.reachable (s : Mach) (d : Nat) : Bool :=
  (List.range Config.nLink).any (fun l => (s.link l).st == 2 && (s.link l).dev == d)

/-- Order 20. -/
def ck20 (x : Ld) : Bad :=
  firstBad ((x.ents 4).map (fun o =>
    let t := x.tierAt o
    (t.kind == 1 && (faDev t.base == x.s.devid || !x.s.reachable (faDev t.base)), Status.ldrPartner, o + 8)))

/-- Order 21. -/
def ck21 (x : Ld) : Bad :=
  firstBad (((x.ents 2).map (fun o =>
    let e := x.entryAt o
    let n := x.u (o + 9) 1
    let nl := (((x.plan).stage e.stage).map (fun g => g.nlayer)).getD 0
    let at_ := fun (k : Nat) => (e.consume[k]?).getD 0
    (n == 0 || decide (4 < n), Status.ldrFetch, o + 9) :: (List.range e.consume.length).map (fun k =>
      (decide (at_ k < e.layer) || decide (nl ≤ at_ k) || (decide (0 < k) && decide (at_ (k - 1) ≤ at_ k)),
        Status.ldrFetch, o + 12 + 2 * k)))).flatten)

/-- Order 22. -/
def ck22 (x : Ld) : Bad :=
  firstBad ((x.ents 2).map (fun o => (decide (1 < (x.entryAt o).cls), Status.ldrClass, o + 7)))

/-- Order 23 (R77). -/
def ck23 (x : Ld) : Bad :=
  firstBad ((x.ents 2).map (fun o =>
    let e := x.entryAt o
    let g := ((x.plan).stage e.stage).getD {}
    (e.consume.any (fun l => decide (g.nlayer - 1 < l + e.lead)) ||
      ((e.disp == .lodge || e.disp == .far) && decide (e.lead < ((x.plan).tier e.tierix).minLead)) ||
      ((g.dtarget == 1 || g.dtarget == 2) && !e.pin && decide (e.lead < ((x.plan).tier g.dtierix).minLead)),
      Status.ldrLead, o + 10)))

/-- Order 24. -/
def ck24 (x : Ld) : Bad :=
  firstBad ((x.ents 2).map (fun o =>
    let e := x.entryAt o
    let home := (((x.plan).stage e.stage).map (fun g => g.home)).getD 0
    (decide (e.ringDepth < 3) || decide (64 < e.ringDepth) || decide ((x.glob.frooms[home]?).getD 0 < e.ringDepth),
      Status.ldrRing, o + 20)))

def Plan.rooms (p : Plan) (n : Nat) : Nat := (p.glob.frooms[n]?).getD 0 + (p.glob.srooms[n]?).getD 0

/-- Rooms that the largest tensor that may leave the chip needs at a station (R78). Of a demoting stage every entry but
its DROP entries counts, the pinned ones too (DESIGN CHOICE, log entry 111). -/
def Plan.roomsNeed (p : Plan) (n : Nat) : Nat :=
  maxNat (p.entries.map (fun e =>
    let g := (p.stage e.stage).getD {}
    if g.home = n ∧ e.disp ≠ .drop ∧ (e.disp = .lodge ∨ e.disp = .far ∨ g.dtarget = 1 ∨ g.dtarget = 2) then
      ceilDiv (ceilDiv e.rawMax 4096) 15
    else 0))

/-- Order 25 (R78). -/
def ck25 (x : Ld) : Bad :=
  let g := x.secOff 0
  let p := x.plan
  firstBad (((List.range 6).map (fun n =>
    [(decide (512 < p.rooms n + sumNat (((List.range 4).filter (· != x.c)).map (fun c =>
        maxNat ((x.s.plansOf c).map (fun q => q.rooms n))))), Status.ldrRooms, g + 64 + 2 * n),
     (decide ((p.glob.srooms[n]?).getD 0 < p.roomsNeed n), Status.ldrRooms, g + 80 + 2 * n)])).flatten)

/-- Order 26 (R79): the segments that DROP entries name. -/
def ck26 (x : Ld) : Bad :=
  let p := x.plan
  let r := Status.ldrSegment
  firstBad (((x.ents 2).map (fun o =>
    let e := x.entryAt o
    if e.disp ≠ .drop then []
    else
      match p.segs[e.segix]? with
      | none => [(true, r, o + 40)]
      | some sg =>
        let so := x.secOff 3 + 16 * e.segix
        let nl := ((p.stage e.stage).map (fun g => g.nlayer)).getD 0
        let ck := (p.entry e.stage sg.ckptLayer sg.ckpt).map (·.2)
        let cmax := maxNat ((p.entries.filter (fun q => q.disp == .drop && q.segix == e.segix)).map (fun q => maxNat q.consume))
        [(ck.isNone || (ck.map (fun q => q.disp == .drop)).getD false, r, so),
         (!(decide (sg.ckptLayer < sg.segFirst)), r, so + 4),
         (!(decide (sg.segFirst ≤ sg.segLast)), r, so + 6),
         (!(decide (sg.segLast < nl)), r, so + 8),
         (decide (e.layer < sg.segFirst) || decide (sg.segLast < e.layer), r, o + 4),
         (sg.recLead == 0, r, so + 10),
         (!((ck.map (fun q => q.consume)).getD []).contains (cmax + sg.recLead), r, so + 10)])).flatten)

/-- Order 27 (R107, R130, R307). An entry offset that points into the section's count and offset list is refused as
outside the programs (DESIGN CHOICE, log entry 110). -/
def ck27 (x : Ld) : Bad :=
  let r := Status.ldrProg
  let p := x.plan
  firstBad (((List.range 6).map (fun n =>
      let so := x.secOff (6 + n)
      let np := x.nprog n
      if x.secLen (6 + n) = 0 then []
      else if np = 0 ∨ 1024 < np then [(true, r, so)]
      else ((List.range np).map (fun i =>
        let po := x.progOff n i
        let ws := x.progWords n i
        [(po % 8 != 0 || decide (po < x.codeAt n) || decide (x.secLen (6 + n) ≤ po), r, so + 4 + 2 * i)] ++
        (match shapeFault 0 [] false false (ws.map insOf) with
         | some k => [(true, r, so + po + 8 * k)]
         | none => []) ++
        (let skipAt := ((findIx isSkiplen (x.progIns n i) 0).map (·.1)).getD 0
         [((progTree (x.progIns n i)).isNone, r, so + po),
          (((progTree (x.progIns n i)).bind (fun t => t.2.2.trimmed)).any (fun t => decide (65534 < t.1 * t.2)), r,
            so + po + 8 * skipAt)]) ++
        (match findIx (fun i => match i with
            | Ins.waitSem q => q / 2048 != x.c
            | _ => false) (x.progIns n i) 0 with
         | some (k, _) => [(true, r, so + po + 8 * k)]
         | none => []))).flatten)).flatten ++
    (if x.bucketed then
      ((x.ents 2).map (fun o =>
        let e := x.entryAt o
        let home := ((p.stage e.stage).map (fun g => g.home)).getD 0
        (List.range (p.bucketGroup e.prog).length).map (fun k =>
          let bo := x.secOff 5 + 8 * (e.prog + k)
          (decide (x.nprog home ≤ (x.bucketAt bo).prog), r, bo + 2)))).flatten
    else (x.ents 2).map (fun o =>
      let e := x.entryAt o
      let home := ((p.stage e.stage).map (fun g => g.home)).getD 0
      (decide (x.nprog home ≤ e.prog), r, o + 22))))

/-- Order 28 (R80). -/
def ck28 (x : Ld) : Bad :=
  firstBad ((List.range 6).map (fun n =>
    (decide (16384 < x.secLen (6 + n) + sumNat (((List.range 4).filter (· != x.c)).map (fun c =>
      maxNat ((x.s.plansOf c).map (fun q => (q.progLen[n]?).getD 0))))), Status.ldrProgmem, 28 + 8 * (6 + n))))

/-- Order 29 (R75, R130). At the planned full length of a bucketed entry, the BOUND of the last entry of its group, the
program is that entry's (R84, R85); a group without a LAST entry is left to order 31. -/
def ck29 (x : Ld) : Bad :=
  let p := x.plan
  firstBad ((x.ents 2).map (fun o =>
    let e := x.entryAt o
    let home := ((p.stage e.stage).map (fun g => g.home)).getD 0
    let prog := if !x.bucketed then some e.prog
      else ((p.bucketGroup e.prog).getLast?).bind (fun b => if b.last then some b.prog else none)
    let bad := match prog with
      | some k => (p.progNode home k).bytes e.src none != e.rawMax
      | none => false
    (e.disp != .drop && bad, .ldrLoop, o + 24)))

/-- The distinct stage cores of the tiles. -/
def coresOf (is : List PItem) : List Int :=
  is.foldl (fun l i =>
    match i with
    | .tile _ c _ _ _ _ _ => if l.contains c then l else c :: l
    | .cut => l) []

def contiguous (l : List Int) : Bool :=
  match l with
  | [] => true
  | a :: r =>
    let lo := r.foldl min a
    let hi := r.foldl max a
    hi - lo + 1 == (l.length : Int)

/-- R130, order 30, for one program as one entry runs it; offsets from the program's first instruction. The core register is
judged where a tile is emitted, not where SETA or a loop leaves it (DESIGN CHOICE, log entry 127). -/
def extentBad (x : Ld) (g : StageEntry) (src : Fmt) (is : List Ins) : Bad :=
  match progTree is with
  | none => none
  | some (nf, lo, nd) =>
    let r := Status.ldrExtent
    let items := nd.items none
    let runs := match nd.trimmed with
      | some (c, _) => (List.range c).map (fun k => nd.items (some (k + 1)))
      | none => [items]
    let blks := blocksOf src items
    firstBad (items.map (fun i =>
        match i with
        | .cut => (false, r, 0)
        | .tile ix c o _ cols _ _ =>
          (decide (o < 0) || decide ((Config.sramBytes : Int) < tileEnd src i) || decide (c < 0) ||
            decide ((g.ncores : Int) ≤ c) ||
            (cols == 1 && aget 16 x.s.widthPin (g.firstCore + c.toNat) != 15) ||
            (cols == 2 && aget 16 x.s.widthPin (g.firstCore + c.toNat) != 16), r, 8 * ix)) ++
      [(runs.any (fun l => !contiguous (coresOf l)), r, 0),
       (decide (393216 < 16 * lo + 4128 * nf), r, 0),
       (blks.any (fun b => decide (nf < (blks.filter (fun q => q.1 == b.1)).length)), r, 0)])

/-- The programs an entry may run. -/
def Plan.progsOf (p : Plan) (e : Entry) : List Nat :=
  if p.bucketed then (p.bucketGroup e.prog).map (fun b => b.prog) else [e.prog]

/-- Order 30. -/
def ck30 (x : Ld) : Bad :=
  let p := x.plan
  anyBad p.entries (fun e =>
    let g := (p.stage e.stage).getD {}
    if e.disp = .drop then none
    else anyBad (p.progsOf e) (fun i =>
      (extentBad x g e.src (p.progIns g.home i)).map (fun b =>
        (b.1, x.secOff (6 + g.home) + x.progOff g.home i + b.2))))

/-- The bucket whose BOUND is not above the one before it. -/
def notAscending : Nat → List Nat → Option Nat
  | k, a :: b :: l => if a < b then notAscending (k + 1) (b :: l) else some (k + 1)
  | _, _ => none

/-- Order 31 (R86): the offset is that of the group's PROG, of the BOUND or RAWLEN that fails, or of the SKIPLEN. The group
of a DROP entry is judged like any other but for what its programs emit, since the loader checks of them only their
numbers (R99). -/
def ck31 (x : Ld) : Bad :=
  let p := x.plan
  let r := Status.ldrBucket
  if !x.bucketed then none
  else
    firstBad (((x.ents 2).map (fun o =>
      let e := x.entryAt o
      let g := p.bucketGroup e.prog
      let home := ((p.stage e.stage).map (fun g => g.home)).getD 0
      let at_ := fun k => x.secOff 5 + 8 * (e.prog + k)
      let bound := notAscending 0 (g.map (fun b => b.bound))
      [(!((g.getLast?).map (fun b => b.last)).getD false, r, o + 22),
       (bound.isSome, r, at_ (bound.getD 0)),
       (((g.getLast?).map (fun b => b.rawLen)).getD 0 != e.rawMax, r, at_ (g.length - 1) + 4)] ++
      ((List.range g.length).zip g).map (fun b =>
        (e.disp != .drop && (p.progNode home b.2.prog).bytes e.src none != b.2.rawLen, r, at_ b.1 + 4)))).flatten ++
      ((List.range 6).map (fun n => (List.range (x.nprog n)).map (fun i =>
        let skip := findIx isSkiplen (x.progIns n i) 0
        (decide (x.secLen (6 + n) ≠ 0) && skip.isSome, r,
          x.secOff (6 + n) + x.progOff n i + 8 * ((skip.map (·.1)).getD 0))))).flatten)

def loaderChecks : List (Nat × (Ld → Bad)) :=
  [(1, ck1), (2, ck2), (3, ck3), (4, ck4), (5, ck5), (6, ck6), (7, ck7), (8, ck8), (9, ck9), (10, ck10), (11, ck11),
   (12, ck12), (13, ck13), (14, ck14), (15, ck15), (16, ck16)] ++
  [(17, ck17), (18, ck18), (19, ck19), (20, ck20), (21, ck21), (22, ck22), (23, ck23), (24, ck24), (25, ck25),
   (26, ck26), (27, ck27), (28, ck28), (29, ck29), (30, ck30), (31, ck31)]

/-- R75: the checks in order; the first that fails gives code, offset and order. -/
def runChecks (x : Ld) : List (Nat × (Ld → Bad)) → Option (Status × Nat × Nat)
  | [] => none
  | (n, f) :: l =>
    match f x with
    | some (st, o) => some (st, o, n)
    | none => runChecks x l

end Sys2Proof.Machine
end

