-- ==== Sys2Proof/Machine/Rings.lean ====
section
/-!
DEFINITION. Command rings: reading descriptors (R338, R341), the checks of a descriptor (R342, R361), starting in
ring order (R339), completion events and entries (R344, R345, R348), held entries (R357, R359–R361).
-/
namespace Sys2Proof.Machine

def opNop : Nat := 0x01
def opPlanInstall : Nat := 0x02
def opPlanArm : Nat := 0x03
def opPlanWithdraw : Nat := 0x04
def opCfgSwap : Nat := 0x05
def opStepAbort : Nat := 0x06
def opXfer : Nat := 0x07
def opChanAbort : Nat := 0x08
def opSemAdj : Nat := 0x09
def opSemWake : Nat := 0x0A
def opCtxSave : Nat := 0x0B
def opCtxRestore : Nat := 0x0C
def opReplay : Nat := 0x0D
def opRplRelease : Nat := 0x0E
def opCkptCapture : Nat := 0x0F
def opInline : Nat := 0x10

/-! ## The checks of a descriptor -/

/-- A condition with the status, field offset and value it is answered with. -/
abbrev DCheck := Bool × Status × Nat × Nat

def firstFault : List DCheck → Option (Status × Nat × Nat)
  | [] => none
  | (b, st, o, v) :: l => if b then some (st, o, v) else firstFault l

/-- Bits `lo` to `hi` of the line are a reserved field: its offset is that of the byte of its lowest bit (log entry 12),
its value the field's low 64 bits. -/
def rsv (l : List W64) (lo hi : Nat) : DCheck :=
  let v := natBits (dBytes l 0 64) hi lo
  (v != 0, .violRsvd, lo / 8, v % 2 ^ 64)

/-- From bit `lo` on the rest of the line is reserved. -/
def rsvRest (l : List W64) (lo : Nat) : DCheck := rsv l lo 511

/-- An identifier of R13. -/
def idCheck (o v lim : Nat) : DCheck := (decide (lim ≤ v), .violRsvd, o, v)

/-- Bits 63:52 of a fabric address operand at byte `o` are reserved (R342). -/
def fabRsv (l : List W64) (o : Nat) : DCheck := rsv l (8 * o + 52) (8 * o + 63)
/-- A semaphore index of SEM_ADJ or SEM_WAKE lies in the quarter of the descriptor's context (R306, R320). -/
def semCheck (c o v : Nat) : DCheck := (v / 2048 != c, .violRsvd, o, v)

/-- A fabric address operand has this device's id, which is 0 to 7 (R8; log entry 33). -/
def fabCheck (dev o v : Nat) : DCheck := (decide (8 ≤ faDev v) || faDev v != dev, .violAddr, o, v)
/-- A host address operand (R9). -/
def hostCheck (o v : Nat) : DCheck := (decide (2 ^ 57 ≤ v), .violAddr, o, v)

def addrZero (l : List W64) : DCheck := (dAddr l != 0, .violRsvd, 8, dAddr l)

/-- XFER fields (Table: XFER body). -/
def xMode (l : List W64) : Nat := natBits (dBytes l 28 1) 1 0
def xClass (l : List W64) : Nat := natBits (dBytes l 28 1) 3 2
def xPosted (l : List W64) : Bool := bit (dBytes l 28 1) 4
def xDstHost (l : List W64) : Bool := bit (dBytes l 28 1) 5
def xSrcHost (l : List W64) : Bool := bit (dBytes l 28 1) 6
def xSrc (l : List W64) : Nat := dBytes l 16 8
def xCount (l : List W64) : Nat := dBytes l 24 4
def xStation (l : List W64) : Nat := natBits (dBytes l 29 1) 2 0
def xPattern (l : List W64) : W64 := BitVec.ofNat 64 (dBytes l 32 8)
def xHasSrc (l : List W64) : Bool := xMode l == 0 || xMode l == 2

/-- CKPT_CAPTURE fields (Table: Capture body). -/
def kWhen (l : List W64) : Nat := natBits (dBytes l 24 1) 0 0
def kHost (l : List W64) : Bool := bit (dBytes l 24 1) 1
def kRpl (l : List W64) : Bool := bit (dBytes l 24 1) 2

/-- The checks of an opcode's fields: reserved fields and identifiers in byte order, then addresses, then modes
(log entry 34). Bits next to each other that the tables do not name are one reserved field. A CLASS 3 of XFER is answered
as CLASS 0 (log entry 34). -/
def opChecks (dev c : Nat) (l : List W64) : List DCheck :=
  let op := dOp l
  if op = opPlanInstall then
    -- another device's address of id 0 to 7 is the loader's to refuse (R457 order 1)
    [fabRsv l 8, rsvRest l 129, (decide (8 ≤ faDev (dAddr l)), .violAddr, 8, dAddr l)]
  else if op = opCfgSwap then [addrZero l, rsvRest l 134]
  else if op = opXfer then
    (if xDstHost l then [] else [fabRsv l 8]) ++
    (if xHasSrc l then (if xSrcHost l then [] else [fabRsv l 16]) else [(xSrc l != 0, .violRsvd, 16, xSrc l)]) ++
    [rsv l 231 231, idCheck 29 (xStation l) 6, rsv l 235 239, rsv l 240 255,
      (xHasSrc l && dBytes l 32 8 != 0, .violRsvd, 32, dBytes l 32 8), rsvRest l 320,
      if xDstHost l then hostCheck 8 (dAddr l) else fabCheck dev 8 (dAddr l)] ++
    (if xHasSrc l then [if xSrcHost l then hostCheck 16 (xSrc l) else fabCheck dev 16 (xSrc l)] else []) ++
    [(xCount l != 0 && (xClass l == 0 || xClass l == 3), .violMode, 28, dBytes l 28 1)]
  else if op = opChanAbort then
    [addrZero l, idCheck 16 (natBits (dBytes l 16 1) 5 0) 48, rsvRest l 134]
  else if op = opSemAdj then
    [addrZero l, semCheck c 16 (natBits (dBytes l 16 2) 12 0), rsv l 141 143, idCheck 18 (natBits (dBytes l 18 1) 2 0) 6,
      rsv l 147 159, (decide (65535 < (sext (dBytes l 20 4) 32).natAbs), .violRsvd, 20, dBytes l 20 4), rsvRest l 192]
  else if op = opSemWake then
    addrZero l ::
    (if dBytes l 16 1 % 2 = 0 then
      [rsv l 129 135, idCheck 17 (natBits (dBytes l 17 1) 2 0) 6, rsv l 139 143, semCheck c 18 (natBits (dBytes l 18 2) 12 0),
        rsvRest l 157]
     else
      [rsv l 129 159, idCheck 20 (dBytes l 20 2 % 2 ^ 15) Config.nCore, rsv l 175 175, rsvRest l 181])
  else if op = opCtxSave ∨ op = opCtxRestore then [fabRsv l 8, rsvRest l 128, fabCheck dev 8 (dAddr l)]
  else if op = opCkptCapture then
    (if kHost l then [] else [fabRsv l 8]) ++ [rsv l 195 199, rsv l 200 255, rsvRest l 320,
      if kHost l then hostCheck 8 (dAddr l) else fabCheck dev 8 (dAddr l)]
  else if op = opInline then
    [fabRsv l 8, rsvRest l (8 * (16 + dLen l)), fabCheck dev 8 (dAddr l)]
  else [addrZero l, rsvRest l 128]

/-- What fails a descriptor before it starts. -/
def descFault (dev c : Nat) (l : List W64) : Option (Status × Nat × Nat) :=
  let op := dOp l
  firstFault ([((op == 0 || decide (opInline < op)), Status.violOp, 0, op),
    (op == opInline && decide (48 < dLen l), .violLen, 1, dLen l),
    (op != opInline && dLen l != 0, .violRsvd, 1, dLen l)] ++ opChecks dev c l)

/-! ## Starting in ring order (R339) -/

def Desc.waits (d : Desc) : Bool := d.st == .reading || d.st == .mismatch || d.st == .matched
def Desc.done (d : Desc) : Bool := d.st == .completed || d.st == .entered

/-- The ring's next descriptor, when it may start: matched, and with FENCE only behind completed ones. -/
def Mach.nextDesc (s : Mach) (r : Nat) : Option Desc :=
  let ds := (s.ring r).descs
  match ds.find? Desc.waits with
  | none => none
  | some d =>
    let before := ds.takeWhile (fun e => e.pos != d.pos)
    if d.st == .matched && (!dFence d.line || before.all Desc.done) then some d else none

def Mach.setDesc (s : Mach) (r pos : Nat) (f : Desc → Desc) : Mach :=
  s.modRing r (fun g => { g with descs := modWhere (fun d => d.pos == pos) f g.descs })

/-- A violation of a ring or its descriptor is logged (R361). -/
def Mach.logRing (s : Mach) (r : Nat) (st : Status) (foff value : Nat) : Mach :=
  s.logv { status := st, src := srcRing, unit := r, ctx := some (r / 4), foff, value }

/-- A refused descriptor: logged (R389) and completed with its status. -/
def Mach.refuse (s : Mach) (d : DescRef) (st : Status) (detail : Nat) : Mach :=
  (s.logv { status := st, src := srcGate, ctx := some (d.ring / 4) }).completeCtx d st detail

/-- A faulty descriptor completes; a transfer's is a completion of the channel it names, whose entry is written (R142,
R348). -/
def Mach.failDesc (s : Mach) (d : DescRef) (l : List W64) (st : Status) : Mach :=
  let ch := 8 * xStation l + 7
  if dOp l = opXfer ∧ xStation l < 6 then (s.chanNote ch st 0).complete ch d st 0 0 else s.completeCtx d st 0

/-- Descriptors whose fields are faulty fail as they come to start. `fuel` bounds those in flight. -/
def Mach.settle (s : Mach) (r : Nat) : Nat → Mach
  | 0 => s
  | fuel + 1 =>
    match s.nextDesc r with
    | none => s
    | some d =>
      match descFault s.devid (r / 4) d.line with
      | none => s
      | some (st, o, v) =>
        Mach.settle (((s.setDesc r d.pos (fun d => { d with st := .started })).logRing r st o v).failDesc
          { ring := r, pos := d.pos } d.line st) r fuel

/-- The next descriptor of a ring starts when it has this opcode and satisfies `p`. One whose fields are faulty fails
in its place. -/
def Mach.startDesc (s : Mach) (r op : Nat) (p : List W64 → Bool) (f : Mach → DescRef → List W64 → Mach) : Mach :=
  let s := s.settle r 16
  match s.nextDesc r with
  | none => s
  | some d =>
    if descFault s.devid (r / 4) d.line = none ∧ dOp d.line = op ∧ p d.line then
      (f (s.setDesc r d.pos (fun d => { d with st := .started })) { ring := r, pos := d.pos } d.line).settle r 16
    else s

def anyDesc (_ : List W64) : Bool := true

/-! ## Reading descriptors -/

/-- Free slots of the paired completion ring that no descriptor in flight has reserved (R338). -/
def Ring.cqRoom (r : Ring) : Nat :=
  r.size - (ixDiff r.cqProd r.cqCons + (r.descs.filter (fun d => d.st != .entered)).length +
    (r.heldEntries.filter (fun e => e.loose)).length)

/-- A ring has a descriptor to read; one that would share the position of a descriptor read before a host reset waits
for it (log entry 60). -/
def Ring.mayRead (r : Ring) : Bool :=
  r.state == .running && !r.dispend && r.prod != r.cons && decide (r.descs.length < 16) && decide (0 < r.cqRoom) &&
    !r.descs.any (fun d => d.pos == r.cons)

/-- The next ring in turn that has a descriptor to read. -/
def Mach.readRing (s : Mach) : Option Nat :=
  ((List.range 16).map (fun i => (s.hs.rrNext + i) % 16)).find? (fun r => (s.ring r).mayRead)

/-- The read of a descriptor's line. -/
def Mach.readLine (s : Mach) (r pos : Nat) : Mach :=
  let g := s.ring r
  s.hostRead 0 (.desc r pos) (g.base + 64 * (pos % g.size)) 64 false

def Mach.descriptorRead (s : Mach) : Mach :=
  if s.hs.att != .attached then s
  else
    match s.readRing with
    | none => s
    | some r =>
      let pos := (s.ring r).cons
      let s := s.modRing r (fun g => { g with cons := (pos + 1) % 2 ^ 32, descs := g.descs ++ [{ pos }] })
      (s.modHs (fun h => { h with rrNext := (r + 1) % 16 })).readLine r pos

/-- The eight words of a line. -/
def lineWords (l : List Byte) : List W64 := (List.range 8).map (fun i => BitVec.ofNat 64 (rdNat l (8 * i) 8))

/-- A DISABLE that waits is carried out once no descriptor of the ring is in flight (R335). -/
def Mach.endDisable (s : Mach) (r : Nat) : Mach :=
  if (s.ring r).dispend && (s.ring r).descs.isEmpty then
    s.modRing r (fun g => { g with state := .disabled, dispend := false })
  else s

/-- A ring halts at a descriptor, with its log entry. -/
def Mach.haltAtDesc (s : Mach) (r : Nat) (st : Status) (pos foff value : Nat) : Mach :=
  ((s.haltRingAt r st pos).logRing r st foff value).endDisable r

/-- The line of a descriptor returns (R341, R361). -/
def Mach.descReturn (s : Mach) (mem : Mems) (r pos : Nat) (err : Bool) : Mach :=
  match s.hs.ops.find? (fun o => o.use == .desc r pos && o.issued) with
  | none => s
  | some o =>
    let s := s.modHs (fun h => { h with ops := h.ops.filter (fun q => q.id != o.id) })
    match (s.ring r).descs.find? (fun d => d.pos == pos) with
    | none => s
    | some d =>
      if err then s.haltAtDesc r .violHostrd pos 0xFFFFFFFF o.addr
      else
        let l := lineWords (memReads mem.host o.addr 64)
        if dSeq l = pos % 65536 then
          (s.setDesc r pos (fun d => { d with line := l, st := .matched })).settle r 16
        else if 4 ≤ d.rereads then s.haltAtDesc r .violSeq pos 2 (dSeq l)
        else s.setDesc r pos (fun d => { d with line := l, st := .mismatch, age := 0 })

/-- 64 aclk after a mismatch the line is read again. -/
def Mach.descReread (s : Mach) (r pos : Nat) : Mach :=
  match (s.ring r).descs.find? (fun d => d.pos == pos) with
  | none => s
  | some d =>
    if d.st == .mismatch && decide (64 ≤ d.age) then
      (s.setDesc r pos (fun d => { d with st := .reading, rereads := d.rereads + 1 })).readLine r pos
    else s

/-! ## Completion entries -/

/-- Writes an entry into the next slot of its ring. -/
def Mach.writeEntry (s : Mach) (r : Nat) (e : CEntry) : Mach :=
  let g := s.ring r
  let e := { e with ix := g.cqProd }
  let s := s.hostWrite 0 (.entry r e) (g.cqBase + 16 * (g.cqProd % g.size)) (centryBytes e (phaseOf g.cqProd g.size)) false
  s.modRing r (fun g => { g with
    cqProd := (g.cqProd + 1) % 2 ^ 32
    descs := modWhere (fun d => d.pos == e.pos && d.st == .completed && !e.loose) (fun d => { d with st := .entered }) g.descs })

/-- The completion ring has a slot that its consumer index has freed (R334, R345). -/
def Ring.slotFreed (g : Ring) : Bool := decide (ixDiff g.cqProd g.cqCons < g.size)

/-- An entry may be written now: to a host that is there, into a freed slot of an enabled ring, and one whose write has
failed only after RESTART (R345, R357, R361). -/
def Mach.mayEnter (s : Mach) (r : Nat) (e : CEntry) : Bool :=
  let g := s.ring r
  s.hs.att == .attached && g.slotFreed && (g.state == .running || (g.state == .halted && !e.loose))

/-- An entry goes out behind those that wait, or is held in the gatehouse (R345, R357, R359, R361). -/
def Mach.putEntry (s : Mach) (r : Nat) (e : CEntry) : Mach :=
  if s.mayEnter r e && !(s.ring r).heldEntries.any (s.mayEnter r) then s.writeEntry r e
  else
    let held := e.held || (s.hs.att == .attached && e.late)
    s.modRing r (fun g => { g with heldEntries := g.heldEntries ++ [{ e with held }] })

/-- Held entries are written in order, from the ring's producer index on (R335, R345, R361). -/
def Mach.flushEntries (s : Mach) (r : Nat) : Mach :=
  let es := (s.ring r).heldEntries
  if !es.any (s.mayEnter r) then s
  else
    overList (fun s e => if s.mayEnter r e then s.writeEntry r e
      else s.modRing r (fun g => { g with heldEntries := g.heldEntries ++ [e] }))
      (s.modRing r (fun g => { g with heldEntries := [] })) es

/-- The event the collector takes next: the earliest, then by rank (R348). -/
def firstEvent : List CEvent → Option CEvent
  | [] => none
  | e :: es => some (es.foldl (fun b k => if k.aclk < b.aclk ∨ (k.aclk = b.aclk ∧ k.rank < b.rank) then k else b) e)

def Mach.completionIssue (s : Mach) : Mach :=
  match firstEvent s.hs.events with
  | none => s
  | some e =>
    let s := s.modHs (fun h => { h with events := h.events.erase e })
    match (s.ring e.desc.ring).descs.find? (fun d => d.pos == e.desc.pos) with
    | none => s
    | some d =>
      let ce : CEntry := { status := e.status, detail := e.detail, detail2 := e.detail2, tag := dTag d.line
                           slot := dSeq d.line, irq := dIrq d.line, late := d.late, pos := d.pos }
      (s.putEntry e.desc.ring ce).settle e.desc.ring 16

/-- The descriptor whose entry is written is no longer in flight. -/
def Mach.dropDesc (s : Mach) (r pos : Nat) : Mach :=
  (s.modRing r (fun g => { g with descs := g.descs.filter (fun d => d.pos != pos) })).endDisable r

/-- GO or an error for a completion entry (R331, R349, R350, R361). -/
def Mach.entryGo (s : Mach) (r : Nat) (e : CEntry) (err : Bool) : Mach :=
  if err then
    let s := (s.haltRing r .violHostwr).logv
      { status := .violHostwr, src := srcCqRing, unit := r, ctx := some (r / 4), value := e.ix }
    -- a held entry's descriptor is no longer in flight, so that RESTART can come (log entry 61)
    ((if e.loose then s else s.dropDesc r e.pos).modRing r (fun g => { g with
      heldEntries := g.heldEntries ++ [{ e with loose := true }]
      cqProd := if g.cqProd = (e.ix + 1) % 2 ^ 32 then e.ix else g.cqProd })).flushEntries r
  else
    let s := if e.loose then s else s.dropDesc r e.pos
    if e.irq || !(e.status == .ok || e.status == .empty) then s.raiseVec r else s

/-! ## The commands -/

/-- DESCRIPTOR_READ (R338). -/
def execDescriptorRead (s : State) : Out :=
  act (.descriptorRead) s (fun _ m => m.descriptorRead)

/-- DESCRIPTOR_READ_RETURN (R341, R342, R361). -/
def execDescriptorReadReturn (r pos : Nat) (err : Bool) (s : State) : Out :=
  act (.descriptorReadReturn r pos err) s (fun mem m => m.descReturn mem r pos err)

/-- DESCRIPTOR_REREAD (R341). -/
def execDescriptorReread (r pos : Nat) (s : State) : Out :=
  act (.descriptorReread r pos) s (fun _ m => m.descReread r pos)

/-- COMPLETION_ENTRY_ISSUE (R344, R345, R348). -/
def execCompletionEntryIssue (s : State) : Out :=
  act (.completionEntryIssue) s (fun _ m => m.completionIssue)

end Sys2Proof.Machine
end

