-- ==== Sys2Proof/Machine/Xfer.lean ====
section
/-!
DEFINITION. Descriptor transfers (R139–R148) and INLINE (R343), and what an abort of a channel does to one task, transfer
or INLINE (R143).
-/
namespace Sys2Proof.Machine

def Mach.testMode (s : Mach) : Bool := W64.bits s.regs.testCtl 0 0 == 1

def Mach.allIdle (s : Mach) : Bool := (List.range 4).all (fun c => (s.ctx c).state == .idle)

/-- Some byte of a fabric range lies in core SRAM, where the surroundings place it there. -/
def rangeInSram (a n : Nat) : Bool := (List.range n).any (fun i => (Config.sramOfFabric (a + i)).isSome)

/-- The access granule at a fabric address: 16 B in core SRAM, else 64 B (R145). -/
def granule (a : Nat) : Nat := if (Config.sramOfFabric a).isSome then 16 else 64

/-- A range of fabric addresses overlaps an image, pool, ledger or guest region of a context that is not IDLE. -/
def Mach.guarded (s : Mach) (a n : Nat) : Bool :=
  (List.range 4).any (fun c =>
    (s.ctx c).state != .idle && (s.plansOf c).any (fun p =>
      overlap a n p.addr p.totLen || overlap a n p.glob.poolBase (Config.chunkBytes * p.glob.poolChunks) ||
        overlap a n p.glob.guestBase p.glob.guestSize ||
        p.stages.any (fun e => overlap a n e.ledgerBase (64 * e.ledgerCap))))

/-- R148, for a target range, rounded outward to the granules at its ends (R145). -/
def Mach.targetBad (s : Mach) (a n : Nat) : Bool :=
  let lo := a / granule a * granule a
  (rangeInSram a n && !s.allIdle) || s.guarded lo (roundUp (a + n) (granule (a + n - 1)) - lo)

/-! ## The transfers in progress -/

def Mach.xfer (s : Mach) (r pos : Nat) : Option Xfer := s.hs.xfers.find? (fun x => x.desc == { ring := r, pos := pos })
def Mach.modXfer (s : Mach) (r pos : Nat) (f : Xfer → Xfer) : Mach :=
  s.modHs (fun h => { h with xfers := modWhere (fun x => x.desc == { ring := r, pos := pos }) f h.xfers })

/-- Length of the transfer that begins at offset `o`: to the next 4 KiB boundary of the target (R145). -/
def Xfer.cutAt (x : Xfer) (o : Nat) : Nat := min (x.count - o) (4096 - (x.dst + o) % 4096)

/-- The pattern bytes of `n` bytes from target address `a` (R146). -/
def patternAt (p : W64) (a n : Nat) : List Byte :=
  (List.range n).map (fun i => BitVec.ofNat 8 (p.toNat >>> (8 * ((a + i) % 8))))

/-- Cost of an access: core SRAM is not metered (R151, R152). -/
def fabCost (a : Nat) : Nat := if (Config.sramOfFabric a).isSome then 0 else 4096

/-- An access of a transfer on its channel 7 (R132, R144): toward the CXL port for a host operand. -/
def Mach.xferAcc (s : Mach) (x : Xfer) (host : Bool) (a : Access) : Mach :=
  s.queueAcc x.st { a with
    share := if host then 3 else a.share, cls := x.cls, chan := 7, ctx := x.desc.ring / 4
    cost := if host then 0 else fabCost a.addr }

def Mach.xferReadAt (s : Mach) (x : Xfer) (o n : Nat) (target : Bool) : Mach :=
  s.xferAcc x (if target then x.dstHost else x.srcHost)
    { share := 0, addr := (if target then x.dst else x.src) + o, len := n
      hook := .xferRead x.desc.ring x.desc.pos o target }

/-- A write to a host target keeps what was written there, for its read-back (R352). -/
def Mach.xferWriteAt (s : Mach) (x : Xfer) (o : Nat) (l : List Byte) : Mach :=
  let a := x.dst + o
  let lo := max x.dst ((x.dst + x.count - 1) / 64 * 64)
  let s := if !x.dstHost then s
    else s.modXfer x.desc.ring x.desc.pos (fun y => { y with
      wrote := aset [] y.wrote o l, backLine := if o + l.length = x.count then l.drop (lo - a) else y.backLine })
  s.xferAcc x x.dstHost
    { share := 1, addr := a, len := l.length, data := placed a l, write := true, posted := x.posted && !x.dstHost
      hook := .xferWrite x.desc.ring x.desc.pos o }

/-- Puts further transfers on the channel, at most 16 at once; `fuel` bounds them. -/
def Mach.pumpXfer (s : Mach) (r pos : Nat) : Nat → Mach
  | 0 => s
  | fuel + 1 =>
    match s.xfer r pos with
    | none => s
    | some x =>
      if x.stop || decide (x.count ≤ x.issued) || decide (16 ≤ x.cuts.length) then s
      else
        let o := x.issued
        let n := x.cutAt o
        let s := s.modXfer r pos (fun x => { x with issued := o + n, cuts := x.cuts ++ [(o, n)] })
        let s := match x.mode with
          | .copy => s.xferReadAt x o n false
          | .fill => s.xferWriteAt x o (patternAt x.pattern (x.dst + o) n)
          | .compare => (s.xferReadAt x o n false).xferReadAt x o n true
          | .compareConst => s.xferReadAt x o n true
        Mach.pumpXfer s r pos fuel

/-- Writes of a channel 7 that have no response yet (R141). -/
def Mach.writesOut (s : Mach) (n : Nat) : Bool := (s.st n).outst.any (fun a => a.write && a.chan == 7)

/-- Ends a transfer whose parts have all ended: its read-back for a host target, then its channel entry, its
interrupt and its completion (R139–R143, R147, R352). An acknowledged completion is posted only once every earlier write of
the channel has its response (R141). -/
def Mach.finishXfer (s : Mach) (r pos : Nat) : Mach :=
  match s.xfer r pos with
  | none => s
  | some x =>
    let ended := x.cuts.isEmpty && (x.stop || decide (x.count ≤ x.issued))
    let y := s.st x.st
    let back := (y.acc ++ y.outst).any (fun a => a.hook == .xferBack r pos)
    if !ended || back || (!x.posted && s.writesOut x.st) then s
    else
      let writes := x.mode == .copy || x.mode == .fill
      if x.dstHost && writes && x.fail.isNone && !x.stop && !x.backDone then
        let lo := max x.dst ((x.dst + x.count - 1) / 64 * 64)
        s.xferAcc x true { addr := lo, len := x.dst + x.count - lo, hook := .xferBack r pos }
      else
        let ch := 8 * x.st + 7
        let base := match x.fail, x.differ with
          | some st, _ => (st, x.residue)
          | none, some o => (.miscompare, o)
          | none, none => (.ok, 0)
        let base := if (s.chan ch).wrErr && base.1 == .ok then (.wrerr, base.2) else base
        let s := s.modChan ch (fun k => { k with wrErr := false })
        let s := s.modHs (fun h => { h with xfers := h.xfers.filter (fun y => y.desc != x.desc) })
        (s.chanEnd ch base.1 base.2).complete ch x.desc base.1 base.2 0

/-- INLINE writes of a station that wait for other writes of its channel complete once those have their responses (R141,
R343). -/
def Mach.finishInlines (s : Mach) (n : Nat) : Mach :=
  if s.writesOut n then s
  else
    let ch := 8 * n + 7
    let mine := s.hs.inlines.filter (fun q => q.2.1 == n)
    let s := s.modHs (fun h => { h with inlines := h.inlines.filter (fun q => q.2.1 != n) })
    overList (fun s (q : DescRef × Nat × Status) =>
      let st : Status := if q.2.2 == .ok && (s.chan ch).wrErr then .wrerr else q.2.2
      ((s.modChan ch (fun k => { k with wrErr := false })).chanEnd ch st 0).complete ch q.1 st 0 0) s mine

/-- Every transfer of a station that waits for other writes of its channel is looked at again. -/
def Mach.finishXfers (s : Mach) (n : Nat) : Mach :=
  (overList (fun s (x : Xfer) => if x.st = n then s.finishXfer x.desc.ring x.desc.pos else s) s s.hs.xfers).finishInlines n

/-- The offset of the part that a read or a write of a transfer belongs to. -/
def Hook.partOf (r pos : Nat) : Hook → Option Nat
  | .xferRead g p o _ => if g = r ∧ p = pos then some o else none
  | .xferWrite g p o => if g = r ∧ p = pos then some o else none
  | _ => none

/-- A part of a transfer has an access outstanding. -/
def Mach.partOut (s : Mach) (n r pos o : Nat) : Bool := (s.st n).outst.any (fun a => a.hook.partOf r pos == some o)

/-- Nothing further of a transfer is issued; the bytes of parts not issued, in whole or in part, are the residue (R143).
What has been read is still written, and a part of which one read is out ends with its return. -/
def Mach.stopXfer (s : Mach) (r pos : Nat) (st : Option Status) : Mach :=
  match s.xfer r pos with
  | none => s
  | some x =>
    if x.stop then s
    else
      let part := fun (a : Access) => if a.write && x.mode == .copy then none else a.hook.partOf r pos
      let offs := (s.st x.st).acc.filterMap part
      let gone := x.cuts.filter (fun p => offs.contains p.1)
      let residue := (x.count - x.issued) + sumNat (gone.map (·.2))
      let s := s.modSt x.st (fun y => { y with
        acc := y.acc.filter (fun a => (part a).isNone && a.hook != .xferBack r pos) })
      s.modXfer r pos (fun x => { x with
        stop := true, fail := match x.fail with
          | some f => some f
          | none => st
        residue, cuts := x.cuts.filter (fun p => !offs.contains p.1 || s.partOut x.st r pos p.1) })

/-- A part of a transfer fails; one of which another read is out ends with its return. -/
def Mach.failXfer (s : Mach) (r pos o : Nat) (st : Status) : Mach :=
  let s := s.stopXfer r pos (some st)
  let out := match s.xfer r pos with
    | some x => s.partOut x.st r pos o
    | none => false
  (if out then s else s.modXfer r pos (fun x => { x with cuts := x.cuts.filter (fun p => p.1 != o) })).finishXfer r pos

/-- A part of a transfer has ended. -/
def Mach.partDone (s : Mach) (r pos o : Nat) : Mach :=
  let s := s.modXfer r pos (fun x => { x with cuts := x.cuts.filter (fun p => p.1 != o), got := (adel x.got (2 * o)).filter (fun p => p.1 != 2 * o + 1) })
  (s.pumpXfer r pos 16).finishXfer r pos

/-- First place where two byte lists differ. -/
def firstDiff : List Byte → List Byte → Nat → Option Nat
  | a :: as, b :: bs, i => if a = b then firstDiff as bs (i + 1) else some i
  | _, _, _ => none

/-- R147: a difference is found at an offset. -/
def Mach.noteDiff (s : Mach) (r pos o : Nat) (d : Option Nat) : Mach :=
  match d with
  | none => s
  | some i =>
    let s := s.stopXfer r pos none
    s.modXfer r pos (fun x => { x with differ := some (match x.differ with
      | some v => min v (o + i)
      | none => o + i) })

/-- Data of a read of a transfer returns. -/
def Mach.xferData (s : Mach) (r pos o : Nat) (target : Bool) (l : List Byte) : Mach :=
  match s.xfer r pos with
  | none => s
  | some x =>
    match x.mode with
    -- what has been read of a transfer cut short is still written (R143), but nothing to a host that is lost (R359)
    | .copy => if x.fail == some .hostloss && x.dstHost then s.partDone r pos o else s.xferWriteAt x o l
    | .fill => s
    | .compareConst => (s.noteDiff r pos o (firstDiff l (patternAt x.pattern (x.dst + o) l.length) 0)).partDone r pos o
    | .compare =>
      let other := x.got.find? (fun p => p.1 == 2 * o + b2n (!target))
      match other with
      | none =>
        if x.stop && !s.partOut x.st r pos o then s.partDone r pos o
        else s.modXfer r pos (fun x => { x with got := aset [] x.got (2 * o + b2n target) l })
      | some (_, m) => (s.noteDiff r pos o (firstDiff l m 0)).partDone r pos o

/-- The response of a write of a transfer. A posted write has ended already (R140, R141). -/
def Mach.xferWritten (s : Mach) (n : Nat) (r pos o : Nat) (posted err : Bool) (addr : Nat) : Mach :=
  if posted then
    let s := if err then
        (s.logv { status := .wrerr, src := srcStation, unit := n, addr }).modChan (8 * n + 7) (fun k => { k with wrErr := true })
      else s
    s.finishXfers n
  else if err then s.failXfer r pos o .wrerr
  else s.partDone r pos o

/-- A line of a host target has its GO; after the last of a part the part has ended. -/
def Mach.xferLineGo (s : Mach) (r pos o : Nat) : Mach :=
  if s.hs.ops.any (fun q => q.use == .xferLine r pos o) then s
  else
    match s.xfer r pos with
    | none => s
    | some x => ((s.hostAccDone x.st (fun a => a.hook == .xferWrite r pos o)).partDone r pos o).finishXfers x.st

/-- Data of a read of a host operand, or an error. -/
def Mach.xferHostData (s : Mach) (r pos o : Nat) (target err : Bool) (l : List Byte) : Mach :=
  match s.xfer r pos with
  | none => s
  | some x =>
    let s := s.hostAccDone x.st (fun a => a.hook == .xferRead r pos o target)
    if err then s.failXfer r pos o .rderr else s.xferData r pos o target l

/-- The read-back of a host target (R352): other data sends the write again once, then FARERR. -/
def Mach.xferBack (s : Mach) (r pos : Nat) (same : Bool) : Mach :=
  match s.xfer r pos with
  | none => s
  | some x =>
    let s := s.hostAccDone x.st (fun a => a.hook == .xferBack r pos)
    if same || x.stop then (s.modXfer r pos (fun x => { x with backDone := true })).finishXfer r pos
    else if x.readBack = 0 then
      let s := s.modXfer r pos (fun x => { x with readBack := 1, cuts := x.wrote.map (fun p => (p.1, p.2.length)) })
      overList (fun s (p : Nat × List Byte) => s.xferWriteAt x p.1 p.2) s x.wrote
    else ((s.modXfer r pos (fun x => { x with backDone := true, fail := some .farerr })).finishXfer r pos)

/-! ## Starting -/

/-- Starts the XFER of a descriptor (R140, R144, R148). -/
def Mach.startXfer (s : Mach) (d : DescRef) (l : List W64) : Mach :=
  let st := xStation l
  let ch := 8 * st + 7
  -- a transfer that the descriptor fails for reaches no end of its byte count: its channel's entry is written, without
  -- the interrupt (R142)
  let stop := fun (s : Mach) (k : Status) => (s.chanNote ch k 0).complete ch d k 0 0
  let log := fun (s : Mach) (k : Status) (o v : Nat) => (s.logRing d.ring k o v)
  let mode : XferMode := match xMode l with
    | 0 => .copy
    | 1 => .fill
    | 2 => .compare
    | _ => .compareConst
  if xCount l = 0 then (s.chanEnd ch .empty 0).complete ch d .empty 0 0
  else if xPosted l && !s.testMode && !s.allIdle then stop (log s .violMode 28 (dBytes l 28 1)) .violMode
  else if !xDstHost l && s.targetBad (dAddr l) (xCount l) then stop (log s .violAddr 8 (dAddr l)) .violAddr
  else if xHasSrc l && !xSrcHost l && !s.allIdle && rangeInSram (xSrc l) (xCount l) then stop (log s .violAddr 16 (xSrc l)) .violAddr
  else if s.hs.att == .detached && (xDstHost l || (xHasSrc l && xSrcHost l)) then
    (s.chanEnd ch .hostloss (xCount l)).complete ch d .hostloss (xCount l) 0
  else
    let x : Xfer := { desc := d, st, mode, src := xSrc l, srcHost := xSrcHost l, dst := dAddr l, dstHost := xDstHost l
                      count := xCount l, cls := xClass l, posted := xPosted l, pattern := xPattern l }
    ((s.modHs (fun h => { h with xfers := h.xfers ++ [x] })).pumpXfer d.ring d.pos 16)

/-- The station whose field holds a fabric address (R343, R157). -/
def fieldStation (a : Nat) : Nat :=
  match Config.sramOfFabric a with
  | some x => fieldOf (x / 2 ^ 19)
  | none => faLocal a / Config.chunkBytes % 6

/-- INLINE (R343). -/
def Mach.startInline (s : Mach) (d : DescRef) (l : List W64) : Mach :=
  let n := fieldStation (dAddr l)
  let ch := 8 * n + 7
  if dLen l = 0 then (s.chanEnd ch .empty 0).complete ch d .empty 0 0
  else if s.targetBad (dAddr l) (dLen l) then
    ((s.logRing d.ring .violAddr 8 (dAddr l)).chanNote ch .violAddr 0).complete ch d .violAddr 0 0
  else
    s.queueAcc n { share := 1, cls := 1, chan := 7, ctx := d.ring / 4, cost := fabCost (dAddr l), addr := dAddr l
                   len := dLen l, data := placed (dAddr l) ((dLine l).drop 16 |>.take (dLen l)), write := true
                   hook := .inlineWrite d.ring d.pos }

/-- The write of an INLINE has its response: it completes once the channel's earlier writes have theirs. One whose
channel has been aborted ends with ABORTED (R143). -/
def Mach.inlineWritten (s : Mach) (n r pos : Nat) (err : Bool) : Mach :=
  let d : DescRef := { ring := r, pos }
  let st : Status := if err then .wrerr else if s.hs.inlCut.contains d then .aborted else .ok
  (s.modHs (fun h => { h with
    inlines := h.inlines ++ [(d, n, st)], inlCut := h.inlCut.filter (fun e => e != d) })).finishInlines n

/-- An abort of a channel 7 reaches its INLINEs: one whose write has not been issued ends with its length as residue, one
whose write is out ends with its response (R143). -/
def Mach.abortInlines (s : Mach) (n : Nat) : Mach :=
  let ch := 8 * n + 7
  let of_ := fun (a : Access) => match a.hook with
    | .inlineWrite r p => some ({ ring := r, pos := p } : DescRef)
    | _ => none
  let waiting := ((s.st n).acc.filterMap (fun a => (of_ a).map (fun d => (d, a.len))))
  let out := (s.st n).outst.filterMap of_
  let s := (s.modSt n (fun x => { x with acc := x.acc.filter (fun a => (of_ a).isNone) })).modHs (fun h => { h with
    inlCut := h.inlCut ++ out
    inlines := h.inlines.map (fun q => if q.2.1 = n ∧ q.2.2 = .ok then (q.1, q.2.1, Status.aborted) else q) })
  overList (fun s (p : DescRef × Nat) => (s.chanEnd ch .aborted p.2).complete ch p.1 .aborted p.2 0) s waiting

/-! ## Aborts (R143) -/

/-- A plan task's transfer is aborted: the task fails with ABORTED, and its channel shows the residue at its end. -/
def Mach.abortChanTask (s : Mach) (n : Nat) (t : Task) : Mach :=
  match t.kind with
  | .fetch => s.failFetch n t .aborted 0 0
  | .demote => s.failDemotion n t .aborted 0 0 true
  | .stash => s.failSend n t .aborted
  | .recall => s.failSend n t .aborted
  | _ => s

/-- A task has transfers on a channel: on its own, or a demotion on that of its sends once it has some (R132). -/
def Task.onChan (t : Task) (k : Nat) : Bool := t.chan == k || (t.chan2 == k && decide (0 < t.sendsQueued))

end Sys2Proof.Machine
end

