-- ==== Sys2Proof/Machine/Sync.lean ====
section
/-!
DEFINITION. Synchronisation: the cell-write path (R59, R310, R323), core waits (R309), semaphore operations
(R311–R318), SEM_ADJ and SEM_WAKE (R320, R321), the semaphore image (R326–R328).
-/
namespace Sys2Proof.Machine

/-! ## The cell-write path (R59, R323) -/

/-- Tickets of a segment and slot that have not landed at a station. -/
def Station.ticketsLeft (x : Station) (t : Ticket) : Bool :=
  let same := fun (u : Ticket) => u.ctx == t.ctx && u.segix == t.segix && u.mb == t.mb
  x.cellq.any (isTicketOf same) || x.ticketHeld.any (fun p => same p.1)

/-- A ticket lands in its core's task queue; with the last one the segment's ticket has been posted (R56). -/
def Mach.landTicket (s : Mach) (n : Nat) (t : Ticket) : Mach :=
  let s := { s with ticketsOut := s.ticketsOut ++ [t] }
  if (s.st n).ticketsLeft t then s else s.markTicketed t.ctx t.segix t.mb

/-- Issues the next item of a station's cell-write path. -/
def Mach.cellIssue (s : Mach) (n : Nat) (full : Bool) : Mach :=
  if (s.st n).pwr != .active then s
  else
    match (s.st n).cellq with
    | [] => s
    | i :: is =>
      let s := s.modSt n (fun x => { x with cellq := is })
      match i with
      | .ticket t last =>
        if full || (s.st n).ticketHeld.any (fun p => p.1.core == t.core) then
          s.modSt n (fun x => { x with ticketHeld := holdTicket x.ticketHeld (t, last) })
        else s.landTicket n t
      | _ => s.modSt n (fun x => { x with cellFly := x.cellFly ++ [i] })

/-- The first held ticket of a core is retried. A retry counts the 16 sclk since the last try under TICKET_WAIT, once
for its stage however many of the stage's tickets are held (R59, R165; log entry 64). -/
def Mach.ticketRetry (s : Mach) (n core : Nat) (full : Bool) : Mach :=
  let held := (s.st n).ticketHeld
  match findIx (fun (p : Ticket × Bool) => p.1.core == core) held 0 with
  | none => s
  | some (i, p) =>
    let first := match held.find? (fun q => q.1.ctx == p.1.ctx && q.1.stage == p.1.stage) with
      | some q => q.1.core == core
      | none => true
    let s := if first then s.addStall p.1.ctx p.1.stage causeTicketWait 16 [s.stallThr p.1.ctx causeTicketWait] else s
    if full then s
    else (s.modSt n (fun x => { x with ticketHeld := x.ticketHeld.eraseIdx i })).landTicket n p.1

def CellItem.core : CellItem → Nat
  | .add c _ _ _ => c
  | .err c _ _ => c
  | .ticket t _ => t.core

/-- The oldest cell write in flight to a core lands (R310, R324). -/
def Mach.cellLand (s : Mach) (n core : Nat) : Mach :=
  match findIx (fun (i : CellItem) => i.core == core) (s.st n).cellFly 0 with
  | none => s
  | some (k, i) =>
    let s := s.modSt n (fun x => { x with cellFly := x.cellFly.eraseIdx k })
    match i with
    | .add c cell m src => s.cellAdd n c cell m src
    | .err c cell st => s.cellErr n c cell st
    | .ticket _ _ => s

/-- R309: a wait completes when ERR is 1 or COUNT is at least 1. -/
def Mach.cellWait (s : Mach) (core k : Nat) : Mach :=
  let x := s.cell core k
  let ret := fun (s : Mach) (v : Nat) => { s with waitDone := aset none s.waitDone core (some v) }
  if x.err then ret (s.setCell core k { x with err := false, status := 0 }) x.status
  else if 1 ≤ x.count then ret (s.setCell core k { x with count := x.count - 1 }) Status.ok.code
  else s

/-! ## Semaphore operations (R311–R318) -/

/-- Operations of the context are held while a capture of it writes its first sections (R403), and while CTX_SAVE runs
(R326). -/
def Mach.opsHeld (s : Mach) (c : Nat) : Bool :=
  (s.ctx c).saving.isSome || match (s.ctx c).capture with
  | some k => k.ph == .early && !k.snapshot
  | none => false

/-- R316, in byte order of what its list names: the offending field's offset and value. -/
def Mach.semFault (s : Mach) (poster : Nat) (w0 w1 : W64) : Option (Nat × Nat) :=
  let op := soOp w0
  let c := soCtx w0
  let arr := op == opArrive
  firstBadField [
    (op == 0 || decide (opTake < op), 0, op),
    (decide (Config.nStation ≤ soStation w0), 0, soStation w0),
    (soRsvd0 w0 != 0, 7, soRsvd0 w0),
    (soRsvd31 w1 != 0, 11, soRsvd31 w1),
    (soRsvd1 w1 != 0, 13, soRsvd1 w1),
    (soSem w0 / 2048 != c, 1, soSem w0),
    ((s.ctx c).state == .idle, 0, c),
    (soCore w0 != poster, 5, soCore w0),
    (arr && soN w0 == 0, 2, 0),
    (arr && soThresh w1 == 0, 8, 0),
    (arr && (soTcount w1 == 0 || decide (Config.coresPerField < soTcount w1)), 12, soTcount w1),
    (arr && decide (Config.nCore < soTcore w1 + soTcount w1), 10, soTcore w1),
    (op == opSignal && soCell w0 != 0, 4, soCell w0),
    (!arr && soTcount w1 != 0, 12, soTcount w1),
    (!arr && soTcore w1 != 0, 10, soTcore w1),
    (!arr && soThresh w1 != 0, 8, soThresh w1)]

/-- SEMOVER and SEMUNDER carry the operation's fields as its bytes 0–7. -/
def Mach.logSem (s : Mach) (n : Nat) (st : Status) (o : HeldOp) (found : Nat) : Mach :=
  s.logv { status := st, src := srcStation, unit := n, ctx := some (soCtx o.w0), core := o.core, value := o.w0.toNat
           aux0 := found }

/-- The releases of an ARRIVE: `k` times +1 into the cell of every target (R314). -/
def Mach.releases (s : Mach) (n : Nat) (o : HeldOp) : Nat → Mach
  | 0 => s
  | k + 1 =>
    Mach.releases (overList (fun s i => s.cellPush n (.add (soTcore o.w1 + i) (soCell o.w0) 1 n)) s
      (List.range (soTcount o.w1))) n o k

/-- Applies an operation at its semaphore's station. -/
def Mach.semApply (s : Mach) (n : Nat) (o : HeldOp) : Mach :=
  let i := soSem o.w0
  let amount := soN o.w0
  if soOp o.w0 = opTake then
    let v := s.sem n i
    if amount ≤ v then (s.setSem n i (v - amount)).cellPush n (.add o.core (soCell o.w0) 1 n)
    else (s.logSem n .semunder o v).cellPush n (.err o.core (soCell o.w0) .semunder)
  else
    match s.semInc n i amount with
    | none => s.logSem n .semover o 0
    | some s =>
      if soOp o.w0 = opArrive then
        let v := s.sem n i
        (s.setSem n i (v % soThresh o.w1)).releases n o (v / soThresh o.w1)
      else s

/-- An earlier operation of a core is held at some station (R312). -/
def Mach.coreHeld (s : Mach) (core : Nat) : Bool := (List.range 6).any (fun n => (s.st n).held.any (fun h => h.core == core))

/-- An operation that may not be applied yet: its station sleeps, its context's operations are held, or an earlier
one of its core is held. -/
def Mach.semBlocked (s : Mach) (n : Nat) (o : HeldOp) : Bool :=
  (s.st n).pwr != .active || s.opsHeld (soCtx o.w0) || s.coreHeld o.core

def Mach.semHold (s : Mach) (n : Nat) (o : HeldOp) : Mach :=
  (s.wakeStation n).modSt n (fun x => { x with held := x.held ++ [o] })

/-- An operation at its semaphore's station: held where it sleeps, and while its context's operations are held. -/
def Mach.semAt (s : Mach) (n : Nat) (o : HeldOp) : Mach :=
  if (s.st n).pwr != .active || s.opsHeld (soCtx o.w0) then s.semHold n o else (s.wakeStation n).semApply n o

/-- An operation at the posting core's station: judged, and applied or forwarded (R312, R316). -/
def Mach.semArrive (s : Mach) (n : Nat) (o : HeldOp) : Mach :=
  if s.semBlocked n o then s.semHold n o
  else
    match s.semFault o.core o.w0 o.w1 with
    | some f =>
      (s.wakeStation n).logv { status := .violSem, src := srcStation, unit := n, ctx := some (soCtx o.w0), foff := f.1
                               value := f.2, core := o.core }
    | none => (s.wakeStation n).semAt (soStation o.w0) o

/-- A core posts an operation (R311, R383). -/
def Mach.semPost (s : Mach) (core : Nat) (w0 w1 : W64) : Mach :=
  let n := fieldOf core
  if (s.st n).pwr == .off then s.dropPost else s.semArrive n { core, w0, w1 }

/-- Held operations are applied as far as they may be, at each station in their order of arrival: first those that are at
their semaphore's station, then those still to be forwarded there. No operation of a core passes an earlier one
(R312, R326, R370). -/
def Mach.releaseAll (s : Mach) : Mach :=
  let own := fun (n : Nat) (o : HeldOp) => fieldOf o.core == n
  let pass := fun (now : Nat → HeldOp → Bool) (s : Mach) => overList (fun s n =>
    overList (fun s o =>
      if !now n o then s.modSt n (fun x => { x with held := x.held ++ [o] })
      else if own n o then s.semArrive n o
      else s.semAt n o) (s.modSt n (fun x => { x with held := [] })) (s.st n).held) s (List.range 6)
  pass own (pass (fun n o => !own n o || soStation o.w0 == n) s)

/-- The operation of a core, when its OP is `op` or no operation's at all. -/
def Mach.semCommand (s : Mach) (op core : Nat) (w0 w1 : W64) : Mach :=
  if soOp w0 = op ∨ soOp w0 = 0 ∨ opTake < soOp w0 then s.semPost core w0 w1 else s

/-! ## SEM_ADJ and SEM_WAKE (R320, R321) -/

def Mach.semAdj (s : Mach) (d : DescRef) (l : List W64) : Mach :=
  let c := d.ring / 4
  let i := dBytes l 16 2
  let n := dBytes l 18 1
  let raw := dBytes l 20 4
  let a := sext raw 32
  let v := s.sem n i
  if (v : Int) + a < 0 then
    (s.logv { status := .semunder, src := srcRing, unit := d.ring, ctx := some c, foff := 20, value := raw, aux0 := v
            }).completeCtx d .semunder v
  else if 65535 < (v : Int) + a then (s.logRing d.ring .semover 20 raw).completeCtx d .semover v
  else if a < 0 then (s.setSem n i ((v : Int) + a).toNat).completeCtx d .ok ((v : Int) + a).toNat
  else
    match s.semInc n i a.toNat with
    | some s => s.completeCtx d .ok (s.sem n i)
    | none => s.completeCtx d .semover v

/-- Wakes every engine that waits on a semaphore with SEMCANCEL: their stash tasks end (R117, R391). -/
def Mach.wakeSem (s : Mach) (d : DescRef) (l : List W64) : Mach :=
  let i := dBytes l 18 2
  let n := dBytes l 17 1
  let ws := ((s.st n).engines.filter (fun p => p.2.waiting == some i)).filterMap (fun p => p.2.task)
  let s := overList (fun s id => match s.task n id with
    | some t => s.failSend n t .semcancel
    | none => s) s ws
  s.completeCtx d .ok ws.length

def Mach.wakeCell (s : Mach) (d : DescRef) (l : List W64) : Mach :=
  let core := dBytes l 20 2
  let k := dBytes l 22 1
  (s.cellErr (fieldOf core) core k .semcancel).completeCtx d .ok 0

/-! ## The semaphore image (R326–R328) -/

/-- An event of the context's next step has arrived (R17). -/
def Mach.nextArrived (s : Mach) (c : Nat) : Bool :=
  (List.range 6).any (fun n => (s.st n).evq.any (fun e => evCtx e.w0 == c))

def cellWord (x : Cell) : Nat := wordN [(x.count, 0), (x.status, 16), (b2n x.err, 24)]

def imgMagic : Nat := 0x4D535A55

/-- Stage cores of the active plan, in stage-table order. -/
def Mach.stageCores (s : Mach) (c : Nat) : List Nat := ((s.plan c).map Plan.allCores).getD []

/-- The image with its CRC field 0. -/
def Mach.semImage0 (s : Mach) (c : Nat) : List Byte :=
  let cores := s.stageCores c
  leBytes 4 imgMagic ++ leBytes 1 c ++ leBytes 3 0 ++ leBytes 8 (s.ctx c).step.toNat ++ leBytes 4 cores.length ++
    leBytes 4 (24640 + 132 * cores.length) ++ leBytes 40 0 ++
    ((List.range 6).flatMap (fun n => (List.range 2048).flatMap (fun i => leBytes 2 (s.sem n (2048 * c + i))))) ++
    cores.flatMap (fun k => leBytes 4 k ++ (List.range 32).flatMap (fun i => leBytes 4 (cellWord (s.cell k i))))

def Mach.semImage (s : Mach) (c : Nat) : List Byte :=
  let l := s.semImage0 c
  splice l 60 (leBytes 4 (crc32c l).toNat)

/-- CTX_SAVE: the image goes out as class 2 traffic on channel 7 of S0. Its semaphores and cells are taken as the command
starts (DESIGN CHOICE, log entry 134). -/
def Mach.ctxSave (s : Mach) (d : DescRef) (l : List W64) : Mach :=
  let c := d.ring / 4
  let x := s.ctx c
  if !(x.state == .idle || (x.state == .armed && !s.nextArrived c)) then s.refuse d .ctxBusy 0
  else if dAddr l % 64 ≠ 0 then (s.logRing d.ring .violAddr 8 (dAddr l)).completeCtx d .violAddr 0
  else
    let img := s.semImage c
    overList (fun s (p : Nat × List Byte) => s.queue2 0 1 c p.1 p.2 (.ctxSave c))
      (s.modCtx c (fun x => { x with saving := some (d, img.length) })) (cut4k (img.length / 4096 + 2) (dAddr l) img)

/-- CTX_SAVE is over: its descriptor completes and the held operations go on (R326). -/
def Mach.saveEnds (s : Mach) (c : Nat) (st : Status) : Mach :=
  match (s.ctx c).saving with
  | none => s
  | some p => ((s.modCtx c (fun x => { x with saving := none })).completeCtx p.1 st (if st == .ok then p.2 else 0)).releaseAll

/-- A write of the image is answered. One that has failed is logged, and the descriptor completes as R326 states (DESIGN
CHOICE, log entry 134). -/
def Mach.saveWritten (s : Mach) (c : Nat) : Mach :=
  if s.pendingHook (· == .ctxSave c) || (s.st 0).isCut (8 * c + 6) then s else s.saveEnds c .ok

/-- What R328 rejects of an image. -/
def imageBad (c : Nat) (l : List Byte) (cores : List Nat) : Bool :=
  let tot := 24640 + 132 * cores.length
  rdNat l 0 4 != imgMagic || rdNat l 4 1 != c || rdNat l 5 3 != 0 || rdNat l 16 4 != cores.length || rdNat l 20 4 != tot ||
    rdNat l 24 36 != 0 || rdNat l 60 4 != (crc32c (splice (l.take tot) 60 (leBytes 4 0))).toNat ||
    ((List.range cores.length).zip cores).any (fun p =>
      rdNat l (24640 + 132 * p.1) 4 != p.2 ||
        (List.range 32).any (fun i => 2 ^ 25 ≤ rdNat l (24640 + 132 * p.1 + 4 + 4 * i) 4))

/-- CTX_RESTORE. -/
def Mach.ctxRestore (s : Mach) (mem : Mems) (d : DescRef) (l : List W64) : Mach :=
  let c := d.ring / 4
  let x := s.ctx c
  if x.state != .idle || x.act.plan.isNone then s.refuse d .ctxBusy 0
  else if dAddr l % 64 ≠ 0 then (s.logRing d.ring .violAddr 8 (dAddr l)).completeCtx d .violAddr 0
  else
    let cores := s.stageCores c
    let img := fabReads mem (dAddr l) (24640 + 132 * cores.length)
    if imageBad c img cores then s.refuse d .ctxImage 0
    else
      let s := overList (fun s n => overList (fun s i =>
        s.setSem n (2048 * c + i) (rdNat img (64 + 4096 * n + 2 * i) 2)) s (List.range 2048)) s (List.range 6)
      let s := overList (fun s (p : Nat × Nat) => overList (fun s i =>
        let v := rdNat img (24640 + 132 * p.1 + 4 + 4 * i) 4
        s.setCell p.2 i { err := bit v 24, status := natBits v 23 16, count := natBits v 15 0 }) s (List.range 32)) s
        ((List.range cores.length).zip cores)
      s.completeCtx d .ok 0

/-! ## The commands -/

/-- CELL_WRITE_PATH_ISSUE (R59, R323). -/
def execCellWritePathIssue (st : Nat) (full : Bool) (s : State) : Out :=
  act (.cellWritePathIssue st full) s (fun _ m => m.cellIssue st full)

/-- TICKET_RETRY (R59). -/
def execTicketRetry (st core : Nat) (full : Bool) (s : State) : Out :=
  act (.ticketRetry st core full) s (fun _ m => m.ticketRetry st core full)

/-- CELL_WRITE_LAND (R310, R324). -/
def execCellWriteLand (st core : Nat) (s : State) : Out :=
  act (.cellWriteLand st core) s (fun _ m => m.cellLand st core)

/-- CELL_WAIT (R309). -/
def execCellWait (core cell : Nat) (s : State) : Out :=
  act (.cellWait core cell) s (fun _ m => m.cellWait core cell)

/-- SIGNAL (R313, R316–R318). -/
def execSignal (core : Nat) (w0 w1 : W64) (s : State) : Out :=
  act (.signal core w0 w1) s (fun _ m => m.semCommand opSignal core w0 w1)

/-- ARRIVE (R314, R316–R318). -/
def execArrive (core : Nat) (w0 w1 : W64) (s : State) : Out :=
  act (.arrive core w0 w1) s (fun _ m => m.semCommand opArrive core w0 w1)

/-- TAKE (R315, R316). -/
def execTake (core : Nat) (w0 w1 : W64) (s : State) : Out :=
  act (.take core w0 w1) s (fun _ m => m.semCommand opTake core w0 w1)

/-- A descriptor that needs a station waits while the stations are OFF (R383). -/
def Mach.startAwake (s : Mach) (r op : Nat) (p : List W64 → Bool) (f : Mach → DescRef → List W64 → Mach) : Mach :=
  if s.shed.off then s else s.startDesc r op p f

/-- SEM_ADJ (R320). -/
def execSemAdj (r : Nat) (s : State) : Out :=
  act (.semAdj r) s (fun _ m => m.startAwake r opSemAdj anyDesc Mach.semAdj)

/-- SEM_WAKE with FORM 0 (R321). -/
def execSemWakeSemaphore (r : Nat) (s : State) : Out :=
  act (.semWakeSemaphore r) s (fun _ m => m.startAwake r opSemWake (fun l => dBytes l 16 1 % 2 == 0) Mach.wakeSem)

/-- SEM_WAKE with FORM 1 (R321). -/
def execSemWakeCell (r : Nat) (s : State) : Out :=
  act (.semWakeCell r) s (fun _ m => m.startAwake r opSemWake (fun l => dBytes l 16 1 % 2 == 1) Mach.wakeCell)

/-- CTX_SAVE (R326, R327). One waits while another of its context runs. -/
def execCtxSave (r : Nat) (s : State) : Out :=
  act (.ctxSave r) s (fun _ m =>
    if (m.ctx (r / 4)).saving.isSome then m else m.startAwake r opCtxSave anyDesc Mach.ctxSave)

/-- CTX_RESTORE (R328). -/
def execCtxRestore (r : Nat) (s : State) : Out :=
  act (.ctxRestore r) s (fun mem m => m.startAwake r opCtxRestore anyDesc (fun m d l => m.ctxRestore mem d l))

end Sys2Proof.Machine
end

