-- ==== Sys2Proof/Machine/Plans.lean ====
section
/-!
DEFINITION. Plans: installing (R71, R72, R75), arming (R73, R238, R262, R269, R290, R443), withdrawing (R74) and
swapping the sets (R89–R97); and the descriptors that act at once: NOP, STEP_ABORT, XFER, INLINE.
-/
namespace Sys2Proof.Machine

/-! ## Installing -/

/-- R72's busy cases. -/
def Mach.installBusy (s : Mach) (i : Install) : Bool :=
  let x := s.ctx i.ctx
  if i.shadow then x.swap.isSome || x.withdraw.isSome else x.state != .idle

/-- Fields of an image: start and width, from the start of their table row. -/
def rowFields : Nat → List (Nat × Nat)
  | 0 => [(0, 8), (8, 4), (12, 4), (16, 4), (20, 4), (24, 8), (32, 8), (40, 8), (48, 8), (56, 8), (64, 2), (66, 2), (68, 2),
      (70, 2), (72, 2), (74, 2), (76, 4), (80, 2), (82, 2), (84, 2), (86, 2), (88, 2), (90, 2)]
  | 1 => [(0, 1), (1, 1), (2, 1), (3, 1), (4, 4), (8, 4), (12, 2), (14, 1), (15, 1), (16, 8), (24, 4), (28, 2), (30, 2), (32, 2)]
  | 2 => [(0, 4), (4, 2), (6, 1), (7, 1), (8, 1), (9, 1), (10, 2), (12, 2), (14, 2), (16, 2), (18, 2), (20, 2), (22, 2), (24, 4),
      (28, 4), (32, 4), (36, 4), (40, 2), (42, 1), (43, 1), (44, 2)]
  | 3 => [(0, 4), (4, 2), (6, 2), (8, 2), (10, 2), (12, 4)]
  | 4 => [(0, 1), (1, 1), (2, 2), (4, 4), (8, 8), (16, 8), (24, 8)]
  | 5 => [(0, 2), (2, 2), (4, 3), (7, 1)]
  | _ => [(0, 4)]

/-- Fields of the header. -/
def headFields : List (Nat × Nat) :=
  [(0, 4), (4, 2), (6, 2), (8, 4), (12, 1), (120, 4), (124, 4)] ++ (List.range 24).map (fun i => (24 + 4 * i, 4))

/-- The value of the field of an image at an offset: as wide as its table gives, a byte where the offset begins no
field, an instruction or an offset entry in a program section. -/
def Ld.fieldAt (x : Ld) (o : Nat) : Nat :=
  let inTable := fun (i : Nat) => decide (x.secOff i ≤ o) && decide (o < x.secOff i + x.secLen i)
  let width := fun (l : List (Nat × Nat)) (k : Nat) => ((l.find? (fun p => p.1 == k)).map (·.2)).getD 1
  if o < 128 then x.u o (width headFields o)
  else
    match (List.range 12).find? inTable with
    | none => x.u o 1
    | some i =>
      let k := o - x.secOff i
      if i < 6 then x.u o (width (rowFields i) (k % secSize i))
      else if k = 0 then x.u o 4
      else if k < 4 + 2 * x.u (x.secOff i) 4 then x.u o 2
      else x.u o 8

/-- A refused install is logged by the loader, with the field that failed, and completed with its offset and the
check's order (R75, R342). -/
def Mach.refuseInstall (s : Mach) (i : Install) (st : Status) (off : Option Nat) (value order : Nat) : Mach :=
  (s.logv { status := st, src := srcLoader, ctx := some i.ctx, foff := off.getD 0xFFFFFFFF, value }).complete rankLoader
    i.desc st (off.getD 0) order

/-- The loader takes the next install; it judges the busy cases (R72) and reads the image's header at S0 (R76). `fuel`
bounds those waiting. -/
def Mach.takeInstall (s : Mach) : Nat → Mach
  | 0 => s
  | fuel + 1 =>
    match s.hs.loaderCur, s.hs.loaderQ with
    | none, i :: is =>
      let s := s.modHs (fun h => { h with loaderQ := is })
      if s.installBusy i then Mach.takeInstall (s.refuseInstall i .ldrBusy none 0 0) fuel
      else
        let s := s.wakeStation 0
        -- an image that is refused at order 1 for its base is not read
        if i.addr % 4096 = 0 ∧ s.fabAddr i.addr = i.addr ∧ i.addr % 2 ^ 48 + 128 ≤ Config.hbmBytes then
          (s.modHs (fun h => { h with loaderCur := some i })).read2 0 i.ctx i.addr 128 .loadRead
        else s.modHs (fun h => { h with loaderCur := some { i with ph := .body } })
    | _, _ => s

/-- The next install is taken, past those that are refused at once. -/
def Mach.nextInstall (s : Mach) : Mach := s.takeInstall (s.hs.loaderQ.length + 1)

def Mach.planInstall (s : Mach) (d : DescRef) (l : List W64) : Mach :=
  let i : Install := { desc := d, addr := dAddr l, ctx := d.ring / 4, shadow := dBytes l 16 1 % 2 == 1 }
  (s.modHs (fun h => { h with loaderQ := h.loaderQ ++ [i] })).nextInstall

/-- The slot takes the plan. -/
def Mach.placePlan (s : Mach) (i : Install) (p : Plan) : Mach :=
  if i.shadow then s.modCtx i.ctx (fun x => { x with shd := { x.shd with plan := some p } })
  else
    let old := s.plan i.ctx
    (s.modCtx i.ctx (fun x => { x with act := { x.act with plan := some p } })).changeRegion i.ctx old (some p)

/-- What the loader has read of an image. -/
def Install.ld (i : Install) (s : Mach) : Ld := { s, fab := memWrites [] i.image, c := i.ctx, base := i.addr }

/-- A piece of the image is here; after the header the rest is read (R76). A piece that could not be read is free
values, and the image is judged by them (log entry 102). -/
def Mach.loadReturned (s : Mach) (a : Access) (l : List Byte) (err : Bool) : Mach :=
  match s.hs.loaderCur with
  | none => s
  | some i =>
    let l := if err then (List.range a.len).map (fun k => Config.freeByte s.freeNo (a.addr + k)) else l
    let s := if err then { (s.logv { status := .rderr, src := srcLoader, ctx := some i.ctx, addr := a.addr }) with
        freeNo := s.freeNo + 1 } else s
    let i := { i with image := i.image ++ placed a.addr l }
    if i.ph != .head || (s.st 0).isCut 5 then s.modHs (fun h => { h with loaderCur := some i })
    else
      let x := i.ld s
      let n := if x.totOk && decide (i.addr % 2 ^ 48 + x.totLen ≤ Config.hbmBytes) then x.totLen else 128
      let first := min 4096 n - 128
      let rest := (List.range (n / 4096)).map (fun k => (4096 * (k + 1), min 4096 (n - 4096 * (k + 1))))
      overList (fun (s : Mach) (p : Nat × Nat) => if p.2 = 0 then s else s.read2 0 i.ctx (i.addr + p.1) p.2 .loadRead)
        (s.modHs (fun h => { h with loaderCur := some { i with ph := .body } })) ((128, first) :: rest)

/-- An install ends with its plan placed. -/
def Mach.installDone (s : Mach) (i : Install) : Mach :=
  ((s.modHs (fun h => { h with loaderCur := none })).complete rankLoader i.desc .ok 0 0).nextInstall

/-- No write of the bed table of a context's region is left: an install that waited for it completes (R282). -/
def Mach.regionReady (s : Mach) (c : Nat) : Mach :=
  let s := s.modCtx c (fun x => { x with opening := false })
  match s.hs.loaderCur with
  | some i => if i.ctx = c ∧ i.ph = .beds then s.installDone i else s
  | none => s

/-- The verification of the image taken ends (R71, R72, R75), once all of it is read. The install completes once the
region of its plan is in service (R282). -/
def Mach.installVerified (s : Mach) : Mach :=
  match s.hs.loaderCur with
  | none => s
  | some i =>
    if (s.st 0).pwr != .active || i.ph != .body || s.pendingHook (· == .loadRead) then s
    else
      let x := i.ld s
      let refused := fun (s : Mach) => (s.modHs (fun h => { h with loaderCur := none })).nextInstall
      match runChecks x loaderChecks with
      | some (st, off, order) => refused (s.refuseInstall i st (some off) (x.fieldAt off) order)
      | none =>
        if s.installBusy i then refused (s.refuseInstall i .ldrBusy none 0 0)
        else
          let s := s.placePlan i x.plan
          if (s.ctx i.ctx).opening && !i.shadow then
            s.modHs (fun h => { h with loaderCur := some { i with ph := .beds, image := [] } })
          else s.installDone i

/-! ## What a plan sets up -/

/-- The sequencer image's header is read, as class 2 traffic on channel 7 of S0 (R451). -/
def Mach.seqStart (s : Mach) : Mach :=
  (s.modHs (fun h => { h with seqLoading := true, seqImage := [] })).read2 0 0 (s.fabAddr 0) 64 .seqRead

/-- The program sections of a plan are loaded into the stations that are home to its stages, which wakes them (R370), or
given back. What is loaded is free of errors (R395). -/
def Mach.loadProgs (s : Mach) (c : Nat) (p : Option Plan) : Mach :=
  overList (fun s n =>
    let code := ((p.map (fun p => p.progs)).getD [])[n]?.getD []
    (if code.isEmpty then s else s.wakeStation n).modSt n (fun x => { x with
      progMem := aset [] x.progMem c code, progEcc := x.progEcc.filter (fun p => p.1 / 2 ^ 24 != c) })) s (List.range 6)

/-- Entry (step mod 2) of the seed table of every stage core takes the seed of a step (R238). -/
def Mach.writeSeeds (s : Mach) (c : Nat) (step : W64) : Mach :=
  match s.plan c with
  | none => s
  | some p =>
    overList (fun s (e : StageEntry) =>
      let v := stageSeed p.glob.jobSeed step e.stage
      overList (fun (s : Mach) core =>
        { s with seeds := aset 0 s.seeds (8 * core + 2 * c + step.toNat % 2) v }) s e.cores) s p.stages

def Mach.applyStep0 (s : Mach) (c : Nat) (arm : Bool) : Mach :=
  s.modCtx c (fun x => { x with step := s.step0 c arm, armedOnce := x.armedOnce || arm })

/-- UZ_TEL_STAT (R257, R262, R447): 0 READY, 1 NONE, 2 SMALL. -/
def ConfigSet.telState (k : ConfigSet) : Nat :=
  let size := k.telSize.toNat
  if size < 0x12000 || decide (Config.hbmBytes < k.telBase.toNat + size) then 1
  else if size < 0x12000 + 128 * ((k.plan.map (fun p => p.entries.length)).getD 0) then 2
  else 0

/-- BADREGION (R269, R447). -/
def Mach.reserveBad (s : Mach) (c : Nat) : Bool :=
  let x := (s.ctx c).act
  let a := s.fabAddr x.rplBase.toNat
  let n := x.rplSize.toNat
  let hits := fun b m => overlap a n b m
  decide (n < 393216) || decide (Config.hbmBytes < x.rplBase.toNat + n) ||
  (List.range 4).any (fun d =>
    (s.plansOf d).any (fun p =>
      hits p.addr p.totLen || hits p.glob.poolBase (Config.chunkBytes * p.glob.poolChunks) ||
        hits p.glob.guestBase p.glob.guestSize || p.stages.any (fun e => hits e.ledgerBase (64 * e.ledgerCap))) ||
    [(s.ctx d).act, (s.ctx d).shd].any (fun k => hits (s.fabAddr k.telBase.toNat) k.telSize.toNat) ||
    (d != c && hits (s.fabAddr (s.ctx d).act.rplBase.toNat) (s.ctx d).act.rplSize.toNat))

/-- The areas are judged at arm and at each exchange. A capture whose reserve has moved, has become bad or is no longer
asked for stops; a reserve whose BADREGION clears, whose capture has been enabled, or whose plan is exchanged is EMPTY,
unless it is FROZEN or about to be (R262, R269, R270, R272). -/
def Mach.checkAreas (s : Mach) (c : Nat) (before : ConfigSet) (newPlan : Bool) : Mach :=
  let k := (s.ctx c).act
  let wasBad := (s.ctx c).reserve.badRegion
  let bad := s.reserveBad c
  let moved := before.rplBase != k.rplBase || before.rplSize != k.rplSize
  let capEn := fun (k : ConfigSet) => W64.bits k.rplCtl 0 0 == 1
  let telMoved := before.telBase != k.telBase || before.telSize != k.telSize
  let s := s.modCtx c (fun x => { x with
    tel := { x.tel with st := k.telState }
    amax := if telMoved then x.amax.map (fun p => (p.1, { p.2 with loaded := false })) else x.amax })
  let s := if s.capturing c && (moved || bad || !capEn k) then s.stopCapture c else s
  let s := s.modCtx c (fun x => { x with reserve := { x.reserve with badRegion := bad } })
  let r := (s.ctx c).reserve
  let kept := r.state == .frozen || (r.closing && r.freezeReq)
  if !kept && (newPlan || (((wasBad && !bad) || (!capEn before && capEn k)) && r.state != .capturing)) then
    (s.dropWaiting (Hook.capOf c)).setReserve c (fun r => k.fresh r .empty)
  else if r.state == .empty then s.setReserve c (fun r => k.fresh r .empty)
  else s

/-- The run data of a step that has ended, or of a plan that has gone. -/
def Ctx.clearRun (x : Ctx) : Ctx :=
  { x with stages := [], ticketed := [], sentFired := [], dlPosted := 0, farPtr := [], farFull := [], demoteOn := false
           replayPtr := [] }

/-! ## Swaps -/

/-- A swap of one context of a CFG_SWAP has been performed or refused; with the last the descriptor completes (R91). -/
def Mach.swapEnds (s : Mach) (c : Nat) (d : DescRef) (st : Status) (detail : Nat) : Mach :=
  let s := s.modCtx c (fun x => { x with swap := none, swapLast := st, swapDone := true })
  let s := if st == .ok then s else s.logv { status := st, src := srcGate, ctx := some c }
  let mark := fun (x : SwapDesc) => { x with
    open_ := x.open_.filter (· != c)
    refused := if st == .ok then x.refused else
      match x.refused with
      | some r => if c < r.1 then some (c, st, detail) else some r
      | none => some (c, st, detail) }
  let s := s.modHs (fun h => { h with swapDescs := modWhere (fun x => x.desc == d) mark h.swapDescs })
  match s.hs.swapDescs.find? (fun x => x.desc == d) with
  | none => s
  | some x =>
    if !x.open_.isEmpty then s
    else
      let s := s.modHs (fun h => { h with swapDescs := h.swapDescs.filter (fun y => y.desc != d) })
      match x.refused with
      | none => s.completeCtx d .ok 0
      | some (k, st, detail) => s.completeCtx d st (k * 2 ^ 16 + detail)

/-- The header that the loader verified still stands in HBM (R92). It is looked at as it stands, without a read on a channel,
tokens or a response: R92 and R95 do not say how it is read (DESIGN CHOICE, log entry 41). -/
def Plan.unchanged (p : Plan) (mem : Mems) : Bool := memReads mem.fab p.addr 128 == p.header

/-- A CLAIM that is still to be answered is of no use any more. -/
def Mach.claimsOld (s : Mach) (c : Nat) (swap : Bool) : Mach :=
  s.modLodge (fun x => { x with reqs := x.reqs.map (fun r => match r.use with
    | .claim d _ w => if d = c && w == swap then { r with use := .claimOld c } else r
    | _ => r) })

/-- The claims of an arm or a swap are given up: those made and the one asked for (R290). -/
def Mach.dropClaims (s : Mach) (c : Nat) (swap : Bool) : Mach :=
  let k := if swap then (s.ctx c).swapClaiming else (s.ctx c).claiming
  ((s.sendUnclaims c ((k.map (fun k => k.acked)).getD [])).claimsOld c swap).modCtx c (fun x =>
    if swap then { x with swapClaiming := none } else { x with claiming := none })

/-- R95's work for a plan exchange: programs, STEP0, seeds, the region, and the replaced plan's claims (R93, R302). It
does all that an arm still under way has to do, and completes it. A REPLAY that has been accepted stands, here and at a
withdrawal (DESIGN CHOICE, log entry 132). -/
def Mach.adoptPlan (s : Mach) (c : Nat) (old : Option Plan) (claims : List ReqClaim) : Mach :=
  let gone := (s.ctx c).claims
  let arm := if (s.ctx c).arming then (s.ctx c).claiming else none
  let s := (s.dropClaims c false).modCtx c (fun x => { x with
    claims, swapClaiming := none, arming := false, lostTiers := [], regained := [], farLost := false, farPtr := []
    farFull := [], extra := [], amax := [] })
  let s := (s.loadProgs c (s.plan c)).applyStep0 c arm.isSome
  let s := (s.writeSeeds c (s.ctx c).step).writeSeeds c ((s.ctx c).step + 1)
  let s := (s.changeRegion c old (s.plan c)).sendUnclaims c gone
  match arm with
  | some k => s.completeCtx k.desc .ok 0
  | none => s

/-- The exchange of a context's sets (R90, R92, R95, R96). The present-width pins are read again for the plan of this
context alone (R4; DESIGN CHOICE, log entry 11). It is over when the new region's bed table is written (R282). -/
def Mach.exchange (s : Mach) (mem : Mems) (c : Nat) (w : PendSwap) : Mach :=
  let x := s.ctx c
  let made := (x.swapClaiming.map (fun k => k.acked)).getD []
  let changed := w.plan && match x.shd.plan with
    | some p => !p.unchanged mem
    | none => true
  if changed then (s.dropClaims c true).swapEnds c w.desc .ldrChanged 0
  else
    let pa := if w.plan then x.shd.plan else x.act.plan
    let ps := if w.plan then x.act.plan else x.shd.plan
    let fresh := fun (p : Option Plan) => p.map (fun p => { p with widths := s.widthPin })
    let s := s.modCtx c (fun x => { x with act := { x.shd with plan := fresh pa }, shd := { x.act with plan := ps } })
    let s := if w.plan then s.adoptPlan c x.act.plan made else s
    let s := s.checkAreas c x.act w.plan
    if w.plan && (s.ctx c).opening then s.modCtx c (fun x => { x with swap := some { w with exchanging := true } })
    else s.swapEnds c w.desc .ok 0

/-- The pending swap is performed when this moment is its moment outside a boundary (R95–R97). -/
def Mach.trySwap (s : Mach) (mem : Mems) (c : Nat) : Mach :=
  let x := s.ctx c
  match x.swap with
  | none => s
  | some w =>
    let now := match x.state with
      | .idle => true
      | .armed => w.immediate || !s.nextArrived c
      | _ => w.immediate && !w.plan
    if w.claiming || w.exchanging || !now then s else s.exchange mem c w

/-- The swap due at the close of a step (R20 step 5, R22). -/
def Mach.closeSwap (s : Mach) (mem : Mems) (c : Nat) : Mach :=
  match (s.ctx c).swap with
  | none => s
  | some w => if w.claiming || w.exchanging then s else s.exchange mem c w

/-! ## Withdrawing (R74) -/

/-- A capture that waits ends with its context's withdrawal (R411). -/
def Mach.endCkpt (s : Mach) (c : Nat) (st : Status) : Mach :=
  match (s.ctx c).capture with
  | none => s
  | some k =>
    let s := s.modCtx c (fun x => { x with capture := none, reserve := { x.reserve with copying := false } })
    let its := fun (h : Hook) => h == .ckptWrite c || h == .ckptRead c || h == .ckptBack c
    let s := ((s.dropWaiting its).hostAccDone 0 (fun a => its a.hook)).modSt 0 (fun x => { x with
      outst := x.outst.map (fun a => if its a.hook then { a with hook := .plain } else a) })
    let s := s.modHs (fun h => { h with ops := h.ops.filter (fun o => match o.use with
      | .ckptLine d _ => d != c
      | .ckptBack d => d != c
      | _ => true) })
    (s.logv { status := st, src := srcGate, ctx := some c }).completeCtx k.desc st 0

/-- The active slot is emptied: program memory, claims and the guest region go, and the context is IDLE. -/
def Mach.withdrawNow (s : Mach) (c : Nat) : Mach :=
  let old := s.plan c
  let s := if old.isSome then
      ((s.sendUnclaims c (s.ctx c).claims).clearSems c).clearCells ((old.map Plan.allCores).getD [])
    else s
  let s := match (s.ctx c).capture with
    | some k => if k.ph == CkptPhase.pending then s.endCkpt c .ckptState else s
    | none => s
  let s := s.loadProgs c none
  let s := s.modCtx c (fun x => { x.clearRun with
    state := .idle, act := { x.act with plan := none }, claims := [], lostTiers := [], regained := [], amax := [] })
  (s.changeRegion c old none).regionReady c

/-- The withdrawal that waits is performed in place of the move to ARMED. -/
def Mach.closeWithdraw (s : Mach) (c : Nat) : Mach :=
  match (s.ctx c).withdraw with
  | none => s
  | some d => ((s.modCtx c (fun x => { x with withdraw := none })).withdrawNow c).completeCtx d .ok 0

/-- An arm under way is given up with its context's withdrawal: its descriptor ends with ABORTED (DESIGN CHOICE, log
entry 72). -/
def Mach.endArm (s : Mach) (c : Nat) : Mach :=
  let arm := if (s.ctx c).arming then (s.ctx c).claiming else none
  let s := (s.dropClaims c false).modCtx c (fun x => { x with arming := false })
  match arm with
  | some k => s.completeCtx k.desc .aborted 0
  | none => s

def Mach.planWithdraw (s : Mach) (d : DescRef) (_ : List W64) : Mach :=
  let c := d.ring / 4
  let x := s.ctx c
  if x.swap.isSome || x.withdraw.isSome then s.refuse d .ldrBusy 0
  else
    match x.state with
    | .idle => (if x.act.plan.isSome then s.withdrawNow c else s).completeCtx d .ok 0
    | .armed => ((s.endArm c).withdrawNow c).completeCtx d .ok 0
    | _ => s.modCtx c (fun x => { x with withdraw := some d })

/-! ## Arming (R73, R290) -/

/-- The claims of an arm or of a swap. -/
def Ctx.claimsFor (x : Ctx) (swap : Bool) : Option Claiming := if swap then x.swapClaiming else x.claiming
def Mach.setClaims (s : Mach) (c : Nat) (swap : Bool) (k : Option Claiming) : Mach :=
  s.modCtx c (fun x => if swap then { x with swapClaiming := k } else { x with claiming := k })
/-- The plan whose tiers they are for. -/
def Ctx.claimPlan (x : Ctx) (swap : Bool) : Option Plan := if swap then x.shd.plan else x.act.plan

/-- The first claim not yet answered goes out. -/
def Mach.claimNext (s : Mach) (c : Nat) (swap : Bool) : Mach :=
  let x := s.ctx c
  match x.claimsFor swap, x.claimPlan swap with
  | some k, some p =>
    match k.left with
    | t :: _ => s.sendClaim c t (p.tier t) (.claim c t swap)
    | [] => s
  | _, _ => s

/-- Begins the claims of an arm or a swap. -/
def Mach.beginClaims (s : Mach) (c : Nat) (swap : Bool) (k : Claiming) : Mach := (s.setClaims c swap (some k)).claimNext c swap

/-- Every claim of a swap is acknowledged: the swap is pending, and performed if this is its moment. -/
def Mach.swapClaimed (s : Mach) (mem : Mems) (c : Nat) : Mach :=
  (s.modCtx c (fun x => { x with swap := x.swap.map (fun w => { w with claiming := false }) })).trySwap mem c

/-- A swap with PLAN 1 makes the shadow plan's claims (R93). -/
def Mach.beginSwapClaims (s : Mach) (mem : Mems) (c : Nat) : Mach :=
  let x := s.ctx c
  match x.swap, x.shd.plan with
  | some w, some p =>
    let s := s.beginClaims c true { desc := w.desc, left := p.peerTiers }
    if p.peerTiers.isEmpty then s.swapClaimed mem c else s
  | _, _ => s

/-- The arm is done: the step counter, seeds and areas; then a swap that has waited for it (R73). -/
def Mach.armDone (s : Mach) (mem : Mems) (c : Nat) : Mach :=
  let x := s.ctx c
  match x.claiming with
  | none => s
  | some k =>
    let s := s.modCtx c (fun x => { x.clearRun with
      arming := false, claiming := none, claims := k.acked, lostTiers := [], regained := [], farLost := false, extra := [], amax := [] })
    let s := s.applyStep0 c true
    let s := (s.writeSeeds c (s.ctx c).step).writeSeeds c ((s.ctx c).step + 1)
    ((s.checkAreas c (s.ctx c).act false).completeCtx k.desc .ok 0).trySwap mem c

/-- A claim of an arm or a swap is acknowledged (R290). -/
def Mach.claimAcked (s : Mach) (mem : Mems) (c tier : Nat) (swap : Bool) (index : Nat) : Mach :=
  let x := s.ctx c
  match x.claimsFor swap with
  | none => s
  | some k =>
    let t := ((x.claimPlan swap).map (fun p => p.tier tier)).getD {}
    if k.left.head? != some tier then s
    else
      let k := { k with left := k.left.drop 1, acked := k.acked ++ [{ tier, dev := faDev t.base, base := t.base
                                                                      size := t.size, claim := index }] }
      let s := s.setClaims c swap (some k)
      if !k.left.isEmpty then s.claimNext c swap
      else if swap then s.swapClaimed mem c
      else s.armDone mem c

/-- A claim is refused, or gets no answer: those acknowledged are given up, and the arm fails or the swap is refused
with LDG_CLAIM (R290). A failed arm leaves the step counter as it was. -/
def Mach.claimFailed (s : Mach) (mem : Mems) (c tier : Nat) (swap : Bool) (code : Nat) : Mach :=
  match (s.ctx c).claimsFor swap with
  | none => s
  | some k =>
    let s := s.dropClaims c swap
    let detail := tier + code * 256
    if swap then s.swapEnds c k.desc .ldgClaim detail
    else
      let s := (s.loadProgs c none).modCtx c (fun x => { x with state := .idle, arming := false })
      (s.refuse k.desc .ldgClaim detail).trySwap mem c

/-- The key slots of a plan's tiers are loaded (R443). -/
def Mach.keysLoaded (s : Mach) (p : Plan) : Bool := p.tiers.all (fun t => (aget none s.keys t.keySlot).isSome)

def Mach.planArm (s : Mach) (mem : Mems) (d : DescRef) (_ : List W64) : Mach :=
  let c := d.ring / 4
  let x := s.ctx c
  match x.act.plan with
  | none => s.refuse d (if x.state != .idle then .ldrBusy else .swapNoplan) 0
  | some p =>
    if x.state != .idle then s.refuse d .ldrBusy 0
    else if !s.keysLoaded p then s.refuse d .ldrKey 0
    else
      let s := { s with regs := { s.regs with locked := true } }
      let s := s.modCtx c (fun y => { y with state := .armed, arming := true })
      let s := (s.loadProgs c (some p)).beginClaims c false { desc := d, left := p.peerTiers }
      if p.peerTiers.isEmpty then s.armDone mem c else s

/-! ## Requesting a swap (R90–R97) -/

/-- One context's swap is requested. -/
def Mach.requestSwap (s : Mach) (mem : Mems) (d : DescRef) (immediate plan : Bool) (c : Nat) : Mach :=
  let x := s.ctx c
  if x.swap.isSome || x.withdraw.isSome then
    -- the swap that stands is not disturbed
    let keep := x.swap
    (s.swapEnds c d .swapBusy 0).modCtx c (fun x => { x with swap := keep })
  else if plan && x.shd.plan.isNone then s.swapEnds c d .swapNoplan 0
  else
    let s := s.modCtx c (fun x => { x with swap := some { desc := d, immediate, plan, claiming := plan } })
    let s := if plan && immediate && (x.state == .running || x.state == .draining) then s.forceAbort c rankGate .aborted else s
    if plan then s.beginSwapClaims mem c else s.trySwap mem c

def Mach.cfgSwap (s : Mach) (mem : Mems) (d : DescRef) (l : List W64) : Mach :=
  let b := dBytes l 16 1
  let cs := (List.range 4).filter (fun c => bit b c)
  if cs.isEmpty then s.refuse d .ldrRange 0
  else
    let s := s.modHs (fun h => { h with swapDescs := h.swapDescs ++ [{ desc := d, open_ := cs }] })
    overList (fun s c => s.requestSwap mem d (bit b 4) (bit b 5) c) s cs

/-! ## STEP_ABORT -/

def Mach.stepAbort (s : Mach) (d : DescRef) (_ : List W64) : Mach :=
  let c := d.ring / 4
  let wait := fun (k : Nat) => s.modCtx c (fun x => { x with abortDescs := x.abortDescs ++ [(d, k)] })
  match (s.ctx c).state with
  | .running | .draining => (wait 1).forceAbort c rankGate .aborted
  | .aborting => wait 0
  | _ => s.completeCtx d .ok 0

/-! ## The commands -/

/-- NOP (R342). -/
def execNop (r : Nat) (s : State) : Out :=
  act (.nop r) s (fun _ m => m.startDesc r opNop anyDesc (fun m d _ => m.completeCtx d .ok 0))

/-- PLAN_INSTALL (R71, R72). -/
def execPlanInstall (r : Nat) (s : State) : Out :=
  act (.planInstall r) s (fun _ m => m.startAwake r opPlanInstall anyDesc Mach.planInstall)

/-- INSTALL_VERIFIED (R71, R72, R75). -/
def execInstallVerified (s : State) : Out :=
  act (.installVerified) s (fun _ m => m.installVerified)

/-- PLAN_ARM (R73, R238, R290, R426, R443, R445). -/
def execPlanArm (r : Nat) (s : State) : Out :=
  act (.planArm r) s (fun mem m => m.startAwake r opPlanArm anyDesc (fun m d l => m.planArm mem d l))

/-- PLAN_WITHDRAW (R74). -/
def execPlanWithdraw (r : Nat) (s : State) : Out :=
  act (.planWithdraw r) s (fun _ m => m.startAwake r opPlanWithdraw anyDesc Mach.planWithdraw)

/-- CFG_SWAP (R90–R97). -/
def execCfgSwap (r : Nat) (s : State) : Out :=
  act (.cfgSwap r) s (fun mem m => m.startAwake r opCfgSwap anyDesc (fun m d l => m.cfgSwap mem d l))

/-- STEP_ABORT (R61, R342, R390). -/
def execStepAbort (r : Nat) (s : State) : Out :=
  act (.stepAbort r) s (fun _ m => m.startDesc r opStepAbort anyDesc Mach.stepAbort)

/-- XFER with MODE COPY (R139–R148). -/
def execCopy (r : Nat) (s : State) : Out :=
  act (.copy r) s (fun _ m => m.startAwake r opXfer (fun l => xMode l == 0) Mach.startXfer)

/-- XFER with MODE FILL (R139–R148). -/
def execFill (r : Nat) (s : State) : Out :=
  act (.fill r) s (fun _ m => m.startAwake r opXfer (fun l => xMode l == 1) Mach.startXfer)

/-- XFER with MODE COMPARE (R139–R148). -/
def execCompare (r : Nat) (s : State) : Out :=
  act (.compare r) s (fun _ m => m.startAwake r opXfer (fun l => xMode l == 2) Mach.startXfer)

/-- XFER with MODE COMPARE_CONST (R139–R148). -/
def execCompareConst (r : Nat) (s : State) : Out :=
  act (.compareConst r) s (fun _ m => m.startAwake r opXfer (fun l => xMode l == 3) Mach.startXfer)

/-- INLINE (R343). -/
def execInline (r : Nat) (s : State) : Out :=
  act (.inline r) s (fun _ m => m.startAwake r opInline anyDesc Mach.startInline)

/-- RPL_RELEASE (R272, R273). -/
def execRplRelease (r : Nat) (s : State) : Out :=
  act (.rplRelease r) s (fun _ m => m.startDesc r opRplRelease anyDesc (fun m d _ =>
    let c := d.ring / 4
    (if (m.ctx c).reserve.state == .frozen then m.setReserve c (fun k => { k with state := .valid }) else m).completeCtx
      d .ok 0))

end Sys2Proof.Machine
end

