-- ==== Sys2Proof/Machine/Ckpt.lean ====
section
/-!
DEFINITION. Checkpoint capture: its refusals (R401), the image (R406, R407), its writing in the order of R403, and
CKPT_CAPTURE.
-/
namespace Sys2Proof.Machine

/-! ## Sections (R407) -/

/-- The context section. `state` is the state the image shows. -/
def Mach.contextSec (s : Mach) (c state : Nat) : List Byte :=
  let x := s.ctx c
  let swap := match x.swap with
    | none => 0
    | some w => wordN [(1, 0), (b2n w.immediate, 1), (b2n w.plan, 2)]
  let addr := fun (p : Option Plan) => (p.map (fun q => q.addr)).getD 0
  let crc := fun (p : Option Plan) => (p.map (fun q => q.crc.toNat)).getD 0
  let h := leBytes 8 x.step.toNat ++ leBytes 1 state ++ leBytes 1 swap ++ leBytes 1 x.reserve.state.code ++
    leBytes 1 s.shed.level ++ (List.range 12).flatMap (fun i => leBytes 1 (aget (0, 0) x.extra i).1) ++ leBytes 8 0 ++
    trapBytes x.trap ++ leBytes 8 (addr x.act.plan) ++ leBytes 8 (addr x.shd.plan) ++ leBytes 4 (crc x.act.plan) ++
    leBytes 4 (crc x.shd.plan) ++ leBytes 4 x.tel.seq ++ leBytes 160 0
  h ++ crcField h

def Mach.seedsSec (s : Mach) (c : Nat) : List Byte :=
  let step := (s.ctx c).step
  (List.range 64).flatMap (fun g =>
    if (s.stageOf c g).isNone then leBytes 16 0
    else leBytes 8 (s.seedOf c g step).toNat ++ leBytes 8 (s.seedOf c g (step + 1)).toNat)

def Mach.amaxSec (s : Mach) (mem : Mems) (c : Nat) : List Byte :=
  match s.plan c with
  | none => []
  | some p => if (s.ctx c).tel.st = 0 then fabReads (s.memNow mem) (s.ringAddr c 0) (128 * p.entries.length) else []

/-- Registers in no set are shown as 0. -/
def Mach.configSec (s : Mach) : List Byte :=
  (List.range 8192).flatMap (fun i =>
    let a := 8 * i
    leBytes 8 (if (0x2000 ≤ a ∧ a < 0x6000) ∨ (0xA000 ≤ a ∧ a < 0xE000) then (s.regWord a).toNat else 0))

def planSec (mem : Mems) (p : Option Plan) : List Byte :=
  match p with
  | none => []
  | some q => fabReads mem q.addr q.totLen

/-- The records of each stage; one still being stashed comes from the ledger cache with STATE FREE. -/
def Mach.ledgerSec (s : Mach) (mem : Mems) (c : Nat) : List Byte :=
  match s.plan c with
  | none => []
  | some p =>
    p.stages.flatMap (fun e =>
      let rs := (s.stage c e.stage).recs
      ((List.range rs.length).zip rs).flatMap (fun q =>
        if q.2.stashing then
          recBytes { q.2.rc with state := .free, stage := e.stage, mb := q.2.mb, layer := q.2.layer, tensor := q.2.tensor, ctx := c }
        else fabReads mem (s.recAddr c e.stage q.1) 64))

/-- The parts of a reserve that holds a step; what is latched for them is shown (R404). -/
def Mach.replaySec (s : Mach) (mem : Mems) (c : Nat) : List Byte :=
  let r := (s.ctx c).reserve
  if r.state == .valid || r.state == .frozen then fabReads (s.memNow mem) (s.partBase c 0) (6 * r.part) else []

/-- The sections by index, empty when absent. -/
def Mach.ckptSections (s : Mach) (mem : Mems) (c state : Nat) (snapshot rpl : Bool) : List (List Byte) :=
  let x := s.ctx c
  [s.contextSec c state, s.seedsSec c, s.semImage c, s.amaxSec mem c, s.configSec, planSec mem x.act.plan,
    planSec mem x.shd.plan, if snapshot then s.ledgerSec mem c else [], if rpl then s.replaySec mem c else []]

/-- Where each section lies, from the image base. -/
def secPlaces : Nat → List (List Byte) → List Nat
  | _, [] => []
  | o, l :: ls => o :: secPlaces (o + roundUp l.length 4096) ls

def ckptTotal (secs : List (List Byte)) : Nat := 4096 + sumNat (secs.map (fun l => roundUp l.length 4096))

def ckptMagic : Nat := 0x4B435A55

/-- The header page (R406). -/
def Mach.ckptHeader (s : Mach) (c : Nat) (snapshot : Bool) (secs : List (List Byte)) : List Byte :=
  let dir := ((secPlaces 4096 secs).zip secs).flatMap (fun p =>
    if p.2.isEmpty then leBytes 16 0 else leBytes 8 p.1 ++ leBytes 4 p.2.length ++ leBytes 4 (crc32c p.2).toNat)
  let job := ((s.plan c).map (fun p => p.glob.jobSeed.toNat)).getD 0
  let h := leBytes 4 ckptMagic ++ leBytes 2 1 ++ leBytes 1 (b2n snapshot) ++ leBytes 1 c ++ leBytes 8 (s.ctx c).step.toNat ++
    leBytes 8 job ++ leBytes 8 (ckptTotal secs) ++ leBytes 1 s.devid ++ leBytes 1 0 ++ leBytes 2 s.epoch ++
    leBytes 4 (s.aclk % 2 ^ 32) ++ leBytes 24 0 ++ padTo dir 192
  padTo (splice h 60 (leBytes 4 (crc32c h).toNat)) 4096

/-! ## Writing (R403) -/

/-- Writes a piece of the image: class 2 writes on channel 7 of S0, toward the CXL port for a host target. -/
def Mach.ckptWrite (s : Mach) (c : Nat) (host : Bool) (a : Nat) (l : List Byte) : Mach :=
  overList (fun s (p : Nat × List Byte) =>
    s.queueAcc 0 { share := if host then 3 else 1, cls := 2, ctx := c, chan := 7, cost := if host then 0 else fabCost p.1
                   addr := p.1, len := p.2.length, write := true, data := placed p.1 p.2, hook := .ckptWrite c }) s
    (cut4k (l.length / 4096 + 2) a l)

/-- Accesses of a capture that have no answer yet. -/
def Mach.ckptBusy (s : Mach) (c : Nat) : Bool := s.pendingHook (fun h => h == .ckptWrite c || h == .ckptRead c)

def Mach.modCkpt (s : Mach) (c : Nat) (f : Capture → Capture) : Mach :=
  s.modCtx c (fun x => { x with capture := x.capture.map f })

def Mach.ckptPieces (s : Mach) (c : Nat) (host : Bool) (l : List (Nat × List Byte)) : Mach :=
  overList (fun s (p : Nat × List Byte) => s.ckptWrite c host p.1 p.2) s l

/-- Reads what a capture copies, as address and length: class 2 reads on channel 7 of S0. -/
def Mach.ckptReads (s : Mach) (c : Nat) (l : List (Nat × Nat)) : Mach :=
  overList (fun (s : Mach) (p : Nat × Nat) =>
    overList (fun (s : Mach) i => s.read2 0 c (p.1 + 4096 * i) (min 4096 (p.2 - 4096 * i)) (.ckptRead c)) s
      (List.range (ceilDiv p.2 4096))) s l

/-- What the sections after the first ones copy from HBM. -/
def Mach.ckptSources (s : Mach) (c : Nat) (snapshot rpl : Bool) : List (Nat × Nat) :=
  let x := s.ctx c
  let image := fun (p : Option Plan) => match p with
    | some p => [(p.addr, p.totLen)]
    | none => []
  let ledger := match x.act.plan with
    | some p => p.stages.map (fun e => (e.ledgerBase, 64 * (s.stage c e.stage).recs.length))
    | none => []
  let r := x.reserve
  image x.act.plan ++ image x.shd.plan ++ (if snapshot then ledger else []) ++
    (if rpl && (r.state == .valid || r.state == .frozen) then [(s.partBase c 0, 6 * r.part)] else [])

/-- A capture is taken: its image is made, and its first sections go out. `state` is the state the image shows. What is
copied later stands as it is now (R404, DEDUCED, log entry 103). -/
def Mach.beginCkpt (s : Mach) (mem : Mems) (c state : Nat) (holds : Bool) : Mach :=
  match (s.ctx c).capture with
  | none => s
  | some k =>
    let secs := s.ckptSections mem c state k.snapshot k.rpl
    let total := ckptTotal secs
    if k.host && s.hs.att == .detached then s.endCkpt c .hostloss
    else if k.size < total then s.endCkpt c .ckptSize
    else
      let at_ := (secPlaces 4096 secs).zip (secs.map (fun l => padTo l (roundUp l.length 4096)))
      let pieces := (at_.filter (fun p => !p.2.isEmpty)).map (fun p => (k.target + p.1, p.2))
      let cut := k.target + ((secPlaces 4096 secs)[5]?).getD 0
      let early := pieces.filter (fun p => decide (p.1 < cut))
      let late := pieces.filter (fun p => decide (cut ≤ p.1))
      let copying := decide (0 < ((secs[8]?).getD []).length)
      let rings := ((secs[3]?).getD []).length
      let s := s.modCkpt c (fun k => { k with
        ph := .early, holds, total, late, rplAt := if copying then k.target + ((secPlaces 4096 secs)[8]?).getD 0 else 0
        reads := s.ckptSources c k.snapshot k.rpl, header := s.ckptHeader c k.snapshot secs, early := if rings = 0 then [] else early })
      let s := s.modCtx c (fun x => { x with reserve := { x.reserve with copying } })
      if rings = 0 then s.ckptPieces c k.host early else s.ckptReads c [(s.ringAddr c 0, rings)]

/-- The image is written: the descriptor completes with its bytes. -/
def Mach.ckptDone (s : Mach) (c : Nat) (k : Capture) : Mach :=
  (s.modCtx c (fun x => { x with capture := none, reserve := { x.reserve with copying := false } })).completeCtx k.desc .ok
    (min k.total 0xFFFFFFFF)

/-- The reserve's own section is written: a step that begins from now on captures again (R404). -/
def Mach.reserveCopied (s : Mach) (c : Nat) (k : Capture) : Mach :=
  let waits := fun (a : Access) => a.hook == .ckptWrite c && decide (k.rplAt ≤ a.addr)
  if k.ph == .late && k.late.isEmpty && !((s.st 0).acc ++ (s.st 0).outst).any waits then
    s.modCtx c (fun x => { x with reserve := { x.reserve with copying := false } })
  else s

/-- An answer has come: a capture with none outstanding goes on. The flag says that its first sections are written
and the context was held for them. -/
def Mach.ckptNext (s : Mach) (c : Nat) : Mach × Bool :=
  match (s.ctx c).capture with
  | none => (s, false)
  | some k =>
    let s := s.reserveCopied c k
    if s.ckptBusy c || (s.st 0).isCut (8 * c + 3) then (s, false)
    else
      match k.ph with
      | .pending => (s, false)
      | .early =>
        if !k.early.isEmpty then ((s.modCkpt c (fun k => { k with early := [] })).ckptPieces c k.host k.early, false)
        else
          let s := (s.modCkpt c (fun k => { k with ph := if k.late.isEmpty then .header else .late, reads := [] })).releaseAll
          (if k.late.isEmpty then s.ckptWrite c k.host k.target k.header else s.ckptReads c k.reads, k.holds)
      | .late =>
        if !k.late.isEmpty then ((s.modCkpt c (fun k => { k with late := [] })).ckptPieces c k.host k.late, false)
        else ((s.modCkpt c (fun k => { k with ph := .header })).ckptWrite c k.host k.target k.header, false)
      | .header =>
        if k.host then
          ((s.modCkpt c (fun k => { k with ph := .back })).queueAcc 0
            { share := 3, cls := 2, ctx := c, chan := 7, addr := k.target + 4032, len := 64, hook := .ckptBack c }, false)
        else (s.ckptDone c k, false)
      | .back => (s, false)

/-- The read-back of a host target's last header line (R352). -/
def Mach.ckptReadBack (s : Mach) (c : Nat) (same : Bool) : Mach :=
  let s := s.hostAccDone 0 (fun a => a.hook == .ckptBack c)
  match (s.ctx c).capture with
  | none => s
  | some k =>
    if (s.st 0).isCut (8 * c + 3) then s
    else if same then s.ckptDone c k
    else if k.readBacks = 0 then
      (s.modCkpt c (fun k => { k with ph := .header, readBacks := 1 })).ckptWrite c k.host k.target k.header
    else s.endCkpt c .farerr

/-! ## The descriptor -/

/-- Why a capture is refused (R401), with what is logged of it. -/
def Mach.ckptRefusal (s : Mach) (mem : Mems) (c : Nat) (k : Capture) : Option Status :=
  let x := s.ctx c
  let moving := x.state == .running || x.state == .draining || x.state == .boundary || x.state == .aborting
  let step := k.stepAt != 0xFFFFFFFFFFFFFFFF &&
    (decide (k.stepAt.toNat < x.step.toNat) || (k.stepAt == x.step && moving))
  if x.act.plan.isNone then some .ckptState
  else if x.capture.isSome then some .ckptBusy
  else if !k.snapshot && step then some .ckptStep
  else if k.target % 4096 != 0 || (!k.host && s.targetBad k.target k.size) then some .violAddr
  else if k.host && s.hs.att != .attached then some .hostloss
  else if k.size < ckptTotal (s.ckptSections mem c 0 k.snapshot k.rpl) then some .ckptSize
  else none

def Mach.ckptCapture (s : Mach) (mem : Mems) (d : DescRef) (l : List W64) : Mach :=
  let c := d.ring / 4
  let k : Capture := { desc := d, snapshot := kWhen l == 1, host := kHost l, rpl := kRpl l, target := dAddr l
                       size := dBytes l 16 8, stepAt := BitVec.ofNat 64 (dBytes l 32 8) }
  match s.ckptRefusal mem c k with
  | some .violAddr => (s.logRing d.ring .violAddr 8 (dAddr l)).completeCtx d .violAddr 0
  | some st => s.refuse d st 0
  | none =>
    let x := s.ctx c
    let s := s.modCtx c (fun x => { x with capture := some k })
    let quiet := x.state == .idle || (x.state == .armed && !s.nextArrived c)
    let due := k.stepAt == 0xFFFFFFFFFFFFFFFF || k.stepAt == x.step
    if k.snapshot || (quiet && due) then s.beginCkpt mem c x.state.code false else s

/-- A capture that is asked for while an arm or an exchange is in progress is judged by the context as it then is (R402,
R405; DESIGN CHOICE, log entry 75). -/
def Mach.startCkpt (s : Mach) (mem : Mems) (r when_ : Nat) : Mach :=
  s.startAwake r opCkptCapture (fun l => kWhen l == when_) (fun m d l => m.ckptCapture mem d l)

/-- CKPT_CAPTURE with WHEN 0 (R400–R407). -/
def execCkptCaptureBoundary (r : Nat) (s : State) : Out :=
  act (.ckptCaptureBoundary r) s (fun mem m => m.startCkpt mem r 0)

/-- CKPT_CAPTURE with WHEN 1 (R405). -/
def execCkptCaptureSnapshot (r : Nat) (s : State) : Out :=
  act (.ckptCaptureSnapshot r) s (fun mem m => m.startCkpt mem r 1)

end Sys2Proof.Machine
end

