-- ==== Sys2Proof/Machine/Tel.lean ====
section
/-!
DEFINITION. Telemetry (R256, R261–R265): the counts of a close, their latch, and the writes of the latch in their order.
-/
namespace Sys2Proof.Machine

/-! ## The counts -/

/-- T_CLOSE, SLOW, and the port counts of the stage's cores (R226). -/
def Mach.closeStats (s : Mach) (c : Nat) (e : StageEntry) : Mach :=
  let n := e.home
  let keys := e.cores.flatMap (fun k => [2 * k, 2 * k + 1])
  let tot := fun (f : Expander → Nat) => sumNat (keys.map (fun k => f (aget {} s.exps k)))
  let y := s.stage c e.stage
  let s := s.modStats c e.stage (fun x => { x with
    tClose := (s.st n).sclk
    slow := if y.begun then (s.st n).slow - x.slowFirst else 0
    port := aset 0 (aset 0 (aset 0 x.port 0 (satAdd 64 (aget 0 x.port 0) (tot (fun z => z.cntStop)))) 1
      (satAdd 64 (aget 0 x.port 1) (tot (fun z => z.cntLand)))) 2 (satAdd 64 (aget 0 x.port 2) (tot (fun z => z.cntDecode))) })
  overList (fun (s : Mach) k =>
    { s with exps := amod {} s.exps k (fun z => { z with cntStop := 0, cntLand := 0, cntDecode := 0 }) }) s keys

/-- Counts of `b` with those of an earlier close `a` added, kind by kind (R265); the stamps are those of `b`. -/
def addCounts (w : Nat) (a b : Assoc Nat) : Assoc Nat := a.foldl (fun m p => amod 0 m p.1 (fun v => satAdd w v p.2)) b

def StageStats.plus (a b : StageStats) : StageStats :=
  { b with
    slow := satAdd 64 b.slow a.slow, stall := addCounts 64 a.stall b.stall, port := addCounts 64 a.port b.port
    miss := addCounts 32 a.miss b.miss, late := addCounts 64 a.late b.late, dlPost := satAdd 32 b.dlPost a.dlPost
    wasted := satAdd 64 b.wasted a.wasted, unfetched := satAdd 32 b.unfetched a.unfetched
    discarded := satAdd 32 b.discarded a.discarded, fmtCnt := addCounts 64 a.fmtCnt b.fmtCnt
    hist := addCounts 32 a.hist b.hist, histPart := a.histPart || b.histPart }

/-- The entries that fed amax, with their rings folded; one read as faulty is written again from the empty state
(R253, R254). -/
def Ctx.foldedRings (x : Ctx) (p : Plan) : List (Nat × Nat × List Byte) :=
  let home := fun (i : Nat) => (((p.entries[i]?).bind (fun e => p.stage e.stage)).map (fun g => g.home)).getD 0
  x.amax.filterMap (fun q =>
    if q.2.used then
      let a := ringFold q.2 q.2.lastScale x.step.toNat
      some (q.1, home q.1, ringBytes a a.stepLow)
    else if q.2.rewrite then some (q.1, home q.1, ringBytes {} 0)
    else none)

/-- A later close meets the writes of an earlier one: its counts are added, and all is written once, with STEP naming
the later step (R265). -/
def TelLatch.merge (old now : TelLatch) : TelLatch :=
  { now with
    merged := true, records := old.records || now.records
    stats := old.stats.foldl (fun m p => amod {} m p.1 (fun b => p.2.plus b)) now.stats
    homes := now.homes ++ old.homes.filter (fun h => !now.homes.any (fun g => g.1 == h.1))
    stRecs := now.stRecs ++ old.stRecs.filter (fun r => !now.stRecs.contains r)
    rings := now.rings ++ (if old.ph < 4 then old.rings.filter (fun r => !now.rings.any (fun q => q.1 == r.1)) else []) }

/-! ## The writes -/

def Mach.modLatch (s : Mach) (c : Nat) (l : Option TelLatch) : Mach :=
  s.modCtx c (fun x => { x with tel := { x.tel with latch := l } })

/-- The station of the header's write: the lowest home station (log entry 101). -/
def TelLatch.headAt (l : TelLatch) : Nat := ((List.range 6).find? (fun n => l.homes.any (fun h => h.2 == n))).getD 0

/-- The writes of the kind `k`, as station, offset in the area and bytes; a station record is made as it goes out (R264).
None is made at a station whose channel 7 has been aborted (R143). -/
def TelLatch.writesOf (l : TelLatch) (k seq : Nat) : List (Nat × Nat × List Byte) :=
  let all : List (Nat × Nat × List Byte) := match k with
    | 0 => if l.records then l.homes.map (fun h => (h.2, 0x1000 + 1024 * h.1,
        stageRecBytes (aget {} l.stats h.1) l.step l.aborted l.replay l.merged h.2)) else []
    | 1 => if l.records then l.stRecs.map (fun n => (n, 0x11000 + 256 * n, List.replicate 256 0)) else []
    | 2 => l.rings.map (fun r => (r.2.1, 0x12000 + 128 * r.1, r.2.2))
    | 3 => [(l.headAt, 0, areaHeadBytes l.step seq l.nent)]
    | _ => []
  all.filter (fun w => !l.cut.contains w.1)

/-- The writes of the kind that goes out next. -/
def TelLatch.writes (l : TelLatch) (seq : Nat) : List (Nat × Nat × List Byte) := l.writesOf l.ph seq

/-- Writes of the latch are still to be queued at a station. -/
def TelLatch.owes (l : TelLatch) (n : Nat) : Bool :=
  !l.cut.contains n &&
    ((l.ph = 0 && l.records && l.homes.any (fun h => h.2 == n)) || (decide (l.ph ≤ 1) && l.records && l.stRecs.contains n) ||
      (decide (l.ph ≤ 2) && l.rings.any (fun r => r.2.1 == n)) || (decide (l.ph ≤ 3) && l.headAt == n))

def Hook.telOf (c : Nat) : Hook → Bool
  | .telWrite d => d == c
  | .telHead d => d == c
  | .telStation d => d == c
  | _ => false

/-- The amax rings folded at the close of the step are not written yet: the context is not ARMED before they are (R253). -/
def Mach.ringsOut (s : Mach) (c : Nat) : Bool :=
  match (s.ctx c).tel.latch with
  | some l => !l.rings.isEmpty && decide (l.ph < 4)
  | none => false

/-- The next kind of write goes out once the one before it has its responses; after the header the latch is free.
`fuel` bounds the kinds. -/
def Mach.telNext (s : Mach) (c : Nat) : Nat → Mach
  | 0 => s
  | fuel + 1 =>
    match (s.ctx c).tel.latch with
    | none => s
    | some l =>
      if s.pendingHook (Hook.telOf c) then s
      else if 4 ≤ l.ph then s.modLatch c none
      else
        let hook := if l.ph = 3 then Hook.telHead c else if l.ph = 1 then Hook.telStation c else Hook.telWrite c
        let s := overList (fun s (w : Nat × Nat × List Byte) => s.queue2 w.1 1 c (l.base + w.2.1) w.2.2 hook)
          (s.modLatch c (some { l with ph := l.ph + 1 })) (l.writes (((s.ctx c).tel.seq + 1) % 2 ^ 32))
        Mach.telNext s c fuel

/-- A write of a latch has its response; that of the header counts in SEQ. -/
def Mach.telWritten (s : Mach) (c : Nat) (head : Bool) : Mach :=
  let s := if head then s.modCtx c (fun x => { x with tel := { x.tel with seq := (x.tel.seq + 1) % 2 ^ 32 } }) else s
  s.telNext c 6

/-- What a close latches. -/
def Mach.telNow (s : Mach) (c : Nat) (p : Plan) (aborted : Bool) : TelLatch :=
  let x := s.ctx c
  let records := W64.bits x.act.telCtl 0 0 == 1
  { base := s.fabAddr x.act.telBase.toNat
    step := if x.replaying then x.reserve.step.toNat else x.step.toNat
    aborted, replay := x.replaying, records, nent := p.entries.length
    stats := p.stages.foldl (fun m e => aset {} m e.stage (s.stage c e.stage).stats) []
    homes := p.stages.map (fun e => (e.stage, e.home))
    stRecs := if records then
        (List.range 6).filter (fun n => !(p.homed n).isEmpty)
      else []
    rings := if x.tel.st = 0 && !aborted && !x.replaying then x.foldedRings p else [] }

/-- The close of a step latches its counts; with writes of an earlier close still pending the two are merged (R262,
R265). -/
def Mach.writeTelemetry (s : Mach) (c : Nat) (aborted : Bool) : Mach :=
  match s.plan c with
  | none => s
  | some p =>
    if (s.ctx c).tel.st = 1 then s
    else
      let now := s.telNow c p aborted
      let l := match (s.ctx c).tel.latch with
        | some old => old.merge now
        | none => now
      ((s.dropWaiting (Hook.telOf c)).modLatch c (some l)).telNext c 6

end Sys2Proof.Machine
end

