-- ==== Sys2Proof/Machine/Close.lean ====
section
/-!
DEFINITION. The close of a step: the boundary (R18, R20), the end of ABORTING (R22, R61, R325), the close of a replay
step (R275), telemetry (R256, R262–R265), and REPLAY (R274, R275).
-/
namespace Sys2Proof.Machine

/-- Tasks of a context at any station. -/
def Mach.tasksOf (s : Mach) (c : Nat) : List Task :=
  (List.range 6).flatMap (fun n => (s.st n).tasks.filter (fun t => t.ctx == c))

/-! ## Step 1: what was never fetched (R20) -/

def Mach.countUnfetched (s : Mach) (c : Nat) : Mach :=
  overList (fun s (p : Nat × StageRun) =>
    let un := p.2.recs.filter (fun r => r.fetchesDone == 0)
    let slots := p.2.recs.filter (fun r => !r.reclaimed && decide (0 < r.slots))
    let bytes := sumNat (un.map (fun r => r.rc.storLen)) + sumNat (slots.map RecInfo.spare)
    (s.modStats c p.1 (fun x => { x with unfetched := satAdd 32 x.unfetched un.length })).addWasted c p.1 bytes) s
    (s.ctx c).stages

/-! ## The close -/

/-- Step 6: the context is ARMED, or a waiting withdrawal is performed (R20, R74); then a swap requested in the state that
ends, if this is its moment (R97). -/
def Mach.moveArmed (s : Mach) (mem : Mems) (c : Nat) : Mach :=
  ((s.modCtx c (fun x => { x with state := .armed })).closeWithdraw c).trySwap mem c

/-- What every close does up to the counter: steps 1 to 3 of R20, telemetry, capture, notes of deliveries. -/
def Mach.closeCounts (s : Mach) (c : Nat) (aborted : Bool) : Mach :=
  let s := s.countUnfetched c
  let s := overList (fun s e => s.closeStats c e) s (((s.plan c).map (fun p => p.stages)).getD [])
  let s := s.writeTelemetry c aborted
  let s := if (s.ctx c).replaying then s else s.endCapture c aborted
  let s := s.sendReleases c
  overList (fun s n => s.modSt n (fun x => { x with deliveries := x.deliveries.filter (fun d => d.ctx != c) })) s (List.range 6)

/-- A new step may begin: the run data is gone. -/
def Mach.freshStep (s : Mach) (c : Nat) : Mach :=
  s.modCtx c (fun x => { x.clearRun with amax := [] })

/-- The capture that waits for this boundary is taken (R402). -/
def Mach.boundaryCkpt (s : Mach) (mem : Mems) (c : Nat) : Mach :=
  match (s.ctx c).capture with
  | none => s
  | some k =>
    let x := s.ctx c
    if k.ph == CkptPhase.pending && (k.stepAt == 0xFFFFFFFFFFFFFFFF || k.stepAt == x.step) then
      s.beginCkpt mem c (if x.withdraw.isSome then 0 else 1) true
    else s

/-- A capture holds the context in BOUNDARY. -/
def Mach.ckptHolds (s : Mach) (c : Nat) : Bool :=
  match (s.ctx c).capture with
  | some k => k.holds && k.ph == CkptPhase.early
  | none => false

/-- The move to ARMED, when no capture, no ring and no exchange holds the context in BOUNDARY (R20, R253, R403). -/
def Mach.leaveBoundary (s : Mach) (mem : Mems) (c : Nat) : Mach :=
  if (s.ctx c).state != .boundary || (s.ctx c).exchanging || s.ckptHolds c || s.ringsOut c then s else s.moveArmed mem c

/-- The end of a boundary, once its exchange is over (R20, R238, R275, R402). -/
def Mach.finishBoundary (s : Mach) (mem : Mems) (c : Nat) : Mach :=
  if (s.ctx c).exchanging then s
  else
    let replay := (s.ctx c).replaying
    let s := s.modCtx c (fun x => { x with replaying := false })
    let step := (s.ctx c).step
    let s := if replay then (s.writeSeeds c step).writeSeeds c (step + 1) else s.writeSeeds c (step + 1)
    (if replay then s else s.boundaryCkpt mem c).leaveBoundary mem c

/-- A write of a telemetry latch is answered: the rings may be written with it (R253, R265). -/
def Mach.telAnswered (s : Mach) (mem : Mems) (c : Nat) (head : Bool) : Mach := (s.telWritten c head).leaveBoundary mem c

/-- The boundary of an ordinary or a replay step (R20, R275, R402). -/
def Mach.closeBoundary (s : Mach) (mem : Mems) (c : Nat) : Mach :=
  let s := s.modCtx c (fun x => { x with state := .boundary })
  let s := (s.closeCounts c false).freshStep c
  let s := if (s.ctx c).replaying then s else s.modCtx c (fun x => { x with step := x.step + 1 })
  ((s.reclaimTiers c).closeSwap mem c).finishBoundary mem c

/-- STEP_BOUNDARY: every stage has ended and no task of the context is outstanding (R18). -/
def Mach.stepBoundary (s : Mach) (mem : Mems) (c : Nat) : Mach :=
  if (s.ctx c).state == .draining && s.allEnded c && (s.tasksOf c).isEmpty && !s.shed.off then s.closeBoundary mem c else s

/-- The end of an aborted step, once its exchange is over: its STEP_ABORT descriptors complete (R22, R342). -/
def Mach.finishAborted (s : Mach) (mem : Mems) (c : Nat) : Mach :=
  if (s.ctx c).exchanging then s
  else
    let replay := (s.ctx c).replaying
    let step := (s.ctx c).step
    let s := if replay then (s.writeSeeds c step).writeSeeds c (step + 1) else s
    let waiting := (s.ctx c).abortDescs
    let s := s.modCtx c (fun x => { x with replaying := false, abortDescs := [] })
    let s := overList (fun s (p : DescRef × Nat) => s.completeCtx p.1 .ok p.2) s waiting
    s.moveArmed mem c

/-- The close of an aborted step: semaphores and stage cells are 0 (R22, R325). -/
def Mach.closeAborted (s : Mach) (mem : Mems) (c : Nat) : Mach :=
  let s := (s.closeCounts c true).freshStep c
  let s := (s.clearSems c).clearCells (((s.plan c).map Plan.allCores).getD [])
  ((s.reclaimTiers c).closeSwap mem c).finishAborted mem c

/-- The last write of a bed table is answered: the region is in service, and what waited for it goes on: an install, or
an exchange and the close of a step that it stands in (R282). -/
def Mach.bedsWritten (s : Mach) (mem : Mems) (c : Nat) : Mach :=
  if s.pendingHook (· == .bedZero c) || !(s.ctx c).opening then s
  else
    let s := s.regionReady c
    match (s.ctx c).swap with
    | none => s
    | some w =>
      if !w.exchanging then s
      else
        let s := s.swapEnds c w.desc .ok 0
        match (s.ctx c).state with
        | .boundary => s.finishBoundary mem c
        | .aborting => s.finishAborted mem c
        | _ => s

/-- An immediate plan swap whose claims are still being made holds the end of ABORTING (R93, R97). -/
def Mach.swapHolds (s : Mach) (c : Nat) : Bool :=
  match (s.ctx c).swap with
  | some w => w.claiming && w.immediate
  | none => false

/-- ABORTING_END: no task of the context remains (R61). -/
def Mach.abortingEnd (s : Mach) (mem : Mems) (c : Nat) : Mach :=
  if (s.ctx c).state == .aborting && (s.tasksOf c).isEmpty && !s.swapHolds c && !(s.ctx c).exchanging &&
      !s.shed.off then s.closeAborted mem c else s

/-- A response for a capture has come; the hold of the boundary may end (R403). -/
def Mach.ckptResponse (s : Mach) (mem : Mems) (c : Nat) : Mach :=
  let p := s.ckptNext c
  if p.2 then p.1.leaveBoundary mem c else p.1

/-- A capture whose write fails, or that loses its host or station, ends (R411). -/
def Mach.ckptFail (s : Mach) (mem : Mems) (c : Nat) (st : Status) : Mach :=
  let held := s.ckptHolds c
  let s := (s.endCkpt c st).releaseAll
  if held then s.leaveBoundary mem c else s

/-! ## Replay (R274, R275) -/

def Mach.replay (s : Mach) (d : DescRef) (_ : List W64) : Mach :=
  let c := d.ring / 4
  let x := s.ctx c
  let same := match x.act.plan with
    | some p => p.addr == x.reserve.planAddr && p.crc == x.reserve.planCrc
    | none => false
  if x.state != .armed || s.nextArrived c || x.swap.isSome then s.refuse d .rplBusy 0
  else if !(x.reserve.state == .valid || x.reserve.state == .frozen) then s.refuse d .rplInvalid 0
  else if !same then s.refuse d .rplPlan 0
  else
    let s := s.modCtx c (fun x => { x with replayReq := true, replayPtr := [] })
    (s.writeSeeds c x.reserve.step).completeCtx d .ok (x.reserve.step.toNat % 2 ^ 32)

/-! ## The commands -/

/-- STEP_BOUNDARY (R18, R20, R253, R265, R402). -/
def execStepBoundary (c : Nat) (s : State) : Out :=
  act (.stepBoundary c) s (fun mem m => m.stepBoundary mem c)

/-- ABORTING_END (R22, R61, R97, R256, R325). -/
def execAbortingEnd (c : Nat) (s : State) : Out :=
  act (.abortingEnd c) s (fun mem m => m.abortingEnd mem c)

/-- REPLAY (R274, R275). -/
def execReplay (r : Nat) (s : State) : Out :=
  act (.replay r) s (fun _ m => m.startAwake r opReplay anyDesc Mach.replay)

end Sys2Proof.Machine
end

