-- ==== Sys2Proof/Machine/Aborts.lean ====
section
/-!
DEFINITION. Channel aborts (R143, R440): of the tasks of a channel, and on a channel 7 of the transfers of descriptors,
telemetry, captures and the loader's reads (R132). CHAN_ABORT.
-/
namespace Sys2Proof.Machine

/-- What channel 7 carries beside XFER and INLINE (R132, R326, R451). The zeros of a bed table, which R282 asks for before
its region may serve, are no transfer that R132 lists: no abort reaches them (DESIGN CHOICE, log entry 91). -/
def Hook.work7 : Hook → Bool
  | .telWrite _ => true
  | .telHead _ => true
  | .telStation _ => true
  | .capWrite _ _ _ => true
  | .capHead _ => true
  | .capFetch _ => true
  | .ckptWrite _ => true
  | .ckptRead _ => true
  | .ckptBack _ => true
  | .loadRead => true
  | .seqRead => true
  | .ctxSave _ => true
  | _ => false

/-- An access of the work `key` of channel 7. -/
def Access.workOf (a : Access) (key : Nat) : Bool := a.chan == 7 && a.hook.work7 && a.taskKey == key

/-- Bytes that a work of channel 7 has asked for and not queued yet: later writes of a close at the station, and the later
parts of a capture. -/
def Mach.unqueued (s : Mach) (n key : Nat) : Nat :=
  let x := s.ctx (key / 8)
  match key % 8, x.tel.latch, x.capture with
  | 4, some l, _ => sumNat (((List.range 4).filter (fun k => decide (l.ph ≤ k))).map (fun k =>
      sumNat (((l.writesOf k 0).filter (fun w => w.1 == n)).map (fun w => w.2.2.length))))
  | 3, _, some k =>
    let bytes := fun (l : List (Nat × List Byte)) => sumNat (l.map (fun p => p.2.length))
    (if k.ph == CkptPhase.early then bytes k.early + sumNat (k.reads.map (·.2)) else 0) + bytes k.late +
      (if k.ph == CkptPhase.early || k.ph == CkptPhase.late then k.header.length else 0)
  | _, _, _ => 0

/-- An abort reaches a work of channel 7: what has not been issued of it is given up and is its residue, and it is over once
what is out has its answers. A capture of a step stops (R271). -/
def Mach.cutWork (s : Mach) (n key : Nat) : Mach :=
  let c := key / 8
  let mine := (s.st n).acc.filter (fun a => a.workOf key)
  let before := sumNat (((s.st n).cuts.filter (fun p => p.1 == key)).map (·.2))
  let left := before + sumNat (mine.map (·.len)) + (if (s.st n).isCut key then 0 else s.unqueued n key)
  let s := s.modSt n (fun x => { x with
    acc := x.acc.filter (fun a => !a.workOf key), cuts := x.cuts.filter (fun p => p.1 != key) ++ [(key, left)] })
  if key % 8 = 4 then
    s.modCtx c (fun x => { x with tel := { x.tel with latch := x.tel.latch.map (fun l => { l with cut := l.cut ++ [n] }) } })
  else if key % 8 = 2 && (s.ctx c).reserve.state == .capturing then s.stopCapture c
  else s

/-- A work of channel 7 that has been aborted is over: the channel's entry is written (R143), and what waits for the work
goes on: its descriptor completes with ABORTED, the boundary is left, the next install is taken, and rings that wait for
the sequencer's load are ignored (DESIGN CHOICE, log entry 91). -/
def Mach.endCut (s : Mach) (mem : Mems) (n : Nat) (p : Nat × Nat) : Mach :=
  let c := p.1 / 8
  let s := s.chanEnd (8 * n + 7) .aborted p.2
  match p.1 % 8 with
  | 3 => s.ckptFail mem c .aborted
  | 4 => (s.telNext c 6).leaveBoundary mem c
  | 6 => s.saveEnds c .aborted
  | 5 =>
    if c = 0 then
      match s.hs.loaderCur with
      | some i => ((s.modHs (fun h => { h with loaderCur := none })).complete rankLoader i.desc .aborted 0 0).nextInstall
      | none => s
    else s.modHs (fun h => { h with seqLoading := false, seqWait := [], seqImage := [] })
  | _ => s

/-- The aborted works of a channel 7 that have nothing outstanding any more are over. -/
def Mach.endCuts (s : Mach) (mem : Mems) (n : Nat) : Mach :=
  let gone := (s.st n).cuts.filter (fun p => !(s.st n).outst.any (fun a => a.workOf p.1))
  if gone.isEmpty then s
  else
    overList (fun s p => s.endCut mem n p)
      (s.modSt n (fun x => { x with cuts := x.cuts.filter (fun p => !gone.contains p) })) gone

/-- An abort of a channel; with no transfer running it has no effect. Where several transfers share the channel it ends
them all: R143 names the channel and no one of them (DESIGN CHOICE, log entry 91). -/
def Mach.abortChan (s : Mach) (mem : Mems) (ch : Nat) : Mach :=
  let n := ch / 8
  if ch % 8 = 7 then
    let keys := ((((s.st n).acc ++ (s.st n).outst).filter (fun a => a.chan == 7 && a.hook.work7)).map
      Access.taskKey).eraseDups
    let s := (overList (fun s (x : Xfer) =>
      if x.st = n then (s.stopXfer x.desc.ring x.desc.pos (some .aborted)).finishXfer x.desc.ring x.desc.pos else s)
      s s.hs.xfers).abortInlines n
    (overList (fun s k => s.cutWork n k) s keys).endCuts mem n
  else
    Mach.overTasks n (fun s t => if t.onChan (ch % 8) && t.ph != .fail then s.abortChanTask n t else s) s

/-- CHAN_ABORT (R143). -/
def execChanAbort (r : Nat) (s : State) : Out :=
  act (.chanAbort r) s (fun mem m => m.startDesc r opChanAbort anyDesc (fun m d l =>
    (m.abortChan mem (natBits (dBytes l 16 1) 5 0)).completeCtx d .ok 0))

end Sys2Proof.Machine
end

