-- ==== Sys2Proof/Machine/Peers.lean ====
section
/-!
DEFINITION. Partners of this device: HELLO (R288), lodging violations (R303, R304, R398), requests sent again (R299),
lost peers, claims and records (R300), and the commands of links and lodging timers.
-/
namespace Sys2Proof.Machine

/-! ## HELLO (R288) -/

/-- A guest region of this device is in service. -/
def Mach.serving (s : Mach) : Bool :=
  (List.range 4).any (fun c => !(s.ctx c).opening && (match s.plan c with
    | some p => decide (0 < p.glob.guestSize)
    | none => false))

/-- HELLO on a link that is UP: the PUT credits are 32, and the peer's violations are counted anew (R303). -/
def Mach.sendHello (s : Mach) (l : Nat) : Mach :=
  let k := s.link l
  if k.st != linkUpSt || s.epoch == 0 then s
  else
    let m := mkMsg lopHello 1 s.devid k.dev 0 0 (word [(s.epoch, 0), (b2n s.serving, 16)]) 0 0 []
    let s := s.queueTx l { msg := m.withEpoch s.epoch, cls := 1 }
    (s.modLink l (fun k => { k with helloSent := true, credits := 32 })).modPeer k.dev (fun p =>
      { p with viol := 0, violDue := false })

def Mach.sendHellos (s : Mach) : Mach := overList Mach.sendHello s (List.range Config.nLink)

/-! ## Violations -/

def Mach.vlimit (s : Mach) : Nat := W64.bits s.regs.glCtl 31 24

/-- VALUE of a VIOL_GL entry: OP and NAK code (R398). -/
def glValue (op code : Nat) : Nat := wordN [(op, 0), (code, 8)]

/-- A lodging violation of the device at the far end of a link: it is logged and counted. VALUE holds OP and NAK code, so
the offending field's value, which R303 has logged with them, stands in ADDR (DESIGN CHOICE, log entry 86). -/
def Mach.violate (s : Mach) (l op code off value : Nat) : Mach :=
  let d := (s.link l).dev
  let s := s.logv { status := .violGl, src := srcAgent, unit := l, foff := off, value := glValue op code, addr := value
                    aux0 := d }
  s.modPeer d (fun p => { p with
    viol := p.viol + 1
    violDue := p.violDue || (s.vlimit != 0 && decide (s.vlimit ≤ p.viol + 1)) })

/-! ## Sending again (R299, R304) -/

/-- A PUT attempt is sent again from block 0. -/
def Mach.resendPuts (s : Mach) (n id : Nat) : Mach :=
  match s.task n id with
  | none => s
  | some t =>
    if t.ph == .fail || t.ph == .final then s
    else
      -- the parts of the attempt that have not gone out are withdrawn with it
      ((s.dropSends n id false).modTask n id (fun t => { t with
        sendsQueued := 0, link := none
        blks := t.blks.map (fun b => if b.coded then { b with st := .ready } else b) })).advanceSend n id

/-- A GET is sent again from the first block not received; with no room free it waits for one. -/
def Mach.resendGet (s : Mach) (n id : Nat) : Mach :=
  match s.task n id with
  | none => s
  | some t =>
    let s := s.dropAsks n id
    if t.ph == .fail then s.endFailed n t
    else
      let s := s.modTask n id (fun t => { t with started := false, link := none })
      if t.beds < t.rooms && decide (t.got.length < t.nexp) then s.queueAsk n id true else s

/-- MOREs of a fetch that went by a link or waited on it are sent again (R299). -/
def Mach.resendMores (s : Mach) (n id l : Nat) : Mach :=
  match s.task n id with
  | none => s
  | some t =>
    overList (fun (s : Mach) _ => s.askPeer n id false)
      (s.modTask n id (fun t => { t with mores := t.mores.filter (fun q => q.1 != l) })) (t.mores.filter (fun q => q.1 == l))

/-- What a task that is over had sent on a link is not delivered, and not sent again (R143, R299). -/
def Mach.notDelivered (s : Mach) (n : Nat) (t : Task) (l : Nat) : Mach :=
  if t.kind == .fetch then
    if t.link == some l then (s.dropAsks n t.id).endFailed n t
    else
      let kept := t.mores.filter (fun q => q.1 != l)
      let t := { t with mores := kept, rooms := t.rooms - (t.mores.length - kept.length) }
      ((s.modTask n t.id (fun _ => t)).freeAsks n t.id (t.rooms - t.beds) 64).endFailed n t
  else if t.path == .peer && t.link == some l then (s.dropSends n t.id false).endFailed n t
  else s

/-- Places a request that has no link on one. -/
def Mach.placeReq (s : Mach) (r : Req) : Mach :=
  let on := fun (s : Mach) (l : Option Nat) => match l with
    | none => s
    | some k =>
      (s.modLodge (fun x => { x with reqs := modWhere (fun q => q.id == r.id) (fun q => { q with link := l }) x.reqs })).queueTx k
        { msg := r.msg, cls := r.cls, isPut := r.use.isPut, req := some r.id }
  if r.link.isSome then s
  else
    match r.use with
    | .get n t => (s.dropReq r.id).resendGet n t
    | .put n t _ =>
      match (s.task n t).bind (fun t => t.link) with
      | some l => on s (some l)
      | none =>
        let l := s.putLink r.dev
        on (s.modTask n t (fun t => { t with link := l })) l
    | _ => on s (s.otherLink r.dev)

def Mach.placeReqs (s : Mach) (dev : Nat) : Mach :=
  overList (fun s (r : Req) => if r.dev == dev then s.placeReq r else s) s s.lodge.reqs

/-! ## Losing a tier or a peer (R300) -/

/-- What becomes of a task when the windows `hit` are lost. -/
def Mach.loseTask (s : Mach) (n : Nat) (t : Task) (tiers : List Nat) (hit : Nat → Bool) : Mach :=
  -- nothing that the task has issued toward the peer is answered any more
  let gone := fun (s : Mach) => (s.dropSends n t.id false).endFailed n t
  match t.kind with
  | .fetch =>
    let inFlight := t.rc.tier == 1 && t.replayRec.isNone && !t.fromRooms && hit t.rc.loc && decide (t.got.length < t.nexp) &&
      (t.ph == .engine || t.ph == .run || t.ph == .move)
    if t.ph == .fail then (if t.rc.tier == 1 && hit t.rc.loc then (s.dropAsks n t.id).endFailed n t else s)
    else if !inFlight then s
    else
      let s := s.dropAsks n t.id
      if t.cancelled then s.endTask n t .aborted else s.failFetch n t .ldgPeer 0 0
  | .stash =>
    if !(t.path == .peer && tiers.contains t.tierix) then s
    else if t.ph == .fail then gone s
    else s.recall n t.id
  | .demote =>
    if !(t.path == .peer && tiers.contains t.tierix) || t.ph == .final then s
    else if t.ph == .fail then gone s
    else s.abandonDemotion n t
  | _ => s

/-- The records that become LOST, as (stage, fill sequence). -/
def Mach.lostRecs (s : Mach) (c : Nat) (hit : Nat → Bool) : List (Nat × Nat) :=
  (s.ctx c).stages.flatMap (fun p =>
    ((List.range p.2.recs.length).zip p.2.recs).filterMap (fun q =>
      if q.2.rc.state == RecState.resident && q.2.rc.tier == 1 && q.2.lost.isNone && hit q.2.rc.loc then some (p.1, q.1) else none))

/-- The lowest link whose far end is a device. -/
def Mach.linkOf (s : Mach) (dev : Nat) : Nat :=
  (findNat (fun l => (s.link l).dev == dev && (s.link l).st == linkUpSt) Config.nLink).getD
    ((findNat (fun l => (s.link l).dev == dev) Config.nLink).getD 0)

/-- Tiers of a context are lost. -/
def Mach.loseTiers (s : Mach) (c : Nat) (tiers : List Nat) (dev cause : Nat) : Mach :=
  let old := (s.ctx c).claims.filter (fun k => tiers.contains k.tier)
  let hit := fun (a : Nat) => old.any (fun k => decide (k.base ≤ a) && decide (a < k.base + k.size))
  let lost := s.lostRecs c hit
  let s := s.modCtx c (fun x => { x with
    claims := x.claims.filter (fun k => !tiers.contains k.tier)
    lostTiers := x.lostTiers ++ tiers.filter (fun t => !x.lostTiers.contains t)
    regained := x.regained.filter (fun t => !tiers.contains t) })
  let s := overList (fun s (p : Nat × Nat) =>
    match s.recInfo c p.1 p.2 with
    | none => s
    | some r =>
      (s.rewriteRec c p.1 p.2 { r.rc with state := .lost }).modRec c p.1 p.2 (fun r => { r with lost := some .ldgPeer })) s lost
  let s := (s.logv { status := .ldgPeer, src := srcAgent, unit := s.linkOf dev, ctx := some c
                     value := wordN [(lost.length, 0), (cause, 32)], aux0 := dev }).raiseCtx c irqLdgpeer
  overList (fun s n =>
    Mach.overTasks n (fun s t => if t.ctx == c then s.loseTask n t tiers hit else s) s) s (List.range 6)

/-- Causes in the log entry: a link did not return, a request timed out, a new epoch, VLIMIT, EVICT, a device field. -/
def causeLink : Nat := 1
def causeReq : Nat := 2
def causeEpoch : Nat := 3
def causeVlimit : Nat := 4
def causeEvict : Nat := 5
def causeDev : Nat := 6

/-- A peer is lost to this device as requester. -/
def Mach.losePeer (s : Mach) (mem : Mems) (dev cause : Nat) : Mach :=
  let reqs := s.lodge.reqs.filter (fun r => r.dev == dev)
  let s := (s.dropReqs (fun r => r.dev == dev)).modPeer dev (fun p => { p with down := false, downAge := 0 })
  let s := overList (fun s c =>
    let tiers := ((s.ctx c).claims.filter (fun k => k.dev == dev)).map (fun k => k.tier)
    if tiers.isEmpty then s else s.loseTiers c tiers dev cause) s (List.range 4)
  let s := overList (fun s (r : Req) => match r.use with
    | .claim c t swap => s.claimFailed mem c t swap 0xFF
    | _ => s) s reqs
  -- a window acknowledged to an arm or exchange still under way is lost with its peer
  overList (fun s (p : Nat × Bool) =>
    match (s.ctx p.1).claimsFor p.2 with
    | none => s
    | some k =>
      match k.acked.find? (fun q => q.dev == dev) with
      | some q =>
        (s.setClaims p.1 p.2 (some { k with acked := k.acked.filter (fun r => r.dev != dev) })).claimFailed mem p.1 q.tier p.2 0xFF
      | none => s) s ((List.range 4).flatMap (fun c => [(c, false), (c, true)]))

/-- As innkeeper: every claim, bed, PUT and GET of a device is gone (R288). -/
def Mach.freePeer (s : Mach) (dev : Nat) : Mach :=
  let s := overList (fun s (p : Nat × Option InnClaim) =>
    match p.2 with
    | some k => if k.dev == dev then s.endInnClaim (s.bedAgent dev) p.1 else s
    | none => s) s s.lodge.claims
  s.modLodge (fun x => { x with
    puts := x.puts.filter (fun p => p.dev != dev), gets := x.gets.filter (fun g => g.dev != dev) })

/-- The epoch of a peer's HELLO is recorded. -/
def Mach.takeHello (s : Mach) (mem : Mems) (l : Nat) (m : LMsg) : Mach :=
  let d := (s.link l).dev
  let e := W64.bits m.a0 15 0
  let fresh := match (s.peer d).epoch with
    | some old => old != e
    | none => false
  let s := if fresh then (s.losePeer mem d causeEpoch).freePeer d else s
  let s := s.modPeer d (fun p => { p with epoch := some e, viol := 0, violDue := false, haltd := false })
  let s := s.modLink l (fun k => { k with epoch := some e, helloSeen := true, credits := 32 })
  let s := if (s.link l).helloSent then s else s.sendHello l
  s.placeReqs d

/-! ## Links -/

/-- A link becomes UP. -/
def Mach.linkUp (s : Mach) (l dev : Nat) : Mach :=
  if (s.link l).st == linkUpSt then s
  else
    let same := (s.link l).dev == dev
    let s := s.modLink l (fun k => { k with
      st := linkUpSt, dev, helloSent := false, helloSeen := false, epoch := if same then k.epoch else none, credits := 0, tx := [], rx := [] })
    let s := (s.wakeStation (agentOf l)).modPeer dev (fun p => { p with down := false, downAge := 0 })
    (s.sendHello l).placeReqs dev

def Link.evicts (k : Link) : List TxMsg := k.tx.filter (fun x => x.msg.op == lopEvict)

/-- A link leaves UP for the state `st`: nothing waits on it, and no PUT or GET that came by it is open. EVICTs that
waited on it go out by another link to the same device. -/
def Mach.linkCut (s : Mach) (l st : Nat) : Mach :=
  let k := s.link l
  let s := s.modLink l (fun k => { k with st, helloSent := false, helloSeen := false, credits := 0, tx := [], rx := [] })
  let s := s.modLodge (fun x => { x with
    puts := x.puts.filter (fun p => p.link != l), gets := x.gets.filter (fun g => g.link != l) })
  let s := s.modPeer k.dev (fun p => if p.down then p else { p with down := true, downAge := 0 })
  match s.otherLink k.dev with
  | some o => overList (fun s x => s.queueTx o x) s k.evicts
  | none => s

/-- What this device had sent on a link to device `d` and has no answer to is taken as not delivered, and sent again on
the links that are UP (R299). -/
def Mach.sendAgain (s : Mach) (l d : Nat) : Mach :=
  let s := s.dropReqs (fun r => r.link == some l && (r.use.isPut || r.use.isGet))
  let s := s.modLodge (fun x => { x with
    reqs := modWhere (fun r => r.link == some l) (fun r => { r with link := none, sent := false }) x.reqs })
  let s := overList (fun s n =>
    Mach.overTasks n (fun s t =>
      if t.ph == .fail then s.notDelivered n t l
      else if t.link != some l then s.resendMores n t.id l
      else if t.kind == .fetch then s.resendGet n t.id
      else if t.path == .peer && !(t.allCoded && t.blks.all (fun b => b.st == .acked)) then s.resendPuts n t.id
      else s) s) s (List.range 6)
  s.placeReqs d

/-- A link leaves UP (R299), or one that is not UP changes its state. -/
def Mach.linkDown (s : Mach) (l : Nat) (training : Bool) : Mach :=
  let st := if training then linkTraining else linkDownSt
  if (s.link l).st != linkUpSt then s.modLink l (fun k => { k with st })
  else (s.linkCut l st).sendAgain l (s.link l).dev

/-! ## Timers -/

def Mach.glTmo (s : Mach) : Nat := W64.bits s.regs.glTmo 31 0

/-- A request of this device has waited for its answer for the timeout (R297). -/
def Mach.reqTimeout (s : Mach) (mem : Mems) (id : Nat) : Mach :=
  match s.lodge.reqs.find? (fun r => r.id == id) with
  | none => s
  | some r => if s.glTmo ≤ r.age then s.losePeer mem r.dev causeReq else s

/-- No link to a peer has returned within the timeout (R299). -/
def Mach.linkTimeout (s : Mach) (mem : Mems) (dev : Nat) : Mach :=
  let p := s.peer dev
  if p.down && (s.upLinks dev).isEmpty && decide (s.glTmo ≤ p.downAge) then s.losePeer mem dev causeLink else s

/-- The violations of a peer have reached VLIMIT (R303). -/
def Mach.vlimitReached (s : Mach) (mem : Mems) (dev : Nat) : Mach :=
  if (s.peer dev).violDue then
    (s.modPeer dev (fun p => { p with violDue := false, haltd := true })).losePeer mem dev causeVlimit
  else s

/-! ## Sending (R280, R281, R287, R288, R293) -/

/-- Requests go to a peer whose epoch is recorded; on a link that has been down, after its HELLO (R288, R299). -/
def Mach.knownOn (s : Mach) (l : Nat) : Bool :=
  let k := s.link l
  k.helloSeen || (k.epoch.isNone && (s.peer k.dev).epoch.isSome)

/-- A PUT of a task none of whose blocks has been sent stays at level 2 and above (R49, R377, R378). -/
def Mach.firstHeld (s : Mach) (x : TxMsg) : Bool :=
  decide (2 ≤ s.level) && (match (x.req.bind (fun id => s.lodge.reqs.find? (fun (r : Req) => r.id == id))).map Req.use with
    | some (.put n t _) => ((s.task n t).map (fun t => !t.started)).getD false
    | _ => false)

/-- The message may go now, its tokens apart. -/
def Mach.sendable (s : Mach) (l : Nat) (x : TxMsg) : Bool :=
  (!x.isPut || decide (0 < (s.link l).credits)) && !s.firstHeld x &&
    (x.msg.op == lopHello || (x.req.isNone && x.more.isNone) || s.knownOn l)

/-- The message of a link that is sent next: class 0 first, in order within a class. -/
def Mach.nextTx (s : Mach) (l : Nat) : Option (Nat × TxMsg) :=
  let k := s.link l
  match findIx (fun (x : TxMsg) => x.cls == 0 && s.sendable l x) k.tx 0 with
  | some p => some p
  | none => findIx (fun (x : TxMsg) => s.sendable l x) k.tx 0

/-- What a message that has gone out changes: its request has been sent and waits for its answer, the task of a PUT has
sent its first block (R49), and a MORE grants its room (R296). -/
def Mach.hasGone (s : Mach) (l : Nat) (x : TxMsg) : Mach :=
  let s := match x.more with
    | some p => s.modTask p.1 p.2 (fun t => { t with mores := markMore l t.mores })
    | none => s
  match x.req with
  | none => s
  | some id =>
    let s := s.modLodge (fun y => { y with reqs := modWhere (fun r => r.id == id) (fun r => { r with sent := true, age := 0 }) y.reqs })
    match (s.lodge.reqs.find? (fun (r : Req) => r.id == id)).map Req.use with
    | some (.put n t _) => s.modTask n t (fun t => { t with started := true })
    | _ => s

def Mach.lodgingSend (s : Mach) (l : Nat) : Mach :=
  let k := s.link l
  if k.st != linkUpSt || s.epoch == 0 || k.tx.isEmpty then s
  else if (s.st (agentOf l)).pwr != .active then s.wakeStation (agentOf l)
  else
    match s.nextTx l with
    | none => s
    | some (i, x) =>
      let cost := 3 * x.msg.len
      if k.tokens < cost then s
      else
        let msg := if x.msg.op = lopHello then x.msg else x.msg.withEpoch ((s.peer k.dev).epoch.getD 0)
        ((s.wakeStation (agentOf l)).modLink l (fun k => { k with
          tx := k.tx.eraseIdx i, tokens := k.tokens - cost, lastSent := some msg
          credits := if x.isPut then k.credits - 1 else k.credits })).hasGone l x

/-! ## The commands -/

/-- LINK_UP (R288, R299). -/
def execLinkUp (l dev : Nat) (s : State) : Out :=
  act (.linkUp l dev) s (fun _ m => m.linkUp l dev)

/-- LINK_DOWN (R299). -/
def execLinkDown (l : Nat) (training : Bool) (s : State) : Out :=
  act (.linkDown l training) s (fun _ m => m.linkDown l training)

/-- LODGING_TIMEOUT (R297, R300). -/
def execLodgingTimeout (req : Nat) (s : State) : Out :=
  act (.lodgingTimeout req) s (fun mem m => m.reqTimeout mem req)

/-- PEER_LINK_TIMEOUT (R299, R300). -/
def execPeerLinkTimeout (dev : Nat) (s : State) : Out :=
  act (.peerLinkTimeout dev) s (fun mem m => m.linkTimeout mem dev)

/-- VLIMIT_REACHED (R303). -/
def execVlimitReached (dev : Nat) (s : State) : Out :=
  act (.vlimitReached dev) s (fun mem m => m.vlimitReached mem dev)

/-- LODGING_SEND (R280, R287, R293). -/
def execLodgingSend (l : Nat) (s : State) : Out :=
  act (.lodgingSend l) s (fun _ m => m.lodgingSend l)

end Sys2Proof.Machine
end

