-- ==== Sys2Proof/Machine/Inn.lean ====
section
/-!
DEFINITION. This device as innkeeper: the checks of a request (R303), claims (R291, R292), blocks put (R284, R294), GET,
MORE, FREE and RELEASE (R296, R298).
-/
namespace Sys2Proof.Machine

/-! ## Messages -/

/-- Bits of ARG words of a message that Table: Lodging opcodes does not name, with the offset of their word; and the
reserved bytes of CLAIM's payload. -/
def argRsvd (m : LMsg) : List (Bool × Nat × Nat) :=
  let part := fun (o : Nat) (w : W64) (hi lo : Nat) => (W64.bits w hi lo != 0, o + lo / 8, W64.bits w hi lo)
  let a0 := part 8 m.a0
  let a1 := part 16 m.a1
  let a2 := part 24 m.a2
  match m.op with
  | 1 => [a0 63 17, a1 63 0, a2 63 0]
  | 2 => [a1 63 4, a2 63 0, (rdNat m.payload 8 8 != 0, 40, rdNat m.payload 8 8)]
  | 3 => [a1 63 0, a2 63 0]
  | 4 => [a1 61 24, a2 63 32]
  | 5 => [a1 62 24, (W64.bits m.a1 63 63 == 0 && m.a2 != 0, 24, m.a2.toNat)]
  | 6 => [(W64.bits m.a1 31 24 == 0 || decide (64 < W64.bits m.a1 31 24), 19, W64.bits m.a1 31 24)]
  | 7 => [a1 63 8]
  | 8 => [a1 61 24]
  | 9 => [a1 63 0, a2 63 0]
  | 10 => [a0 63 0, a1 63 8, a2 63 0]
  | 11 => [a1 63 8]
  | 12 => [a1 63 32]
  | 13 => [a1 63 8, a2 63 0]
  | _ => []

/-- PLEN as the opcode requires. -/
def plenOk (m : LMsg) : Bool :=
  16 * m.plen == m.payload.length &&
    (if m.op = lopClaim then m.plen == 1
     else if m.op = lopPut ∨ m.op = lopData then decide (4 ≤ m.plen) && decide (m.plen ≤ 259)
     else m.plen == 0)

/-- Reserved bits, CLASS and PLEN: the offset and value of the first that is wrong. -/
def msgRsvd (m : LMsg) : Option (Nat × Nat) :=
  firstBadField ([(!plenOk m, 1, m.plen), (W64.bits m.h 24 21 != 0, 2, W64.bits m.h 24 21), (decide (2 ≤ m.cls), 3, m.cls),
    (W64.bits m.h 47 42 != 0, 5, W64.bits m.h 47 42)] ++ argRsvd m)

def isRequest (op : Nat) : Bool :=
  op == lopClaim || op == lopUnclaim || op == lopPut || op == lopGet || op == lopMore || op == lopFree || op == lopRelease

/-! ## NAK and ACK -/

def nakOp : Nat := 0x01
def nakRsvd : Nat := 0x02
def nakDev : Nat := 0x03
def nakEpoch : Nat := 0x04
def nakNoclaim : Nat := 0x05
def nakRemote : Nat := 0x06
def nakNoshare : Nat := 0x07
def nakNoregion : Nat := 0x08
def nakAlign : Nat := 0x09
def nakOverlap : Nat := 0x0A
def nakClaims : Nat := 0x0B
def nakCredit : Nat := 0x0C
def nakCheck : Nat := 0x0D
def nakOrder : Nat := 0x0E
def nakOpen : Nat := 0x0F
def nakFull : Nat := 0x10
def nakLoc : Nat := 0x11
def nakNoget : Nat := 0x12
def nakHalted : Nat := 0x13

/-- A refusal: its code, the offset of the offending field and the value. -/
abbrev Nak := Nat × Nat × Nat

def firstNak : List (Bool × Nak) → Option Nak
  | [] => none
  | (b, n) :: l => if b then some n else firstNak l

def replyCls (m : LMsg) : Nat := if m.cls < 2 then m.cls else 1

/-- An answer to a request, on the link it came by. -/
def Mach.reply (s : Mach) (l : Nat) (m : LMsg) (op : Nat) (a1 a2 : W64) : Mach :=
  s.queueTx l { msg := mkMsg op (replyCls m) s.devid (s.link l).dev m.ctx m.claim m.a0 a1 a2 [], cls := replyCls m }

/-- A request is refused: logged, and answered while this device has an epoch (R287, R303). -/
def Mach.sendNak (s : Mach) (l : Nat) (m : LMsg) (n : Nak) : Mach :=
  let op := if m.op = 0 ∨ lopEvict < m.op then 0 else m.op
  let s := s.violate l m.op n.1 n.2.1 n.2.2
  if s.epoch = 0 then s
  else s.reply l m lopNak (word [(op, 0), (n.1, 8), (n.2.1, 16)]) (BitVec.ofNat 64 n.2.2)

def Mach.sendAck (s : Mach) (l : Nat) (m : LMsg) (v : Nat) : Mach := s.reply l m lopAck (word [(m.op, 0)]) (BitVec.ofNat 64 v)

/-! ## The checks every request has (R303) -/

/-- The claim that a request names, held for its sender and context. -/
def Mach.claimOf (s : Mach) (m : LMsg) : Option InnClaim :=
  match s.innClaim m.claim with
  | some k => if k.dev == m.src && k.ctx == m.ctx then some k else none
  | none => none

def Mach.headFault (s : Mach) (l : Nat) (m : LMsg) : Option Nak :=
  let d := (s.link l).dev
  let r := msgRsvd m
  firstNak [
    ((s.peer d).haltd, nakHalted, 0, m.op),
    (!isRequest m.op, nakOp, 0, m.op),
    (r.isSome, nakRsvd, (r.getD (0, 0)).1, (r.getD (0, 0)).2),
    (m.dst != s.devid, nakDev, 3, m.dst),
    (m.src != d, nakDev, 3, m.src),
    (m.epoch != s.epoch || s.epoch == 0, nakEpoch, 6, m.epoch),
    (m.op != lopClaim && (s.claimOf m).isNone, nakNoclaim, 4, m.claim)]

/-! ## Claims (R291, R292) -/

/-- The context whose guest region in service holds a window, and the region. -/
def Mach.regionOf (s : Mach) (base size : Nat) : Option (Nat × Nat × Nat) :=
  (((List.range 4).filter (fun c => !(s.ctx c).opening)).filterMap (fun c => (s.plan c).map (fun p => (c, p.glob.guestBase, p.glob.guestSize)))).find?
    (fun r => decide (0 < r.2.2) && decide (r.2.1 ≤ base) && decide (base + size ≤ r.2.1 + r.2.2))

def Mach.closeTo (s : Mach) (dev : Nat) : Bool := dev < 8 && bit s.regs.glCtl.toNat dev

def Mach.freeClaim (s : Mach) : Option Nat := findNat (fun i => (s.innClaim i).isNone) 32

def Mach.claimFault (s : Mach) (m : LMsg) : Option Nak :=
  let base := m.a0.toNat
  let size := rdNat m.payload 0 8
  let reg := s.regionOf base size
  let r := reg.getD (0, 0, 0)
  let tableEnd := r.2.1 + Config.roomBytes * tableBeds r.2.2
  firstNak [
    (W64.bits s.regs.glCtl 8 8 == 0 && !s.closeTo m.src, nakRemote, 3, m.src),
    (W64.bits s.regs.bwSplit 20 16 == 0, nakNoshare, 0, m.op),
    (reg.isNone, nakNoregion, 8, base),
    ((base - r.2.1) % Config.roomBytes != 0, nakAlign, 8, base),
    (size == 0 || size % Config.roomBytes != 0, nakAlign, 32, size),
    (decide (base < tableEnd), nakOverlap, 8, base),
    (s.lodge.claims.any (fun p => match p.2 with
      | some k => (k.dev != m.src || k.ctx != m.ctx) && decide (k.base < base + size) && decide (base < k.base + k.size)
      | none => false), nakOverlap, 8, base),
    (s.freeClaim.isNone, nakClaims, 0, m.op)]

def Mach.innClaimReq (s : Mach) (l : Nat) (m : LMsg) : Mach :=
  let base := m.a0.toNat
  let size := rdNat m.payload 0 8
  match s.claimFault m, s.regionOf base size, s.freeClaim with
  | some n, _, _ => s.sendNak l m n
  | none, some r, some i =>
    (s.modLodge (fun x => { x with claims := aset none x.claims i (some { dev := m.src, ctx := m.ctx, base, size, owner := r.1
                                                                          region := r.2.1 }) })).sendAck l m i
  | none, _, _ => s

def Mach.innUnclaim (s : Mach) (l : Nat) (m : LMsg) (k : InnClaim) : Mach :=
  if m.a0.toNat ≠ k.base then s.sendNak l m (nakNoregion, 8, m.a0.toNat)
  else (s.endInnClaim (agentOf l) m.claim).sendAck l m 0

/-! ## PUT (R284, R293, R294) -/

/-- Where block `i` of lengths packed into beds lies: its bed's index and its offset there. -/
def bedPlace (lens : List Nat) (i : Nat) : Nat × Nat :=
  let z := (lens.take (i + 1)).foldl (fun (a : Nat × Nat × Nat × Bool) n =>
    -- bed index, bytes in it, offset of the last block, some bed is begun
    if !a.2.2.2 then (0, n, 0, true)
    else if Config.roomBytes < a.2.1 + n then (a.1 + 1, n, 0, true)
    else (a.1, a.2.1 + n, a.2.1, true)) (0, 0, 0, false)
  (z.1, z.2.2.1)

def Mach.innRec (s : Mach) (dev ledger : Nat) : Option InnRec :=
  s.lodge.recs.find? (fun r => r.dev == dev && r.ledger == ledger)

/-- What NAK_CHECK finds in a sealed block. -/
def checkFault (m : LMsg) : Option Nak :=
  let p := m.payload
  let t := trailer p
  let o := 32 + p.length - 16
  let ct := rdNat t 0 2
  firstNak [
    (decide (ct < 3) || decide (258 < ct) || ct + 1 != m.plen, nakCheck, o, ct),
    (rdNat t 3 5 != 0, nakCheck, o + 3, rdNat t 3 5),
    (!trailerCheckOk p, nakCheck, o + 8, rdNat t 8 8)]

/-- The lowest free bed of a claim's window; beds of the record that FIRST replaces are free. -/
def Mach.freeBed (s : Mach) (k : InnClaim) (old : List Nat) : Option Nat :=
  (findNat (fun i => let b := k.base + Config.roomBytes * i
    !s.busyBed b || old.contains b) (k.size / Config.roomBytes)).map (fun i => k.base + Config.roomBytes * i)

def putFirst (m : LMsg) : Bool := W64.bits m.a1 62 62 == 1
def putLast (m : LMsg) : Bool := W64.bits m.a1 63 63 == 1
def msgBlk (m : LMsg) : Nat := W64.bits m.a1 23 0

/-- A block needs a further bed. -/
def InnRec.needsBed (r : InnRec) (len : Nat) : Bool :=
  match r.used.getLast? with
  | some u => decide (Config.roomBytes < u + len)
  | none => true

def Mach.putFault (s : Mach) (l : Nat) (m : LMsg) (k : InnClaim) (rc : Option InnRec) : Option Nak :=
  let first := putFirst m
  let r := rc.getD { dev := 0, ledger := 0, ctx := 0, claim := 0, step := 0, link := none }
  let opened := (s.lodge.recs.filter (fun q => q.link == some l && !(q.dev == m.src && q.ledger == m.a0.toNat))).length
  match firstNak [(decide (32 ≤ (s.lodge.puts.filter (fun p => p.link == l)).length), nakCredit, 0, m.op)], checkFault m with
  | some n, _ => some n
  | none, some n => some n
  | none, none =>
    firstNak [
      (first && msgBlk m != 0, nakOrder, 16, msgBlk m),
      (!first && (rc.isNone || r.link.isNone || msgBlk m != r.lens.length), nakOrder, 16, msgBlk m),
      (first && decide (16 ≤ opened), nakOpen, 0, m.op),
      ((first || r.needsBed m.payload.length) && (s.freeBed k (if first then r.beds else [])).isNone, nakFull, 0, m.op)]

/-- The block joins the record, in a new bed where it needs one. -/
def InnRec.add (r : InnRec) (bed : Option Nat) (len : Nat) : InnRec :=
  match bed with
  | some b => { r with beds := r.beds ++ [b], used := r.used ++ [len], lens := r.lens ++ [len] }
  | none => { r with used := r.used.dropLast ++ [(r.used.getLast?).getD 0 + len], lens := r.lens ++ [len] }

def Mach.innPut (s : Mach) (l : Nat) (m : LMsg) (k : InnClaim) : Mach :=
  let first := putFirst m
  let ledger := m.a0.toNat
  let rc := s.innRec m.src ledger
  let elsewhere := match rc.bind (fun r => r.link) with
    | some o => o != l
    | none => false
  if !first && elsewhere then s
  else
    match s.putFault l m k rc with
    | some n => s.sendNak l m n
    | none =>
      let s := match rc with
        | some r => if first then s.freeInnRec (agentOf l) r else s
        | none => s
      let fresh : InnRec :=
        { dev := m.src, ledger, ctx := m.ctx, claim := m.claim, step := W64.bits m.a2 7 0, link := some l }
      let r := if first then fresh else rc.getD fresh
      let len := m.payload.length
      let bed := if r.needsBed len then s.freeBed k [] else none
      let r' := r.add bed len
      let s := s.modLodge (fun x => { x with
        recs := if first then x.recs ++ [r'] else modWhere (fun q => q.dev == r.dev && q.ledger == r.ledger) (fun _ => r') x.recs })
      let n := agentOf l
      let p := s.freshId n
      let put : InnPut := { id := p.1, link := l, dev := m.src, ctx := m.ctx, cls := replyCls m, claim := m.claim, ledger
                            blk := msgBlk m, fin := putLast m, loc := (r'.beds.head?).getD 0 }
      let s := p.2.modLodge (fun x => { x with puts := x.puts ++ [put] })
      let at_ := bedPlace r'.lens (r'.lens.length - 1)
      let a := (r'.beds[at_.1]?).getD 0 + at_.2
      let acc : Access := { share := 2, cls := replyCls m, ctx := m.ctx, chan := 8, addr := a, len, write := true
                            hook := .guestWrite put.id }
      let s := s.queueAcc n { acc with cost := roundUp len 4096, data := placed a m.payload }
      -- the entry of the bed before it when it is linked, and its own
      let i := r'.beds.length - 1
      let entry := fun (s : Mach) i =>
        s.writeBed n m.ctx acc.cls k.region ((r'.beds[i]?).getD 0) (r'.bedEntry k.region i) acc.hook
      let s := if bed.isSome && decide (1 ≤ i) then entry s (i - 1) else s
      entry s i

/-- Every write of a PUT has its response: it is answered, and the last block closes its record, unless a later FIRST has
replaced that (R294). -/
def Mach.putWritten (s : Mach) (n id : Nat) : Mach :=
  let more := ((s.st n).acc ++ (s.st n).outst).any (fun a => a.hook == .guestWrite id)
  match s.lodge.puts.find? (fun p => p.id == id && agentOf p.link == n) with
  | none => s
  | some p =>
    if more then s
    else
      let s := s.modLodge (fun x => { x with
        puts := x.puts.filter (fun q => !(q.id == id && agentOf q.link == n))
        recs := if p.fin && !p.stale then modWhere (fun r => r.dev == p.dev && r.ledger == p.ledger) (fun r => { r with link := none }) x.recs
                else x.recs })
      s.queueTx p.link
        { msg := mkMsg lopPutAck p.cls s.devid p.dev p.ctx p.claim (BitVec.ofNat 64 p.ledger)
            (word [(p.blk, 0), (b2n p.fin, 63)]) (BitVec.ofNat 64 (if p.fin then p.loc else 0)) [], cls := p.cls }

/-! ## GET, MORE, FREE, RELEASE (R296, R298) -/

/-- The closed record of a claim whose HEAD bed is at `loc`. -/
def Mach.recAt (s : Mach) (claim loc : Nat) : Option InnRec :=
  s.lodge.recs.find? (fun r => r.claim == claim && r.link.isNone && r.beds.head? == some loc)

def Mach.innGet (s : Mach) (id : Nat) : Option InnGet := s.lodge.gets.find? (fun g => g.id == id)

/-- A GET reads its next block when a room is granted for the block's bed, one block at a time. -/
def Mach.pumpGet (s : Mach) (id : Nat) : Mach :=
  match s.innGet id with
  | none => s
  | some g =>
    let n := agentOf g.link
    let busy := ((s.st n).acc ++ (s.st n).outst).any (fun a => a.hook == .guestRead id)
    match s.recAt g.claim g.loc with
    | none => s
    | some r =>
      if busy || (!g.inBed && g.rooms == 0) || decide (r.lens.length ≤ g.nextBlk) then s
      else
        let at_ := bedPlace r.lens g.nextBlk
        let len := (r.lens[g.nextBlk]?).getD 0
        let s := s.modLodge (fun x => { x with
          gets := modWhere (fun q => q.id == id) (fun q => { q with inBed := true, rooms := if q.inBed then q.rooms else q.rooms - 1 })
            x.gets })
        s.queueAcc n { share := 2, cls := g.cls, ctx := g.ctx, chan := 8, cost := roundUp len 4096, len
                       addr := (r.beds[at_.1]?).getD 0 + at_.2, hook := .guestRead id }

def Mach.innGetReq (s : Mach) (l : Nat) (m : LMsg) : Mach :=
  let loc := m.a0.toNat
  let opened := (s.lodge.gets.filter (fun g => g.link == l)).length
  let rc := s.recAt m.claim loc
  let lens := (rc.map (fun r => r.lens)).getD []
  match firstNak [(decide (16 ≤ opened), nakOpen, 0, m.op), (rc.isNone, nakLoc, 8, loc),
      (decide (lens.length ≤ msgBlk m), nakLoc, 16, msgBlk m),
      (W64.bits m.a1 63 32 != sumNat lens, nakLoc, 20, W64.bits m.a1 63 32)] with
  | some n => s.sendNak l m n
  | none =>
    let p := s.freshId (agentOf l)
    -- GET identities are unique over the agents
    let id := 16 * p.1 + agentOf l
    let g : InnGet := { id, link := l, dev := m.src, ctx := m.ctx, cls := replyCls m, claim := m.claim, loc
                        ledger := m.a2.toNat, nextBlk := msgBlk m, rooms := W64.bits m.a1 31 24 }
    (p.2.modLodge (fun x => { x with gets := x.gets ++ [g] })).pumpGet id

def Mach.innMore (s : Mach) (l : Nat) (m : LMsg) : Mach :=
  let rooms := W64.bits m.a1 7 0
  let g := s.lodge.gets.find? (fun g => g.dev == m.src && g.ctx == m.ctx && g.claim == m.claim && g.loc == m.a0.toNat &&
    g.ledger == m.a2.toNat)
  match g with
  | none => s.sendNak l m (nakNoget, 8, m.a0.toNat)
  | some g =>
    if rooms = 0 ∨ 64 < rooms then s.sendNak l m (nakNoget, 16, rooms)
    else
      (s.modLodge (fun x => { x with
        gets := modWhere (fun q => q.id == g.id) (fun q => { q with rooms := q.rooms + rooms }) x.gets })).pumpGet g.id

/-- A block of a GET has been read: it goes out as DATA. An uncorrectable error ends the GET (DESIGN CHOICE, log
entry 51). -/
def Mach.getRead (s : Mach) (id : Nat) (data : List Byte) (err : Bool) (addr : Nat) : Mach :=
  match s.innGet id with
  | none => s
  | some g =>
    let gone := fun (s : Mach) => s.modLodge (fun x => { x with gets := x.gets.filter (fun q => q.id != id) })
    match s.recAt g.claim g.loc with
    | none => gone s
    | some r =>
      if err then gone (s.logv { status := .rderr, src := srcAgent, unit := g.link, addr, aux0 := g.dev })
      else
        let i := g.nextBlk
        let isLast := decide (r.lens.length ≤ i + 1)
        let bedEnd := isLast || (bedPlace r.lens (i + 1)).1 != (bedPlace r.lens i).1
        let s := s.queueTx g.link
          { msg := mkMsg lopData g.cls s.devid g.dev g.ctx g.claim (BitVec.ofNat 64 g.loc)
              (word [(i, 0), (b2n bedEnd, 62), (b2n isLast, 63)]) (BitVec.ofNat 64 g.ledger) data, cls := g.cls }
        if isLast then gone s
        else
          (s.modLodge (fun x => { x with
            gets := modWhere (fun q => q.id == id) (fun q => { q with nextBlk := i + 1, inBed := !bedEnd }) x.gets })).pumpGet id

def Mach.innFree (s : Mach) (l : Nat) (m : LMsg) : Mach :=
  match s.recAt m.claim m.a0.toNat with
  | none => s.sendNak l m (nakLoc, 8, m.a0.toNat)
  | some r => (s.freeInnRec (agentOf l) r).sendAck l m r.beds.length

def Mach.innRelease (s : Mach) (l : Nat) (m : LMsg) : Mach :=
  let p := fun (r : InnRec) => r.claim == m.claim && r.step == W64.bits m.a1 7 0
  let n := sumNat ((s.lodge.recs.filter p).map (fun r => r.beds.length))
  (s.freeInnRecs (agentOf l) p).sendAck l m n

/-! ## A request -/

/-- An innkeeper checks a request and acts on it. -/
def Mach.innRequest (s : Mach) (l : Nat) (m : LMsg) : Mach :=
  match s.headFault l m with
  | some n => s.sendNak l m n
  | none =>
    if m.op = lopClaim then s.innClaimReq l m
    else
      match s.claimOf m with
      | none => s
      | some k =>
        if m.op = lopUnclaim then s.innUnclaim l m k
        else if m.op = lopPut then s.innPut l m k
        else if m.op = lopGet then s.innGetReq l m
        else if m.op = lopMore then s.innMore l m
        else if m.op = lopFree then s.innFree l m
        else s.innRelease l m

end Sys2Proof.Machine
end

