-- ==== Sys2Proof/Machine/Answers.lean ====
section
/-!
DEFINITION. Lodging messages as they arrive: what a requester makes of answers (R289, R290, R295, R296, R301, R304),
EVICT (R300), the hold of a message for a sleeping agent (R370), and the commands of received messages.
-/
namespace Sys2Proof.Machine

/-! ## Requests that wait for an answer -/

/-- The oldest request sent on a link that satisfies `p`. -/
def Mach.reqOn (s : Mach) (l : Nat) (p : Req → Bool) : Option Req :=
  s.lodge.reqs.find? (fun r => r.sent && r.link == some l && p r)

/-- The record's PUT of a block; a PUT of an attempt given up counts for any block. -/
def Mach.putReq (s : Mach) (l ledger blk : Nat) (fin : Bool) : Option Req :=
  let of_ := fun (r : Req) => r.use.isPut && r.msg.a0.toNat == ledger
  let old := fun (r : Req) => match r.use with
    | .putOld _ _ _ _ _ => true
    | _ => false
  match s.reqOn l (fun r => of_ r && !old r && msgBlk r.msg == blk && putLast r.msg == fin) with
  | some r => some r
  | none => s.reqOn l (fun r => of_ r && old r)

/-- The GET of a record: one whose fetch goes on, else one whose fetch is over. -/
def Mach.getReq (s : Mach) (l loc ledger : Nat) : Option Req :=
  let of_ := fun (r : Req) => r.use.isGet && r.msg.a0.toNat == loc && r.msg.a2.toNat == ledger
  let live := fun (r : Req) => match r.use with
    | .get n t => (s.task n t).isSome
    | _ => false
  match s.reqOn l (fun r => of_ r && live r) with
  | some r => some r
  | none => s.reqOn l of_

/-! ## Recalling -/

/-- A record that its innkeeper will not hold comes back to the Cellar; a demotion is abandoned (R300 step 2, R304). -/
def Mach.takeBack (s : Mach) (n id : Nat) : Mach :=
  match s.task n id with
  | none => s
  | some t =>
    if t.kind != .demote then s.recall n id
    else if t.ph == .fail then s
    else s.abandonDemotion n t

def Mach.giveCredit (s : Mach) (l : Nat) : Mach := s.modLink l (fun k => { k with credits := min 32 (k.credits + 1) })

/-! ## PUT_ACK (R293, R295) -/

def Mach.putAck (s : Mach) (l : Nat) (m : LMsg) : Mach :=
  match s.putReq l m.a0.toNat (msgBlk m) (putLast m) with
  | none => s.violate l m.op 0 8 m.a0.toNat
  | some r =>
    let s := (s.dropReq r.id).giveCredit l
    match r.use with
    | .put n id b =>
      match s.task n id with
      | none => s
      | some t =>
        let loc := m.a2.toNat
        let s := s.setBlk n id b (fun b => { b with st := .acked })
        let good := match (s.ctx t.ctx).claimAt loc with
          | some k => k.tier == t.tierix && (loc - k.base) % Config.roomBytes == 0
          | none => false
        if !putLast m then s.tierAcked n id
        else if good then (s.modTask n id (fun t => { t with loc })).tierAcked n id
        else (s.violate l m.op 0 24 loc).takeBack n id
    -- the record of an attempt given up stands at the innkeeper from now: its beds are freed (R54, R298)
    | .putOld c free _ _ _ => if free && putLast m then s.sendFree c m.a2.toNat else s
    | _ => s

/-! ## DATA (R296, R200) -/

/-- A fetch from a peer fails on its data: the fault is at `off` of the message, where `value` stands. -/
def Mach.dataFails (s : Mach) (l : Nat) (m : LMsg) (off value n : Nat) (t : Task) (st : Status) (kind blk : Nat) : Mach :=
  let s := s.violate l m.op 0 off value
  if t.cancelled then s.endTask n t .aborted else s.failFetch n t st kind blk

/-- Where the blocks of a peer's record depart from what is expected as block `i` comes: past STORLEN, the first block
missing, or bytes left beyond the last (R202, R204). -/
def Task.dataEnd (t : Task) (m : LMsg) : Option Nat :=
  let i := t.got.length
  let rest := t.rc.storLen - t.rcvd
  let len := m.payload.length
  if rest < len then some i
  else if putLast m then (if i + 1 < t.nexp then some (i + 1) else if len < rest then some t.nexp else none)
  else if t.nexp ≤ i + 1 then some t.nexp
  else none

/-- The blocks of a peer's record that stand in the rooms granted behind the last bed that has ended, by their sealed
lengths. -/
def Task.openBed (t : Task) : List Nat :=
  let lens := t.got.map t.roomLen
  (List.range lens.length).filterMap (fun i => if t.bedBase < sumNat (lens.take (i + 1)) then lens[i]? else none)

/-- A block of `len` bytes and those of beds that have not ended take more rooms than are granted (R296, R304). -/
def Task.beyondRooms (t : Task) (len : Nat) : Bool :=
  decide (t.granted - t.beds < (packRooms (t.openBed ++ [len])).1)

/-- A block of a peer's record has come: the requests whose beds are in have ended (R133, R296). -/
def Mach.bedIn (s : Mach) (n : Nat) (t : Task) (m : LMsg) : Task × Mach :=
  let beds := t.beds + b2n (putFirst m)
  let t := { t.bedOver beds with
    beds, rcvd := t.rcvd + m.payload.length, bedBase := if putFirst m then t.rcvd + m.payload.length else t.bedBase }
  (t, (s.modTask n t.id (fun _ => t)).freeAsks n t.id (if putLast m then 0 else t.rooms - beds) 64)

/-- A block of a peer's record comes: in order, within the rooms granted, and within the record (R200, R202, R296,
R304). What still comes for a fetch that has failed is dropped (R143, R392). -/
def Mach.dataFor (s : Mach) (l : Nat) (m : LMsg) (n : Nat) (t : Task) : Mach :=
  let i := t.got.length
  let len := m.payload.length
  let p := s.bedIn n t m
  if t.ph == .fail then p.2.endFailed n p.1
  else if msgBlk m ≠ i ∨ t.beyondRooms len then p.2.dataFails l m 16 (msgBlk m) n t .lenfault kRecord i
  else
    match openBlock (s.key t.rc.keySlot) (s.tweakOf t) { s.expectOf t with block := i, storLen := t.rc.storLen - t.rcvd }
        m.payload with
    | .error (st, k) => p.2.dataFails l m 32 (rdNat m.payload 0 8) n t st k i
    | .ok b =>
      match t.dataEnd m with
      | some j => p.2.dataFails l m 16 (b2n (putLast m)) n t .lenfault kRecord j
      | none =>
        let s := p.2
        let t := { p.1 with got := t.got ++ [b] }
        if t.cancelled then
          let s := s.addWasted t.ctx t.stage len
          let t := { t with used := t.rcvd, roomsBack := t.beds }
          if t.allRead then s.endTask n t .aborted else s.modTask n t.id (fun _ => t)
        else s.modTask n t.id (fun _ => t)

def Mach.dataMsg (s : Mach) (l : Nat) (m : LMsg) : Mach :=
  match s.getReq l m.a0.toNat m.a2.toNat with
  | none => s.violate l m.op 0 8 m.a0.toNat
  | some r =>
    let s := if putLast m then s.dropReq r.id
      else s.modLodge (fun x => { x with reqs := modWhere (fun q => q.id == r.id) (fun q => { q with age := 0 }) x.reqs })
    match r.use with
    | .get n id =>
      match s.task n id with
      | some t => s.dataFor l m n t
      | none => s
    | _ => s

/-! ## ACK (R290, R292, R298, R301) -/

/-- A lost tier's window is held again. -/
def Mach.reclaimed (s : Mach) (c tier : Nat) (r : Req) (index : Nat) : Mach :=
  let base := r.msg.a0.toNat
  let size := rdNat r.msg.payload 0 8
  let k : ReqClaim := { tier, dev := r.dev, base, size, claim := index }
  let same := match s.plan c with
    | some p => (p.tier tier).base == base && (p.tier tier).size == size
    | none => false
  if same && (s.ctx c).lostTiers.contains tier && !(s.ctx c).regained.contains tier then
    s.modCtx c (fun x => { x with claims := x.claims ++ [k], regained := x.regained ++ [tier] })
  else s.sendUnclaim c k

def Mach.ackMsg (s : Mach) (mem : Mems) (l : Nat) (m : LMsg) : Mach :=
  let op := W64.bits m.a1 7 0
  match s.reqOn l (fun r => r.msg.op == op && r.msg.a0 == m.a0 && r.msg.ctx == m.ctx && !r.use.isPut && !r.use.isGet) with
  | none => s.violate l m.op 0 8 m.a0.toNat
  | some r =>
    let s := s.dropReq r.id
    let index := m.a2.toNat
    match r.use with
    | .claim c t swap => s.claimAcked mem c t swap index
    | .claimOld c => s.sendUnclaim c { tier := 0, dev := r.dev, base := r.msg.a0.toNat, size := 0, claim := index }
    | .reclaim c t => s.reclaimed c t r index
    | .release c =>
      -- the innkeeper has freed the step's records: a GET whose fetch is over gets no more
      s.dropReqs (fun q => match q.use with
        | .get n t => q.dev == r.dev && q.msg.ctx == c && (s.task n t).isNone
        | _ => false)
    | _ => s

/-! ## NAK (R304) -/

/-- A PUT of a task is refused: after the first NAK_CHECK of its record the attempt is sent again, else the record comes
back. A PUT of an attempt given up is one of the record too. -/
def Mach.putRefused (s : Mach) (n id code : Nat) : Mach :=
  match s.task n id with
  | none => s
  | some t =>
    if code = nakCheck ∧ t.retries = 0 then (s.modTask n id (fun t => { t with retries := 1 })).resendPuts n id
    else s.takeBack n id

def Mach.nakMsg (s : Mach) (mem : Mems) (l : Nat) (m : LMsg) : Mach :=
  let op := W64.bits m.a1 7 0
  let code := W64.bits m.a1 15 8
  let off := W64.bits m.a1 31 16
  let val := m.a2.toNat
  if op = lopPut then
    let s := s.violate l op code off val
    match s.reqOn l (fun r => r.use.isPut && r.msg.a0 == m.a0) with
    | none => s
    | some r =>
      let s := (s.dropReq r.id).giveCredit l
      match r.use with
      | .put n id _ => s.putRefused n id code
      | .putOld _ _ n id _ => s.putRefused n id code
      | _ => s
  else if op = lopGet ∨ op = lopMore then
    let s' := s.violate l op code off val
    -- MORE goes by another link than the GET may have gone by
    let dev := (s.link l).dev
    match s.lodge.reqs.find? (fun r => r.sent && r.dev == dev && (op == lopMore || r.link == some l) && r.use.isGet &&
        r.msg.a0 == m.a0 && r.msg.ctx == m.ctx) with
    | none => s'
    | some r =>
      let s := s'.dropReq r.id
      match r.use with
      | .get n id =>
        match s.task n id with
        | some t =>
          -- nothing that it has asked for comes any more
          let s := s.dropAsks n id
          if t.ph == .fail then s.endFailed n t
          else if t.cancelled then s.endTask n t .aborted
          else s.failFetch n t .ldgNak 0 t.got.length
        | none => s
      | _ => s
  else
    match s.reqOn l (fun r => r.msg.op == op && r.msg.a0 == m.a0 && r.msg.ctx == m.ctx) with
    | none => s.violate l op code off val
    | some r =>
      let s := s.dropReq r.id
      match r.use with
      | .claim c t swap => s.claimFailed mem c t swap code
      | .claimOld _ => s
      | .reclaim c _ =>
        s.logv { status := .violGl, src := srcAgent, unit := l, ctx := some c, foff := off, value := glValue op code, addr := val
                 aux0 := r.dev }
      | _ => s.violate l op code off val

/-! ## EVICT (R300, R302) -/

def Mach.evictMsg (s : Mach) (mem : Mems) (l : Nat) (m : LMsg) : Mach :=
  let d := (s.link l).dev
  let c := m.ctx
  let base := m.a0.toNat
  let of_ := fun (k : ReqClaim) => k.dev == d && k.base == base
  let tiers := ((s.ctx c).claims.filter of_).map (fun k => k.tier)
  let s := if tiers.isEmpty then s else s.loseTiers c tiers d causeEvict
  overList (fun s swap =>
    match ((s.ctx c).claimsFor swap).bind (fun k => k.acked.find? of_) with
    | some q => s.claimFailed mem c q.tier swap (W64.bits m.a1 7 0)
    | none => s) s [false, true]

/-! ## A message arrives -/

/-- Who may have sent a message to this device, and for which epoch; a HELLO carries its sender's (R285, R304). -/
def Mach.answer (s : Mach) (mem : Mems) (l : Nat) (m : LMsg) : Mach :=
  let d := (s.link l).dev
  if m.op = 0 ∨ lopEvict < m.op then s.violate l m.op 0 0 m.op
  else if m.src ≠ d ∨ m.dst ≠ s.devid then
    (s.violate l m.op 0 3 (if m.src ≠ d then m.src else m.dst)).losePeer mem d causeDev
  else
    match msgRsvd m with
    | some (o, v) => s.violate l m.op 0 o v
    | none =>
      if m.op = lopHello then s.takeHello mem l m
      else if m.epoch ≠ s.epoch ∨ s.epoch = 0 then s.violate l m.op 0 6 m.epoch
      else if m.op = lopPutAck then s.putAck l m
      else if m.op = lopData then s.dataMsg l m
      else if m.op = lopAck then s.ackMsg mem l m
      else if m.op = lopNak then s.nakMsg mem l m
      else s.evictMsg mem l m

/-- The agent takes a message; one with no valid OP is a request when it came as one. -/
def Mach.takeMsg (s : Mach) (mem : Mems) (l : Nat) (m : LMsg) (asReq : Bool) : Mach :=
  if isRequest m.op || ((m.op == 0 || decide (lopEvict < m.op)) && asReq) then s.innRequest l m else s.answer mem l m

/-- The message of a command arrives: it is the command's when it has its OP, or no valid one. An agent that is OFF
leaves it unanswered, one that sleeps is woken and takes it later (R370, R383); one that is ACTIVE is not idle (R368,
R369). -/
def Mach.receive (s : Mach) (mem : Mems) (l op : Nat) (m : LMsg) : Mach :=
  let n := agentOf l
  if (s.link l).st != linkUpSt || !(m.op == op || m.op == 0 || decide (lopEvict < m.op)) then s
  else if (s.st n).pwr == .off then s
  else
    let s := s.wakeStation n
    if (s.st n).pwr != .active || !(s.link l).rx.isEmpty then s.modLink l (fun k => { k with rx := k.rx ++ [m] })
    else s.takeMsg mem l m (isRequest op)

/-- The messages that waited for an agent are taken in order. -/
def Mach.takeHeld (s : Mach) (mem : Mems) (n : Nat) : Mach :=
  overList (fun s l =>
    if agentOf l != n then s
    else
      let ms := (s.link l).rx
      overList (fun s m => s.takeMsg mem l m true) (s.modLink l (fun k => { k with rx := [] })) ms) s (List.range Config.nLink)

/-! ## The commands -/

/-- HELLO (R288). -/
def execHello (l : Nat) (m : LMsg) (s : State) : Out :=
  act (.hello l m) s (fun mem x => x.receive mem l lopHello m)

/-- CLAIM (R291, R303). -/
def execClaim (l : Nat) (m : LMsg) (s : State) : Out :=
  act (.claim l m) s (fun mem x => x.receive mem l lopClaim m)

/-- UNCLAIM (R292, R303). -/
def execUnclaim (l : Nat) (m : LMsg) (s : State) : Out :=
  act (.unclaim l m) s (fun mem x => x.receive mem l lopUnclaim m)

/-- PUT (R284, R293, R294). -/
def execPut (l : Nat) (m : LMsg) (s : State) : Out :=
  act (.put l m) s (fun mem x => x.receive mem l lopPut m)

/-- PUT_ACK (R293, R295, R304). -/
def execPutAck (l : Nat) (m : LMsg) (s : State) : Out :=
  act (.putAck l m) s (fun mem x => x.receive mem l lopPutAck m)

/-- GET (R296, R303). -/
def execGet (l : Nat) (m : LMsg) (s : State) : Out :=
  act (.get l m) s (fun mem x => x.receive mem l lopGet m)

/-- MORE (R296, R303). -/
def execMore (l : Nat) (m : LMsg) (s : State) : Out :=
  act (.more l m) s (fun mem x => x.receive mem l lopMore m)

/-- DATA (R200, R296, R304). -/
def execData (l : Nat) (m : LMsg) (s : State) : Out :=
  act (.data l m) s (fun mem x => x.receive mem l lopData m)

/-- FREE (R298, R303). -/
def execFree (l : Nat) (m : LMsg) (s : State) : Out :=
  act (.free l m) s (fun mem x => x.receive mem l lopFree m)

/-- RELEASE (R298, R303). -/
def execRelease (l : Nat) (m : LMsg) (s : State) : Out :=
  act (.release l m) s (fun mem x => x.receive mem l lopRelease m)

/-- ACK (R290, R298, R301). -/
def execAck (l : Nat) (m : LMsg) (s : State) : Out :=
  act (.ack l m) s (fun mem x => x.receive mem l lopAck m)

/-- NAK (R290, R304). -/
def execNak (l : Nat) (m : LMsg) (s : State) : Out :=
  act (.nak l m) s (fun mem x => x.receive mem l lopNak m)

/-- EVICT (R300, R302). -/
def execEvict (l : Nat) (m : LMsg) (s : State) : Out :=
  act (.evict l m) s (fun mem x => x.receive mem l lopEvict m)

end Sys2Proof.Machine
end

