-- ==== Sys2Proof/Machine/Power.lean ====
section
/-!
DEFINITION. Power: station sleep (R366–R370, R373), the supply monitor and the shedding levels (R375–R382), stations
OFF and their return (R383, R384).
-/
namespace Sys2Proof.Machine

/-! ## Registers of this chapter (R373, R382) -/

def Mach.cgIdle (s : Mach) : Nat := W64.bits s.regs.pwrCtl 23 16
def Mach.pgIdle (s : Mach) : Nat := W64.bits s.regs.pwrCtl 47 32
def Mach.stayOn (s : Mach) (n : Nat) : Bool := bit s.regs.pwrCtl.toNat n
def Mach.pgEn (s : Mach) : Bool := bit s.regs.pwrCtl.toNat 8
def Mach.pgArmed (s : Mach) : Bool := bit s.regs.pwrCtl.toNat 9

/-- Threshold of a level in mV above 0.600 V. -/
def Mach.shedT (s : Mach) (lvl : Nat) : Nat := natBits s.regs.shedThr.toNat (8 * (lvl - 1) + 7) (8 * (lvl - 1))
/-! ## Sleep (R366–R370) -/

/-- The agent of a station has an open record, an open GET, or a message to send or to answer. -/
def Mach.agentBusy (s : Mach) (n : Nat) : Bool :=
  (List.range Config.nLink).any (fun l => agentOf l == n && (!(s.link l).tx.isEmpty || !(s.link l).rx.isEmpty)) ||
    s.lodge.recs.any (fun r => match r.link with
      | some l => agentOf l == n
      | none => false) ||
    s.lodge.puts.any (fun p => agentOf p.link == n) || s.lodge.gets.any (fun g => agentOf g.link == n)

/-- Writes of a telemetry latch are still to come at a station (R265, R367). -/
def Mach.telOwed (s : Mach) (n : Nat) : Bool :=
  (List.range 4).any (fun c => match (s.ctx c).tel.latch with
    | some l => l.owes n
    | none => false)

/-- R367. -/
def Mach.stationIdle (s : Mach) (n : Nat) : Bool :=
  let x := s.st n
  x.evq.isEmpty && x.evWait.isEmpty && x.held.isEmpty && x.tasks.isEmpty && x.acc.isEmpty && x.outst.isEmpty &&
    x.cellq.isEmpty && x.ticketHeld.isEmpty && x.lanes.isEmpty && !s.agentBusy n && !s.telOwed n &&
    !s.hs.xfers.any (fun t => t.st == n) && !s.hs.inlines.any (fun p => p.2.1 == n) &&
    !(n == 0 && (s.hs.loaderCur.isSome || s.hs.seqLoading))

/-- Gated after CGIDLE × 16 idle sclk (R368). -/
def Mach.clockGate (s : Mach) (n : Nat) : Mach :=
  let x := s.st n
  if x.pwr == .active && s.cgIdle != 0 && !s.stayOn n && s.stationIdle n && decide (16 * s.cgIdle ≤ x.idleSclk) then
    s.modSt n (fun x => { x with pwr := .clockGated, idleSclk := 0 })
  else s

/-- What must hold without a break for power gating: the station is idle, which means that it holds no Inn room, and its
home stages' contexts sleep (R369). -/
def Mach.restful (s : Mach) (n : Nat) : Bool :=
  s.stationIdle n && (List.range 4).all (fun c => match s.plan c with
    | none => true
    | some p =>
      (p.homed n).isEmpty || (s.ctx c).state == .idle ||
        ((s.ctx c).state == .armed && !s.nextArrived c && s.pgArmed))

/-- What must hold for power gating (R369), the count of aclk apart. -/
def Mach.mayPowerGate (s : Mach) (n : Nat) : Bool :=
  (s.st n).pwr == .clockGated && s.pgEn && !s.stayOn n && s.restful n

def Mach.powerGate (s : Mach) (n : Nat) : Mach :=
  if s.mayPowerGate n && decide (s.pgIdle ≤ (s.st n).pgAclk) then s.modSt n (fun x => { x with pwr := .powerGated }) else s

/-- A station that wakes is ACTIVE: what waited for it goes on in order (R370). -/
def Mach.stationWake (s : Mach) (mem : Mems) (n : Nat) : Mach :=
  if (s.st n).pwr == .waking then
    ((((s.modSt n (fun x => { x with pwr := .active, idleSclk := 0 })).discardHeld n).releaseAll).letIn n).takeHeld mem n
  else s

def Mach.wakeMask (s : Mach) (mask : Nat) : Mach :=
  overList (fun s n => if bit mask n then s.modSt n Station.askedAwake else s) s (List.range 6)

/-! ## Levels (R375–R381) -/

/-- What level 2 and above makes of a task of which nothing has been sent (R377, R378): a LODGE or FAR stash goes to the
Cellar, the host lines of a demotion that the attachment holds go back to its rooms to be sent once the level has fallen,
and a task that is over sends nothing any more. -/
def Mach.shedSend (s : Mach) (n : Nat) (t : Task) : Mach :=
  if t.started || !(t.path == .peer || t.path == .far) then s
  else if t.ph == .fail then (s.dropSends n t.id false).endFailed n t
  else if t.kind == .stash then s.recall n t.id
  else if t.kind == .demote && s.hs.ops.any (fun o => o.use == .farLine n t.id) then
    ((s.dropSends n t.id false).modTask n t.id (fun t => { t with
      sendsQueued := 0, blks := t.blks.map (fun b => if b.coded then { b with st := .ready } else b) })).advanceSend n t.id
  else s

def Mach.shedSends (s : Mach) : Mach :=
  overList (fun s n => Mach.overTasks n (fun s t => s.shedSend n t) s) s (List.range 6)

/-- At level 4 and above a stash with blocks to code starts again as KEEP, and a demotion of a KEEP record with blocks
to code is abandoned (R380). -/
def Mach.shedCoding (s : Mach) : Mach :=
  overList (fun s n =>
    Mach.overTasks n (fun s t =>
      if t.kind == .demote then
        (if t.rc.isRaw && !t.allCoded && t.ph != .fail && t.ph != .final then s.abandonDemotion n t else s)
      else s.restartKeep n t.id) s) s (List.range 6)

/-- Every capture stops: a reserve that is CAPTURING, its last writes still out or not, becomes INVALID (R271, R377). -/
def Mach.stopCaptures (s : Mach) : Mach :=
  overList (fun s c => if (s.ctx c).reserve.state == .capturing then s.stopCapture c else s) s (List.range 4)

/-- What a change of the level whose actions apply does to the work under way; `before` was that level (R377–R381). -/
def Mach.levelActs (s : Mach) (before : Nat) : Mach :=
  let now := s.level
  if now = before then s
  else
    let s := if 1 ≤ now then overList Mach.histPartial s.stopCaptures (List.range 4) else s
    let s := if 2 ≤ now then s.shedSends else s
    if 4 ≤ now then s.shedCoding else overList (fun s n => s.fillLanes n 16) s (List.range 6)

/-- The level changes (R376). -/
def Mach.setLevel (s : Mach) (new : Nat) : Mach :=
  let old := s.shed.level
  let before := s.level
  if new = old then s
  else
    let s := { s with shed := { s.shed with level := new, maxLevel := max s.shed.maxLevel new, span := 0 } }
    let s := (s.logv { status := .shedlvl, src := srcGate, value := wordN [(old, 0), (new, 3), (s.shed.sample, 8)] }).raiseGate irqShed
    s.levelActs before

/-- Levels above `lvl` that are enabled, highest first. -/
def Mach.levelsAbove (s : Mach) (lvl : Nat) : List Nat := [5, 4, 3, 2, 1].filter (fun k => decide (lvl < k) && s.shedEn k)

/-- Samples count toward a fall of the level, or toward the stations' return. -/
def Mach.countSpan (s : Mach) (mv : Nat) : Mach :=
  let h := s.shed
  let ok := decide (600 + s.shedT h.level + s.shedHyst ≤ mv)
  if h.off then { s with shed := { h with offSpan := if 600 + s.shedT 5 + s.shedHyst ≤ mv then h.offSpan + 1 else 0 } }
  else { s with shed := { h with span := if h.level != 0 && ok then h.span + 1 else 0 } }

/-! ## Stations OFF (R383) -/

/-- The INLINE descriptors with a write at a station, each with its residue: the bytes of a write not issued (R143). -/
def Station.inlines (x : Station) : List (DescRef × Nat) :=
  let of_ := fun (issued : Bool) (a : Access) => match a.hook with
    | .inlineWrite r p => some (({ ring := r, pos := p } : DescRef), if issued then 0 else a.len)
    | _ => none
  x.acc.filterMap (of_ false) ++ x.outst.filterMap (of_ true)

/-- What a station keeps when it goes OFF. -/
def Station.turnedOff (x : Station) : Station :=
  { pwr := .off, cellFly := x.cellFly, sclk := x.sclk, slow := x.slow, gated := x.gated, wakes := x.wakes
    engBusy := x.engBusy, fengBusy := x.fengBusy, laneBusy := x.laneBusy, delivBusy := x.delivBusy, nextId := x.nextId }

/-- A use of the host by a task or transfer that is lost with the stations. -/
def HostUse.ofStations : HostUse → Bool
  | .farLine _ _ | .farBack _ _ | .farRead _ _ _ | .xferLine _ _ _ | .xferRead _ _ _ _ | .xferBack _ _ => true
  | _ => false

def Mach.lodgeOff (s : Mach) : Mach :=
  let s := s.dropReqs (fun r => r.use.isPut || r.use.isGet)
  s.modLodge (fun x => { x with
    puts := [], gets := []
    links := x.links.map (fun p => (p.1, { p.2 with tx := [], rx := [] }))
    reqs := x.reqs.map (fun r => if r.sent then r else { r with link := none }) })

/-- The stamps of a step that the stations lose, and that its histograms are partial; its counts are lost with it (R259,
R386). -/
def StageStats.stamps (x : StageStats) : StageStats :=
  { tFirst := x.tFirst, tFwdLast := x.tFwdLast, tBwdFirst := x.tBwdFirst, tEnd := x.tEnd, slowFirst := x.slowFirst
    histPart := x.histPart }

/-- Headers of a reserve that wait for their write are lost with the stations, and owed to the reserve (R272). -/
def Mach.oweHeads (s : Mach) : Mach :=
  overList (fun s c =>
    if s.pendingHook (· == .capHead c) then s.modCtx c (fun x => { x with reserve := { x.reserve with headDue := true } })
    else s) s (List.range 4)

/-- The stations go OFF (R383, R386). -/
def Mach.goOff (s : Mach) : Mach :=
  let s := s.stopCaptures.oweHeads
  let waiting := sumNat ((List.range 6).map (fun n => (s.st n).evWait.length + (s.st n).held.length))
  let s := { s with shed := { s.shed with
    off := true, level := 5, maxLevel := 6, offCount := satAdd 16 s.shed.offCount 1, offSpan := 0, span := 0
    dropped := satAdd 16 s.shed.dropped waiting } }
  let s := overList Mach.histPartial s (List.range 4)
  let s := (s.logv { status := .stoff, src := srcGate }).raiseGate irqShed
  let xs := s.hs.xfers
  let s := overList (fun s (x : Xfer) =>
    (s.stopXfer x.desc.ring x.desc.pos (some .stoff)).modXfer x.desc.ring x.desc.pos (fun y => { y with fail := some .stoff })) s xs
  let inl := (List.range 6).flatMap (fun n => ((s.st n).inlines).map (fun d => (8 * n + 7, d)))
  let s := s.modHs (fun h => { h with
    inlines := h.inlines.map (fun q => (q.1, q.2.1, if q.2.2 == .ok then Status.stoff else q.2.2)) })
  let s := overList (fun s c => match (s.ctx c).capture with
    | some k => if k.ph == CkptPhase.pending then s else s.endCkpt c .stoff
    | none => s) s (List.range 4)
  let s := overList (fun s n => s.modSt n Station.turnedOff) s (List.range 6)
  let s := s.modHs (fun h => { h with ops := h.ops.filter (fun o => !o.use.ofStations), inlCut := [] })
  let s := overList (fun s (x : Xfer) =>
    (s.modXfer x.desc.ring x.desc.pos (fun y => { y with cuts := [] })).finishXfer x.desc.ring x.desc.pos) s xs
  let s := overList (fun s (p : Nat × DescRef × Nat) => (s.chanEnd p.1 .stoff p.2.2).complete p.1 p.2.1 .stoff p.2.2 0) s inl
  let s := overList (fun s n => s.finishInlines n) s (List.range 6)
  let s := overList (fun s c => s.saveEnds c .stoff) s (List.range 4)
  let s := { s.lodgeOff with sems := [] }
  overList (fun s c => s.modCtx c (fun x =>
    let x := { x with tel := { x.tel with latch := none } }
    if x.state == .idle || x.state == .armed then x
    else { x with amax := [], stages := x.stages.map (fun p => (p.1, { begun := p.2.begun, stats := p.2.stats.stamps })) })) s
    (List.range 4)

/-- A sample of VDD_ST (R375, R383). -/
def Mach.supplySample (s : Mach) (mv : Nat) : Mach :=
  let prev := s.shed.prevMv
  let s := { s with shed := { s.shed with sample := min 255 (mv - 600), prevMv := some mv } }
  if mv < 690 ∧ s.shed.off = false then s.goOff
  else if s.shed.off then s.countSpan mv
  else
    let below := fun (k : Nat) => decide (mv < 600 + s.shedT k) && (match prev with
      | some p => decide (p < 600 + s.shedT k)
      | none => false)
    match (s.levelsAbove s.shed.level).find? below with
    | some k => s.setLevel k
    | none => s.countSpan mv

/-- A fall whose hold has passed: to the next enabled level, or to 0 (R375, R382). -/
def Mach.shedFall (s : Mach) : Mach :=
  let h := s.shed
  if h.off || h.level == 0 || decide (h.span < s.shedHold) then s
  else
    let next := ((List.range h.level).reverse.find? (fun k => k != 0 && s.shedEn k)).getD 0
    s.setLevel (max s.shedForce next)

/-! ## The return (R384) -/

/-- A context whose plan has changed in HBM is withdrawn to IDLE. -/
def Mach.returnWithdraw (s : Mach) (mem : Mems) (c : Nat) : Mach :=
  let s := s.logv { status := .ldrChanged, src := srcGate, ctx := some c }
  let x := s.ctx c
  let waiting := x.abortDescs
  let s := match if x.arming then x.claiming else none with
    | some k => ((s.dropClaims c false).modCtx c (fun x => { x with arming := false })).refuse k.desc .ldrChanged 0
    | none => s
  let s := (s.modCtx c (fun x => { x with abortDescs := [] })).withdrawNow c
  let s := overList (fun s (p : DescRef × Nat) => s.completeCtx p.1 .ok p.2) s waiting
  (s.closeWithdraw c).trySwap mem c

/-- An exchange or install whose bed table was being written when the stations went OFF is completed, before any task
starts (R385). -/
def Mach.returnRegion (s : Mach) (c : Nat) : Mach :=
  if !(s.ctx c).opening then s
  else
    let g := ((s.plan c).map (fun p => p.glob)).getD {}
    let s := (s.writeFab (placed g.guestBase (List.replicate (8 * bedCount g.guestSize) 0)) false).regionReady c
    match (s.ctx c).swap with
    | some w => if w.exchanging then s.swapEnds c w.desc .ok 0 else s
    | none => s

/-- Step 2: programs are loaded again, or the context is withdrawn. -/
def Mach.returnPlan (s : Mach) (mem : Mems) (c : Nat) : Mach :=
  let s := s.returnRegion c
  match s.plan c with
  | none => s
  | some p =>
    if (s.ctx c).state == .idle then s
    else if !p.unchanged mem then s.returnWithdraw mem c
    else s.loadProgs c (some p)

/-- Step 3: a step that was under way ends as an abort. The swap of an ARMED context whose events have gone with the
stations is due too (R17, R95). -/
def Mach.returnAbort (s : Mach) (mem : Mems) (c : Nat) : Mach :=
  let x := s.ctx c
  if x.state == .idle then s
  else if x.state == .armed then s.trySwap mem c
  else
    let s := s.logv { status := .aborted, src := srcGate, ctx := some c, value := Status.stoff.code }
    (s.modCtx c (fun x => { x with state := .aborting, abortSt := some .stoff })).closeAborted mem c

/-- The loader and the sequencer load begin their reads again. -/
def Mach.returnReads (s : Mach) : Mach :=
  let s := s.dropWaiting (fun h => h == .loadRead || h == .seqRead)
  let s := if s.hs.seqLoading then s.seqStart else s
  match s.hs.loaderCur with
  | some i =>
    if i.ph = .beds then s
    else (s.modHs (fun h => { h with loaderCur := none, loaderQ := { i with ph := .head, image := [] } :: h.loaderQ })).nextInstall
  | none => s

/-- Headers lost with the stations are written with the reserve's newest state (R272). -/
def Mach.returnHeads (s : Mach) (c : Nat) : Mach :=
  if (s.ctx c).reserve.headDue then s.setReserve c (fun r => { r with headDue := false }) else s

def Mach.stationsReturn (s : Mach) (mem : Mems) : Mach :=
  if !s.shed.off || decide (s.shed.offSpan < s.shedHold) then s
  else
    -- the span that brings the stations back is one at or above T5 + HYST: the level may fall after it (R375)
    let s := { s with shed := { s.shed with off := false, span := s.shed.offSpan, offSpan := 0 } }
    let s := overList (fun s n => s.modSt n (fun x => { x with pwr := .active })) s (List.range 6)
    let s := overList (fun s c => s.returnPlan mem c) s (List.range 4)
    let s := overList (fun s c => s.returnAbort mem c) s (List.range 4)
    let s := (overList Mach.returnHeads s (List.range 4)).returnReads
    overList (fun s d => s.placeReqs d) s.sendHellos (List.range 16)

/-! ## The commands -/

/-- SUPPLY_SAMPLE (R375–R381, R383). -/
def execSupplySample (mv : Nat) (s : State) : Out :=
  act (.supplySample mv) s (fun _ m => m.supplySample mv)

/-- SHED_LEVEL_FALL (R375). -/
def execShedLevelFall (s : State) : Out :=
  act (.shedLevelFall) s (fun _ m => m.shedFall)

/-- STATIONS_RETURN (R384). -/
def execStationsReturn (s : State) : Out :=
  act (.stationsReturn) s (fun mem m => m.stationsReturn mem)

/-- CLOCK_GATE (R368). -/
def execClockGate (st : Nat) (s : State) : Out :=
  act (.clockGate st) s (fun _ m => m.clockGate st)

/-- POWER_GATE (R369). -/
def execPowerGate (st : Nat) (s : State) : Out :=
  act (.powerGate st) s (fun _ m => m.powerGate st)

/-- STATION_WAKE (R370, R371). -/
def execStationWake (st : Nat) (s : State) : Out :=
  act (.stationWake st) s (fun mem m => m.stationWake mem st)

end Sys2Proof.Machine
end

