-- ==== Sys2Proof/Machine/HostSide.lean ====
section
/-!
DEFINITION. The host attachment: ports and HOLDING (R332, R356–R358), host reset and re-attach (R359, R360), responses
to host writes and reads (R331, R349, R350, R352, R355, R361), snoops (R330) and interrupt masks (R349).
-/
namespace Sys2Proof.Machine

/-! ## Traffic that was held -/

/-- Held messages are sent. -/
def Mach.sendHeldVecs (s : Mach) : Mach :=
  let vs := s.msix.heldVecs
  overList Mach.sendVec { s with msix := { s.msix with heldVecs := [] } } vs

/-- Held reports are written into the free slots of their ring; one without a slot is dropped (R347). -/
def Mach.flushReports (s : Mach) (c : Nat) : Mach :=
  let g := s.rpt c
  if s.hs.att == .attached && g.state == .running then
    overList (fun s r =>
      if (s.rpt c).size ≤ ixDiff (s.rpt c).prod (s.rpt c).cons then s.dropReport c else s.writeReport c r)
      (s.modRpt c (fun g => { g with heldReports := [] })) g.heldReports
  else s

def Mach.flushAll (s : Mach) : Mach :=
  let s := overList Mach.flushEntries s (List.range 16)
  (overList Mach.flushReports s (List.range 4)).sendHeldVecs

/-- The place of a use of the host in the order of R358; what that order does not name goes before the entries (DESIGN
CHOICE, log entry 104). -/
def HostUse.rank : HostUse → Nat
  | .farLine _ _ => 0
  | .farRead _ _ _ => 1
  | .farBack _ _ => 1
  | .desc _ _ => 2
  | .entry _ _ => 4
  | .report _ _ => 5
  | _ => 3

/-- Host traffic in the order in which it is issued again, each kind in its original order (R358). -/
def reissueOrder (l : List HostOp) : List HostOp :=
  (List.range 6).flatMap (fun k => l.filter (fun o => o.use.rank == k))

/-- The first block of a task whose host lines go out has been sent (R357). -/
def Mach.linesOut (s : Mach) (l : List HostOp) : Mach :=
  overList (fun (s : Mach) (o : HostOp) => match o.use with
    | .farLine n id => s.modTask n id (fun t => { t with started := true })
    | _ => s) s l

/-- Host traffic that was held, or that had no GO or data, is issued (R358). -/
def Mach.issueHeld (s : Mach) : Mach :=
  let s := s.modHs (fun h => { h with
    ops := reissueOrder (h.ops.map (fun o => { o with issued := true, port := s.portFor o.port })) })
  s.linesOut s.hs.ops

/-- The attachment is ATTACHED again after HOLDING: what had no GO or data is issued again (R358). -/
def Mach.resumeHost (s : Mach) : Mach :=
  ((s.modHs (fun h => { h with att := .attached, holdAge := 0 })).issueHeld).flushAll

/-! ## Ports (R332, R356–R358) -/

def HostSide.portUp (h : HostSide) (p : Nat) : Bool := if p = 0 then h.portUp0 else h.portUp1

def HostSide.setPort (h : HostSide) (p : Nat) (up : Bool) : HostSide :=
  if p = 0 then { h with portUp0 := up, portChg := true } else { h with portUp1 := up, portChg := true }

/-- A port leaves UP: its traffic goes to the other port, or the attachment is HOLDING. -/
def Mach.cxlPortDown (s : Mach) (p : Nat) : Mach :=
  if !s.hs.portUp p then s
  else
    let s := s.modHs (fun h => h.setPort p false)
    let s :=
      if s.hs.portUp (1 - p) then
        s.modHs (fun h => { h with ops := reissueOrder (h.ops.map (fun o => if o.port = p then { o with port := 1 - p } else o)) })
      else if s.hs.att == .attached then
        s.modHs (fun h => { h with att := .holding, holdAge := 0, ops := h.ops.map (fun o => { o with issued := false }) })
      else s
    (s.markSet (w1cHost 8)).raiseVec 31

/-- A port returns to UP. -/
def Mach.cxlPortUp (s : Mach) (p : Nat) : Mach :=
  if s.hs.portUp p then s
  else
    let s := s.modHs (fun h => h.setPort p true)
    let s := if s.hs.att == .holding then s.resumeHost else s
    (s.markSet (w1cHost 8)).raiseVec 31

/-! ## Host reset (R359) -/

/-- Reports whose write has no GO, as they were to be written. -/
def Mach.reportsBack (s : Mach) (c : Nat) : List HostOp :=
  s.hs.ops.filter (fun o => match o.use with
    | .report q _ => q == c
    | _ => false)

/-- The reports of a context without a GO are held again before those held already; beyond 64 the newest are dropped, each
as R347 drops one. A LOSTBEFORE that was not written stands for the next one. -/
def Mach.holdReports (s : Mach) (c : Nat) : Mach :=
  let back := s.reportsBack c
  let all := back.map (fun o =>
    let l := o.data.map (fun p => p.2)
    ({ status := match o.use with
        | .report _ st => st
        | _ => .ok
       seq := rdNat l 4 4, body := l.drop 8 } : Report)) ++ (s.rpt c).heldReports
  let lost := back.any (fun o => rdNat (o.data.map (fun p => p.2)) 1 1 / 2 % 2 == 1)
  let s := s.modRpt c (fun g => { g with
    state := .disabled, dispend := false, heldReports := all.take 64, lostBefore := g.lostBefore || lost })
  overList (fun s _ => s.dropReport c) s (all.drop 64)

/-- Step 1: rings are DISABLED for reading; descriptors not yet read are forgotten, entries and reports without a GO are
held again, and no host traffic remains. -/
def Mach.dropHost (s : Mach) : Mach :=
  let ops := s.hs.ops
  let s := overList (fun s r =>
    let back := ops.filterMap (fun o => match o.use with
      | .entry q e => if q = r then some e else none
      | _ => none)
    s.modRing r (fun g => { g with
      state := .disabled, dispend := false
      heldEntries := back ++ g.heldEntries
      descs := ((g.descs.filter (fun d => d.st != .reading && d.st != .mismatch)).map (fun d =>
        { d with late := true, st := if d.st == .entered then DescState.completed else d.st })) })) s (List.range 16)
  (overList Mach.holdReports s (List.range 4)).modHs (fun h => { h with ops := [] })

/-- Step 2: transfers with a host operand end with HOSTLOSS and their residue; their host lines are given up. -/
def Mach.dropXfers (s : Mach) : Mach :=
  overList (fun s (x : Xfer) =>
    if !(x.dstHost || x.srcHost) then s
    else
      let r := x.desc.ring
      let p := x.desc.pos
      let mine := fun (h : Hook) => match h with
        | .xferRead g q _ _ => g == r && q == p
        | .xferWrite g q _ => g == r && q == p
        | .xferBack g q => g == r && q == p
        | _ => false
      let gone := fun (a : Access) => a.share == 3 && mine a.hook
      let s := (s.stopXfer r p (some .hostloss)).modXfer r p (fun y => { y with fail := some .hostloss })
      let s := s.modSt x.st (fun y => { y with
        acc := y.acc.filter (fun a => !gone a), outst := y.outst.filter (fun a => !gone a) })
      let alive := fun (o : Nat) => ((s.st x.st).acc ++ (s.st x.st).outst).any (fun a => a.hook.partOf r p == some o)
      (s.modXfer r p (fun y => { y with cuts := y.cuts.filter (fun k => alive k.1) })).finishXfer r p) s s.hs.xfers

/-- A capture that is being written to host memory ends (R411). -/
def Mach.dropCaptures (s : Mach) (mem : Mems) : Mach :=
  overList (fun s c => match (s.ctx c).capture with
    | some k => if k.host && k.ph != CkptPhase.pending then s.ckptFail mem c .hostloss else s
    | none => s) s (List.range 4)

/-- Records RESIDENT at TIER 2 that become LOST, as (stage, fill sequence). -/
def Mach.farRecs (s : Mach) (c : Nat) : List (Nat × Nat) :=
  (s.ctx c).stages.flatMap (fun p =>
    ((List.range p.2.recs.length).zip p.2.recs).filterMap (fun q =>
      if q.2.rc.state == RecState.resident && q.2.rc.tier == 2 && q.2.lost.isNone then some (p.1, q.1) else none))

/-- A fetch from the far tier is in flight: one whose blocks have all come back is not (DESIGN CHOICE, log entry 136). -/
def Task.farFlight (t : Task) : Bool :=
  t.kind == .fetch && t.rc.tier == 2 && t.replayRec.isNone && !t.fromRooms && decide (t.got.length < t.nexp) &&
    (t.ph == .engine || t.ph == .run || t.ph == .move || t.ph == .fail)

/-- A task that is over and has no transfer outstanding any more ends. -/
def Mach.reapFailed (s : Mach) (n : Nat) (t : Task) : Mach := if t.ph == .fail then s.endFailed n t else s

/-- What becomes of a task of the far tier. -/
def Mach.loseFarTask (s : Mach) (n : Nat) (t : Task) : Mach :=
  match t.kind with
  | .fetch =>
    if t.ph == .fail then s.reapFailed n t
    else if !t.farFlight then s
    else if t.cancelled then s.endTask n t .hostloss
    else s.failFetch n t .hostloss 0 0
  | .stash => if t.path == .far && t.ph != .fail then s.recall n t.id else s.reapFailed n t
  | .demote => if t.path == .far && t.ph != .final && t.ph != .fail then s.abandonDemotion n t else s.reapFailed n t
  | _ => s.reapFailed n t

/-- Steps 3 to 5 for one context; the loss of a tier in use is logged with the count of LOST records (R389). -/
def Mach.loseFar (s : Mach) (c : Nat) : Mach :=
  let lost := s.farRecs c
  let fly := (List.range 6).any (fun n => (s.st n).tasks.any (fun t => t.ctx == c && t.farFlight))
  let uses : Bool := match s.plan c with
    | some p => (s.ctx c).state != .idle && p.tiers.any (fun t => t.kind == 2)
    | none => false
  let s := overList (fun s (p : Nat × Nat) =>
    match s.recInfo c p.1 p.2 with
    | none => s
    | some r =>
      (s.rewriteRec c p.1 p.2 { r.rc with state := .lost }).modRec c p.1 p.2 (fun r => { r with lost := some .hostloss })) s lost
  let s := s.modCtx c (fun x => { x with farLost := true })
  let s := if uses then s.logv { status := .hostloss, src := srcGate, ctx := some c, value := lost.length } else s
  let s := overList (fun s n =>
    Mach.overTasks n (fun s t => if t.ctx == c then s.loseFarTask n t else s) s) s (List.range 6)
  if lost.isEmpty && !fly then s else s.forceAbort c rankGate .hostloss

/-- What a task has queued or issued toward the host is not answered any more. -/
def Station.dropFarLines (x : Station) : Station :=
  let gone := fun (a : Access) => match a.hook with
    | .slotRead _ _ => a.share == 3
    | .farSend _ _ => true
    | .farBack _ => true
    | _ => false
  { x with acc := x.acc.filter (fun a => !gone a), outst := x.outst.filter (fun a => !gone a) }

/-- The attachment enters DETACHED. -/
def Mach.detachHost (s : Mach) (mem : Mems) : Mach :=
  let s := (s.modHs (fun h => { h with att := .detached, holdAge := 0, hostReset := true })).markSet (w1cHost 9)
  let s := ((s.dropHost).dropXfers).dropCaptures mem
  let s := overList (fun s n => s.modSt n Station.dropFarLines) s (List.range 6)
  -- what waited for writes to the host waits for them no more
  let s := overList (fun s n => (s.finishXfers n).endCuts mem n) s (List.range 6)
  (overList Mach.loseFar s (List.range 4)).raiseVec 31

/-- Hot Reset, link disable or Function Level Reset: the MSI-X table is at its default too (R386). -/
def Mach.hostLinkReset (s : Mach) (mem : Mems) : Mach :=
  let s := { s with msix := { sent := s.msix.sent, sentAt := s.msix.sentAt } }
  if s.hs.att == .detached then s else s.detachHost mem

def Mach.hostTmo (s : Mach) : Nat := W64.bits s.regs.hostTmo 31 0

def Mach.hostTimeout (s : Mach) (mem : Mems) : Mach :=
  if s.hs.att == .holding && decide (s.hostTmo ≤ s.hs.holdAge) then s.detachHost mem else s

/-! ## Re-attach (R360) -/

def Mach.attachHost (s : Mach) : Mach :=
  let s := (s.modHs (fun h => { h with att := .attached, attachAge := 0, reattach := true })).markSet (w1cHost 10)
  let s := overList (fun s r =>
    s.modRing r (fun g => { g with heldEntries := g.heldEntries.map (fun e => { e with held := true, late := true }) })) s
    (List.range 16)
  ((s.issueHeld).flushAll).raiseVec 31

/-- Entries whose completion ring has not been enabled in time are dropped and counted. -/
def Mach.heldTimeout (s : Mach) (r : Nat) : Mach :=
  let g := s.ring r
  if s.hs.att != .detached && g.state == .disabled && !g.heldEntries.isEmpty && decide (s.hostTmo ≤ s.hs.attachAge) then
    let s := s.modRing r (fun g => { g with heldEntries := [] })
    let s := s.modHs (fun h => { h with heldDrop := satAdd 16 h.heldDrop g.heldEntries.length })
    overList (fun s (e : CEntry) => if e.loose then s else s.dropDesc r e.pos) s g.heldEntries
  else s

/-! ## Responses (R331, R352, R355, R361) -/

/-- GO, or an error response, for a host write. -/
def Mach.hostWriteGo (s : Mach) (mem : Mems) (id : Nat) (err : Bool) : Mach :=
  match s.hs.ops.find? (fun o => o.id == id && o.write && o.issued) with
  | none => s
  | some o =>
    let s := s.modHs (fun h => { h with ops := h.ops.filter (fun q => q.id != id) })
    let s := if err then s.writeFailed .host o.data else s.write .host o.data
    match o.use with
    | .entry r e => s.entryGo r e err
    | .report c _ =>
      if err then
        (((s.logv { status := .violHostwr, src := srcCqRing, unit := 16 + c, ctx := some c }).dropReport c).haltRpt c .violHostwr)
      else s.raiseVec (16 + c)
    | .farLine n t =>
      if !err then s.farLineGo n t
      -- no line of a write that is over is written again (R143)
      else if (s.task n t).all (fun u => u.ph == .fail) then s
      else if o.retry then s.failFar n t o.addr
      else s.hostWrite o.port o.use o.addr (o.data.map (·.2)) true
    | .xferLine r p k => if err then (s.stopXfer r p (some .wrerr)).xferLineGo r p k else s.xferLineGo r p k
    | .ckptLine c acc =>
      let s :=
        if err then s.ckptFail mem c .wrerr
        else if s.hs.ops.any (fun q => q.use == o.use) then s
        else (s.hostAccDone 0 (fun a => a.id == acc)).ckptResponse mem c
      (s.finishXfers 0).endCuts mem 0
    | _ => s

/-- Data of a far read (R355). The access it answers ends with it. -/
def Mach.farReadData (s : Mach) (n id i : Nat) (l : List Byte) (err : Bool) : Mach :=
  let s := s.hostAccDone n (fun a => a.hook == .slotRead id i)
  match s.task n id with
  | none => s
  | some t => if err && !t.cancelled && t.ph != .fail then s.failFetch n t .farerr 0 0 else s.fetchData n t i l

/-- Data of a host read, or an error. -/
def Mach.hostReadData (s : Mach) (mem : Mems) (id : Nat) (err : Bool) : Mach :=
  let isDesc := fun (o : HostOp) => match o.use with
    | .desc _ _ => true
    | _ => false
  match s.hs.ops.find? (fun o => o.id == id && !o.write && o.issued && !isDesc o) with
  | none => s
  | some o =>
    let s := s.modHs (fun h => { h with ops := h.ops.filter (fun q => q.id != id) })
    let l := memReads mem.host o.addr o.len
    match o.use with
    | .farBack n t => s.farReadBack n t l err
    | .farRead n t i => s.farReadData n t i l err
    | .xferRead r p k tgt => s.xferHostData r p k tgt err l
    | .xferBack r p => s.xferBack r p (!err && l == ((s.xfer r p).map (fun x => x.backLine)).getD [])
    | .ckptBack c =>
      (s.ckptReadBack c (!err && l == (((s.ctx c).capture.map (fun k => k.header)).getD []).drop 4032)).endCuts mem 0
    | _ => s

/-- An H2D snoop: the answer is always RspIHitI, and no state of Uzoto depends on it (R330). -/
def Mach.snoop (s : Mach) (a : W64) : Mach := s.modHs (fun h => { h with lastSnoop := some a })

/-- The mask of a vector is cleared: a message that waits for it goes out (R349). -/
def Mach.unmask (s : Mach) (v : Nat) : Mach :=
  let x := s.msix
  let s := { s with msix := { x with
    unmasked := if x.unmasked.contains v then x.unmasked else x.unmasked ++ [v]
    pendingVecs := x.pendingVecs.filter (· != v) } }
  if x.pendingVecs.contains v then s.sendVec v else s

/-! ## The commands -/

/-- HOST_WRITE_GO (R331, R349, R350, R352, R355, R361). -/
def execHostWriteGo (id : Nat) (err : Bool) (s : State) : Out :=
  act (.hostWriteGo id err) s (fun mem m => m.hostWriteGo mem id err)

/-- HOST_READ_DATA (R200, R352, R355, R392, R403). -/
def execHostReadData (id : Nat) (err : Bool) (s : State) : Out :=
  act (.hostReadData id err) s (fun mem m => m.hostReadData mem id err)

/-- SNOOP (R330). -/
def execSnoop (addr : W64) (s : State) : Out :=
  act (.snoop addr) s (fun _ m => m.snoop addr)

/-- CXL_PORT_DOWN (R332, R356, R357). -/
def execCxlPortDown (p : Nat) (s : State) : Out :=
  act (.cxlPortDown p) s (fun _ m => m.cxlPortDown p)

/-- CXL_PORT_UP (R356, R358). -/
def execCxlPortUp (p : Nat) (s : State) : Out :=
  act (.cxlPortUp p) s (fun _ m => m.cxlPortUp p)

/-- HOST_LINK_RESET (R356, R359, R386). -/
def execHostLinkReset (p : Nat) (s : State) : Out :=
  act (.hostLinkReset p) s (fun mem m => m.hostLinkReset mem)

/-- HOST_TIMEOUT (R356, R359). -/
def execHostTimeout (s : State) : Out :=
  act (.hostTimeout) s (fun mem m => m.hostTimeout mem)

/-- HELD_ENTRY_TIMEOUT (R360). -/
def execHeldEntryTimeout (r : Nat) (s : State) : Out :=
  act (.heldEntryTimeout r) s (fun _ m => m.heldTimeout r)

/-- MSIX_UNMASK (R349). -/
def execMsixUnmask (v : Nat) (s : State) : Out :=
  act (.msixUnmask v) s (fun _ m => m.unmask v)

end Sys2Proof.Machine
end

