-- ==== Sys2Proof/Machine/Clock.lean ====
section
/-!
DEFINITION. One aclk tick: what goes on in the block while no command waits (DESIGN CHOICE, log entry 3). Counters (R260,
R264), tokens (R152, R154, R155, R280), stall and late counts (R165, R166), idle times (R368, R369) and the ages that
timeouts are judged by (R297, R299, R341, R356, R360).
-/
namespace Sys2Proof.Machine

/-- sclk cycles of an ACTIVE station in one aclk of 20 ns: 1.5 GHz, or 1.0 GHz at level 3 and above (R1, R364, R377). -/
def Mach.sclkRate (s : Mach) : Nat := if 3 ≤ s.level then 20 else 30

/-! ## Tokens -/

def Mach.rate (s : Mach) (n : Nat) : Nat := W64.bits s.regs.bwGrant (8 * n + 4) (8 * n)
/-- The read, write and remote shares in sixteenths. -/
def Mach.shareOf (s : Mach) (k : Nat) : Nat :=
  if k = 0 then W64.bits s.regs.bwSplit 4 0 else if k = 1 then W64.bits s.regs.bwSplit 12 8 else W64.bits s.regs.bwSplit 20 16

/-- Accrual in `k` sclk of a station: `r` is RATE × 25. -/
def Station.accrue (x : Station) (r : Nat) (share : Nat → Nat) (k : Nat) : Station :=
  let toks := [0, 1, 2].foldl (fun m i => aset shareDepth m i (min shareDepth (aget shareDepth m i + r * share i * k))) x.tokens
  let cls0 := aset classDepth x.clsTokens 0 (min classDepth (x.clsTok 0 + r * share 0 * k))
  let cls := [0, 1, 2].foldl (fun m i =>
    aset classDepth m (1 + i) (min classDepth (aget classDepth m (1 + i) + 2 * r * share i * k))) cls0
  { x with tokens := toks, clsTokens := cls }

def Mach.lshare (s : Mach) : Nat := W64.bits s.regs.glCtl 20 16

/-- The buckets of an agent's links, in thirds of a byte. -/
def Mach.accrueLinks (s : Mach) (n k : Nat) : Mach :=
  overList (fun s l =>
    if agentOf l = n then s.modLink l (fun x => { x with tokens := min 49152 (x.tokens + s.lshare * 50 * k) }) else s) s
    (List.range Config.nLink)

/-! ## Stall and late counts -/

/-- Stages with an event that waits at a station under EVENT_FULL, as (context, stage); an event whose context has no
active plan that holds its stage counts for no stage (R27). -/
def Mach.eventWaits (s : Mach) (n : Nat) : List (Nat × Nat) :=
  let x := s.st n
  let posts := if x.evq.length < Config.eventQueueDepth then [] else x.evWait
  (((posts ++ s.forwardWaits n [] x.evq).filter (fun e => (s.stageOf (evCtx e.w0) (evStage e.w0)).isSome)).map
    (fun e => (evCtx e.w0, evStage e.w0))).eraseDups

/-- What waits at a station, as (context, stage, cause), each once. A stage whose events wait at several stations counts
at the lowest of them: once in an sclk under a cause (R165). -/
def Mach.stallsAt (s : Mach) (n : Nat) : List (Nat × Nat × Nat) :=
  let lower := ((List.range n).filter (fun m => (s.st m).pwr == .active)).flatMap s.eventWaits
  let events := ((s.eventWaits n).filter (fun p => !lower.contains p)).map (fun p => (p.1, p.2, causeEventFull))
  let tasks := (s.st n).tasks.flatMap (fun t => (s.waitCauses n t).map (fun k => (t.ctx, t.stage, k)))
  (events ++ tasks).eraseDups

/-- The thresholds that bind a count of a stage under a cause: those of the tasks that wait under it (R448), and the
active set's for an event that waits. -/
def Mach.boundBy (s : Mach) (n : Nat) (p : Nat × Nat × Nat) : List Nat :=
  let waits := (s.st n).tasks.filter (fun t => t.ctx == p.1 && t.stage == p.2.1 && (s.waitCauses n t).contains p.2.2)
  (if p.2.2 = causeEventFull then [s.stallThr p.1 p.2.2] else []) ++
    waits.map (fun t => (aget 0 t.cfg.stallThr p.2.2).toNat)

/-- `k` sclk under each cause that something waits under; a class 0 fetch counted under C0_OVER is marked (R165, R417). -/
def Mach.countStalls (s : Mach) (n k : Nat) : Mach :=
  let counted := fun (t : Task) => t.kind == .fetch && t.cls == 0 && (s.waitCauses n t).contains causeC0Over
  let s' := overList (fun m (p : Nat × Nat × Nat) => m.addStall p.1 p.2.1 p.2.2 k (s.boundBy n p)) s (s.stallsAt n)
  s'.modSt n (fun x => { x with tasks := modWhere counted (fun t => { t with c0over := true }) x.tasks })

/-- A late fetch counts under its cause until it completes. -/
def Mach.countLate (s : Mach) (n k : Nat) : Mach :=
  Mach.overTasks n (fun s t => match t.late with
    | none => s
    | some c => s.modStats t.ctx t.stage (fun x => { x with late := amod 0 x.late c (satAdd 64 k) })) s

/-! ## Stations -/

def Station.engsBusy (x : Station) (lo hi : Nat) : Nat :=
  (x.engines.filter (fun p => decide (lo ≤ p.1) && decide (p.1 < hi) && p.2.task.isSome)).length

/-- The counters of a station in one aclk in which it has `k` sclk. -/
def Mach.tickStation (s : Mach) (n : Nat) : Mach :=
  let x := s.st n
  let rest := s.restful n
  if x.pwr == .active then
    let k := s.sclkRate
    let idle := s.stationIdle n
    let s := (((s.countStalls n k).countLate n k).accrueLinks n k)
    s.modSt n (fun x =>
      let x := x.accrue (25 * s.rate n) s.shareOf k
      { x with
        sclk := x.sclk + k
        slow := if 3 ≤ s.level then x.slow + k else x.slow
        engBusy := x.engBusy + k * x.engsBusy 0 4
        fengBusy := x.fengBusy + k * x.engsBusy 4 6
        laneBusy := x.laneBusy + k * x.lanes.length
        idleSclk := if idle then x.idleSclk + k else 0
        pgAclk := if rest then x.pgAclk + 1 else 0 })
  else s.modSt n (fun x => { x with gated := x.gated + 1, pgAclk := if rest then x.pgAclk + 1 else 0 })

/-! ## Ages -/

/-- A request ages while its answer is awaited and its link is UP: any once it is sent, a GET only while a room granted is
owed DATA; a CLAIM also before it is sent, while it waits for the HELLO of a peer that has sent none, or for a link to a
peer that is not waited for as R299 states (R288, R290, R297). -/
def Mach.reqAges (s : Mach) (r : Req) : Bool :=
  let up := match r.link with
    | some l => (s.link l).st == linkUpSt
    | none => false
  match r.use with
  | .claim _ _ _ => up || (s.peer r.dev).epoch.isNone || (!(s.peer r.dev).down && (s.upLinks r.dev).isEmpty)
  | .get n t => r.sent && up && (match s.task n t with
    | some t => decide (t.beds < t.granted)
    | none => false)
  | _ => r.sent && up

def Mach.ageLodge (s : Mach) : Mach :=
  let ages := s.reqAges
  let s := s.modLodge (fun x => { x with reqs := x.reqs.map (fun r => if ages r then { r with age := r.age + 1 } else r) })
  overList (fun s d =>
    let p := s.peer d
    if !p.down then s
    else if !(s.upLinks d).isEmpty && !s.lodge.reqs.any (fun r => r.dev == d) then
      s.modPeer d (fun p => { p with down := false, downAge := 0 })
    else s.modPeer d (fun p => { p with downAge := p.downAge + 1 })) s (List.range 16)

def Mach.ageHost (s : Mach) : Mach :=
  let s := overList (fun s r =>
    if (s.ring r).descs.isEmpty then s
    else s.modRing r (fun g => { g with
      descs := g.descs.map (fun d => if d.st == .mismatch then { d with age := d.age + 1 } else d) })) s (List.range 16)
  s.modHs (fun h => { h with
    holdAge := if h.att == .holding then h.holdAge + 1 else 0
    attachAge := if h.att == .detached then 0 else h.attachAge + 1 })

def Mach.tick (s : Mach) : Mach :=
  let s := overList Mach.tickStation s (List.range 6)
  let s := s.ageLodge.ageHost
  { s with aclk := s.aclk + 1 }

end Sys2Proof.Machine
end

