-- ==== Sys2Proof/Machine/EventCmds.lean ====
section
/-!
DEFINITION. The commands that take an event from a station's queue (R26, R29), and the swap that a discarded event sets free
(R17, R95).
-/
namespace Sys2Proof.Machine

/-- An event of an ARMED context that is discarded stops counting as arrived: the pending swap is performed when it was the
last (R17, R95). -/
def Mach.freeSwap (mem : Mems) (s : Mach) (c : Nat) : Mach := if (s.ctx c).state == .armed then s.trySwap mem c else s

def noMore (_ : Mach) (_ : StageEntry) (_ : QEvent) : Option (Nat × Nat) := none

/-- EVENT_FORWARD (R26). -/
def execEventForward (st : Nat) (s : State) : Out :=
  act (.eventForward st) s (fun mem m => m.forwardEvent st (Mach.freeSwap mem))

/-- FWD_DONE (R29–R33, R82). -/
def execFwdDone (st : Nat) (s : State) : Out :=
  act (.fwdDone st) s (fun mem m => m.takeEvent st evFwdDone (Mach.freeSwap mem) Mach.fwdMore (fun m _ e => m.fwdDone st e))

/-- BWD_TICK (R158–R163). -/
def execBwdTick (st : Nat) (s : State) : Out :=
  act (.bwdTick st) s (fun mem m =>
    m.takeEvent st evBwdTick (Mach.freeSwap mem) (fun m _ e => m.tickFault e) (fun m _ e => m.bwdTick st e))

/-- STEP_END (R19, R33, R53). -/
def execStepEnd (st : Nat) (s : State) : Out :=
  act (.stepEnd st) s (fun mem m => m.takeEvent st evStepEnd (Mach.freeSwap mem) noMore (fun m _ e => m.stepEnd st e))

/-- MB_CANCEL (R60, R456). -/
def execMbCancel (st : Nat) (s : State) : Out :=
  act (.mbCancel st) s (fun mem m => m.takeEvent st evMbCancel (Mach.freeSwap mem) noMore (fun m _ e => m.mbCancel st e))

end Sys2Proof.Machine
end

