-- ==== Sys2Proof/Machine/Log.lean ====
section
/-!
DEFINITION. The gatehouse writes its log (R397, R399), and device reset (R386, R387, R428).
-/
namespace Sys2Proof.Machine

/-- The oldest waiting entry takes number WR and goes into its slot (R397). -/
def VLog.writeNext (l : VLog) : VLog :=
  match l.waiting with
  | [] => l
  | e :: es =>
    if l.unread = 512 then l
    else
      ({ l with slots := aset {} l.slots (l.wr % 512) { e with seq := l.wr }, wr := (l.wr + 1) % 65536
                waiting := es } : VLog).marked l.unread

/-- WR − RD has risen to MARK (R399). -/
def Mach.vlogMark (s : Mach) : Mach :=
  if s.vlog.markDue then ({ s with vlog := { s.vlog with markDue := false } }).raiseGate irqVlogmark else s

/-- Every state item is at its reset value, without a log entry or an interrupt; the id is read from the straps. The
present-width pins are not Uzoto's. -/
def Mach.deviceReset (s : Mach) (devid : Nat) : Mach := { devid, widthPin := s.widthPin }

/-- VLOG_ENTRY_WRITE (R397). -/
def execVlogEntryWrite (s : State) : Out :=
  act (.vlogEntryWrite) s (fun _ m => { m with vlog := m.vlog.writeNext })

/-- VLOG_MARK (R399). -/
def execVlogMark (s : State) : Out :=
  act (.vlogMark) s (fun _ m => m.vlogMark)

/-- DEVICE_RESET (R386, R387, R428). -/
def execDeviceReset (devid : Nat) (s : State) : Out :=
  act (.deviceReset devid) s (fun _ m => m.deviceReset devid)

end Sys2Proof.Machine
end

