-- ==== Sys2Proof/Machine/RingCtl.lean ====
section
/-!
DEFINITION. Doorbells (R334, R336, R337), UZ_RINGCTL (R335, R439), the sequencer load (R449–R452), key slots (R199,
R441, R442), UZ_HOST_CTL, UZ_TEST_CTL, UZ_GL_EPOCH, UZ_VLOG_PTR and the other one-shot writes.
-/
namespace Sys2Proof.Machine

/-- A write that a register's table calls invalid is ignored as a whole and logged (R427). -/
def Mach.badWrite (s : Mach) (off value : Nat) : Mach := s.logMmio .violCfg off value

/-! ## Doorbells -/

/-- R336: from the producer index up to consumer + size. -/
def Ring.dbellOk (g : Ring) (ix : Nat) : Bool :=
  decide (ixDiff g.prod g.cons ≤ ixDiff ix g.cons) && decide (ixDiff ix g.cons ≤ g.size)

def Mach.dbell (s : Mach) (r ix : Nat) : Mach :=
  let g := s.ring r
  let log := fun (s : Mach) =>
    s.logv { status := .violDbell, src := srcRing, unit := r, ctx := some (r / 4), foff := 0x1000 + 8 * r, value := ix }
  if g.state != .running then log s
  else if g.dbellOk ix then s.modRing r (fun g => { g with prod := ix, bell := ix })
  else log (s.haltRing r .violDbell)

/-- R337: from the consumer index up to the entries written. Entries that waited for a free slot are written (R345). -/
def Mach.cqDbell (s : Mach) (r ix : Nat) : Mach :=
  let g := s.ring r
  let log := fun (s : Mach) =>
    s.logv { status := .violDbell, src := srcCqRing, unit := r, ctx := some (r / 4), foff := 0x1080 + 8 * r, value := ix }
  if g.state == .disabled then log s
  else if ixDiff ix g.cqCons ≤ ixDiff g.cqProd g.cqCons then
    (s.modRing r (fun g => { g with cqCons := ix, cqBell := ix })).flushEntries r
  else log (if g.state == .running then s.haltRing r .violDbell else s)

def Mach.rptDbell (s : Mach) (c ix : Nat) : Mach :=
  let g := s.rpt c
  let log := fun (s : Mach) =>
    s.logv { status := .violDbell, src := srcCqRing, unit := 16 + c, ctx := some c, foff := 0x1100 + 8 * c, value := ix }
  if g.state != .running then log s
  else if ixDiff ix g.cons ≤ ixDiff g.prod g.cons then s.modRpt c (fun g => { g with cons := ix, bell := ix })
  else log (s.haltRpt c .violDbell)

/-! ## UZ_RINGCTL -/

/-- Offset of UZ_RINGCTL of a ring index (R430). -/
def ringCtlOff (ix : Nat) : Nat := (if ix < 16 then 0x800 + 64 * ix else 0xC00 + 64 * (ix - 16)) + 0x28

def Mach.ringState (s : Mach) (ix : Nat) : RingState := if ix < 16 then (s.ring ix).state else (s.rpt (ix - 16)).state

/-- ENABLE takes effect: both indices are 0, the ring is RUNNING, and what was held for it is written (R335, R360). -/
def Mach.enableNow (s : Mach) (ix : Nat) : Mach :=
  if ix < 16 then
    (s.modRing ix (fun g => { g with
      state := .running, haltSt := .ok, prod := 0, cons := 0, cqProd := 0, cqCons := 0, dispend := false })).flushEntries ix
  else
    (s.modRpt (ix - 16) (fun g => { g with
      state := .running, haltSt := .ok, prod := 0, cons := 0, seq := 0, dispend := false })).flushReports (ix - 16)

/-- ENABLE: while the sequencer slot is empty it starts the load, or waits for the one under way (R451, R452). -/
def Mach.enable (s : Mach) (ix : Nat) : Mach :=
  if s.ringState ix != .disabled then s.badWrite (ringCtlOff ix) 1
  else if s.hs.seqSlot.isSome then s.enableNow ix
  else
    let s := s.modHs (fun h => { h with seqWait := if h.seqWait.contains ix then h.seqWait else h.seqWait ++ [ix] })
    if s.hs.seqLoading then s else s.seqStart

def Mach.disable (s : Mach) (ix : Nat) : Mach :=
  if ix < 16 then
    let g := s.ring ix
    if g.state == .disabled then s
    else if g.descs.isEmpty then s.modRing ix (fun g => { g with state := .disabled, dispend := false })
    else s.modRing ix (fun g => { g with dispend := true })
  else s.modRpt (ix - 16) (fun g => { g with state := .disabled, dispend := false })

/-- Descriptors of a ring are in flight. -/
def Mach.inFlight (s : Mach) (ix : Nat) : Bool := decide (ix < 16) && !(s.ring ix).descs.isEmpty

def Mach.restart (s : Mach) (ix index size : Nat) : Mach :=
  if size != 4 && size != 8 then s.logMmio .violMmio (ringCtlOff ix) (wordN [(3, 0), (index, 32)])
  else if size = 4 then s.badWrite (ringCtlOff ix) 3
  else if s.ringState ix != .halted || s.inFlight ix then s.badWrite (ringCtlOff ix) (wordN [(3, 0), (index, 32)])
  else if ix < 16 then
    (s.modRing ix (fun g => { g with state := .running, haltSt := .ok, prod := index, cons := index })).flushEntries ix
  else s.modRpt (ix - 16) (fun g => { g with state := .running, haltSt := .ok, prod := index, cons := index })

/-! ## The sequencer load (R449–R452) -/

def seqMagic : Nat := 0x51535A55

/-- The first check of the image that fails, in the order of its header's table with the CRC last: the field's offset
and value. -/
def seqFault (l : List Byte) (whole : List Byte) : Option (Nat × Nat) :=
  let f := fun (o n : Nat) => rdNat l o n
  let len := f 8 4
  firstBadField [
    (f 0 4 != seqMagic, 0, f 0 4),
    (f 4 2 != 1, 4, f 4 2),
    (f 6 1 != 0x42, 6, f 6 1),
    (f 7 1 != 0, 7, f 7 1),
    (len % 64 != 0 || decide (len < 128) || decide (65536 < len), 8, len),
    (f 16 44 != 0, 16, f 16 44 % 2 ^ 64),
    ((crc32c (splice whole 60 (leBytes 4 0))).toNat != f 60 4, 60, f 60 4)]

/-- A piece of the sequencer image is here; after the header the rest is read. A piece that could not be read is free
values (log entry 102). -/
def Mach.seqReturned (s : Mach) (a : Access) (l : List Byte) (err : Bool) : Mach :=
  let l := if err then (List.range a.len).map (fun k => Config.freeByte s.freeNo (a.addr + k)) else l
  let s := if err then { (s.logv { status := .rderr, src := srcGate, addr := a.addr }) with freeNo := s.freeNo + 1 } else s
  let first := s.hs.seqImage.isEmpty
  let s := s.modHs (fun h => { h with seqImage := h.seqImage ++ placed a.addr l })
  if !first || (s.st 0).isCut 13 then s
  else
    let n := min 65536 (rdNat l 8 4)
    overList (fun (s : Mach) (p : Nat × Nat) => if p.2 ≤ p.1 then s else s.read2 0 0 (s.fabAddr 0 + p.1) (p.2 - p.1) .seqRead) s
      ((64, min 4096 n) :: (List.range 15).map (fun k => (4096 * (k + 1), min (4096 * (k + 2)) n)))

/-- The load ends, once the image is read: it is good and the waiting rings are enabled, or they are ignored and the slot
stays empty. -/
def Mach.seqLoadDone (s : Mach) : Mach :=
  if !s.hs.seqLoading || (s.st 0).pwr != .active || s.hs.seqImage.isEmpty || s.pendingHook (· == .seqRead) then s
  else
    let img := memWrites [] s.hs.seqImage
    let head := memReads img (s.fabAddr 0) 64
    let whole := memReads img (s.fabAddr 0) (min 65536 (rdNat head 8 4))
    let waits := s.hs.seqWait
    let s := s.modHs (fun h => { h with seqLoading := false, seqWait := [], seqImage := [] })
    match seqFault head whole with
    | some (o, v) => s.logv { status := .violCfg, src := srcGate, foff := o, value := v }
    | none =>
      let s := s.modHs (fun h => { h with seqSlot := some whole })
      let s := overList (fun (s : Mach) n =>
        (s.modSt n (fun x => { x with evq := [], progMem := [], progEcc := [] })).letIn n) s (List.range 6)
      let s := if s.hs.att == .attached then s else s.resumeHost
      overList Mach.enableNow s waits

/-! ## Key slots (R199, R441, R442) -/

def keyOp (slot op : Nat) : Nat := wordN [(slot, 0), (op, 8)]

/-- The staged key; bytes not written are 0. -/
def Mach.stagedKey (s : Mach) : List Byte := (List.range 8).flatMap (fun i => leBytes 8 (aget 0 s.regs.keyData i).toNat)

def Mach.clearStaging (s : Mach) : Mach := { s with regs := { s.regs with keyData := [] } }

/-- LOAD by a write of `value`. -/
def Mach.keyLoad (s : Mach) (slot value : Nat) : Mach :=
  let k := s.stagedKey
  let s := if s.keyInUse slot || k.take 32 == k.drop 32 then s.badWrite 0xA0 value
    else { s with keys := aset none s.keys slot (some k) }
  s.clearStaging

/-- CLEAR by a write of `value`. -/
def Mach.keyClear (s : Mach) (slot value : Nat) : Mach :=
  let s := if s.keyInUse slot then s.badWrite 0xA0 value else { s with keys := aset none s.keys slot none }
  s.clearStaging

/-! ## Other one-shot writes -/

/-- ATTACH in UZ_HOST_CTL (R360, R437). -/
def Mach.attachWrite (s : Mach) : Mach := if s.hs.att == .detached then s.attachHost else s.badWrite 0x70 1

/-- DETACH in UZ_HOST_CTL. -/
def Mach.detachWrite (s : Mach) (mem : Mems) : Mach := if s.hs.att == .detached then s else s.detachHost mem

/-- CLRMAX in UZ_SHED_STAT. -/
def Mach.clrMax (s : Mach) : Mach := { s with shed := { s.shed with maxLevel := s.shed.level } }

/-- UZ_CHAN_ABORT (R440). -/
def Mach.chanAbortWrite (s : Mach) (mem : Mems) (v : W64) : Mach :=
  let ch := W64.bits v 5 0
  if Config.nChan ≤ ch then s.badWrite 0x98 v.toNat else s.abortChan mem ch

/-- VALID is cleared, unless it was set in this aclk (R426); the rest of the record stays as it is. -/
def Mach.clearTrap (s : Mach) (c : Nat) : Mach :=
  s.modCtx c (fun x =>
    if x.trap.valid && x.trap.aclk == s.aclk then x else { x with trap := { x.trap with valid := false } })

/-- RD of UZ_VLOG_PTR; a write that moves it back may raise WR − RD to MARK (R399). -/
def Mach.vlogPtr (s : Mach) (rd value : Nat) : Mach :=
  if (s.vlog.wr + 65536 - rd) % 65536 ≤ 512 then
    { s with vlog := ({ s.vlog with rd } : VLog).marked s.vlog.unread }
  else s.badWrite 0x80 value

/-- RWL (R426): a locked field keeps its value; a changed value in it is logged. `mask` are the locked fields of the
register, `new` what the write would leave. -/
def Mach.lockWrite (s : Mach) (off value : Nat) (mask old new : W64) : W64 × Mach :=
  if s.regs.locked then
    ((old &&& mask) ||| (new &&& ~~~mask), if old &&& mask == new &&& mask then s else s.badWrite off value)
  else (new, s)

/-- UZ_GL_EPOCH (R287, R288). -/
def Mach.epochWrite (s : Mach) (new : W64) (value : Nat) : Mach :=
  let p := s.lockWrite 0x60 value 0xFFFF s.regs.glEpoch (new &&& 0xFFFF)
  let s := p.2
  if s.regs.locked then s
  else
    let s := { s with regs := { s.regs with glEpoch := p.1 } }
    if p.1 = 0 then s
    else (overList (fun s l => s.modLink l (fun k => { k with helloSent := false })) s (List.range Config.nLink)).sendHellos

/-- UZ_TEST_CTL: clearing TMODE clears FORCE (R434). -/
def Mach.testWrite (s : Mach) (v : W64) : Mach :=
  let t := v &&& 1
  { s with regs := { s.regs with
    testCtl := t, shedCtl := if t = 0 then s.regs.shedCtl &&& 0xFFFFFFFFF8FFFFFF else s.regs.shedCtl } }

/-! ## The commands -/

/-- UZ_DBELL (R334, R336, R361). -/
def execUzDbell (r : Nat) (ix : W32) (s : State) : Out :=
  act (.uzDbell r ix) s (fun _ m => m.dbell r ix.toNat)

/-- UZ_CQDBELL (R334, R337, R361). -/
def execUzCqdbell (r : Nat) (ix : W32) (s : State) : Out :=
  act (.uzCqdbell r ix) s (fun _ m => m.cqDbell r ix.toNat)

/-- UZ_RPTDBELL (R334, R337, R361). -/
def execUzRptdbell (c : Nat) (ix : W32) (s : State) : Out :=
  act (.uzRptdbell c ix) s (fun _ m => m.rptDbell c ix.toNat)

/-- ENABLE (R335, R439, R451, R452). -/
def execEnable (ix : Nat) (s : State) : Out :=
  act (.enable ix) s (fun _ m => m.enable ix)

/-- SEQUENCER_LOAD_DONE (R450–R452). -/
def execSequencerLoadDone (s : State) : Out :=
  act (.sequencerLoadDone) s (fun _ m => m.seqLoadDone)

/-- DISABLE (R335, R439). -/
def execDisable (ix : Nat) (s : State) : Out :=
  act (.disable ix) s (fun _ m => m.disable ix)

/-- RESTART (R335, R439). -/
def execRestart (ix : Nat) (index : W32) (size : Nat) (s : State) : Out :=
  act (.restart ix index size) s (fun _ m => m.restart ix index.toNat size)

/-- LOAD (R199, R442). -/
def execLoad (k : Nat) (s : State) : Out :=
  act (.load k) s (fun _ m => m.keyLoad k (keyOp k 1))

/-- CLEAR (R199, R442). -/
def execClear (k : Nat) (s : State) : Out :=
  act (.clear k) s (fun _ m => m.keyClear k (keyOp k 2))

/-- ATTACH (R360, R437). -/
def execAttach (s : State) : Out :=
  act (.attach) s (fun _ m => m.attachWrite)

/-- DETACH (R356, R359, R437). -/
def execDetach (s : State) : Out :=
  act (.detach) s (fun mem m => m.detachWrite mem)

/-- WAKE (R370, R373). -/
def execWake (mask : Nat) (s : State) : Out :=
  act (.wake mask) s (fun _ m => m.wakeMask mask)

/-- CLRMAX (R382). -/
def execClrmax (s : State) : Out :=
  act (.clrmax) s (fun _ m => m.clrMax)

/-- UZ_CHAN_ABORT (R143, R440). -/
def execUzChanAbort (v : W64) (s : State) : Out :=
  act (.uzChanAbort v) s (fun mem m => m.chanAbortWrite mem v)

/-- NANTRAP_CLEAR (R249, R444). -/
def execNantrapClear (c : Nat) (s : State) : Out :=
  act (.nantrapClear c) s (fun _ m => m.clearTrap c)

/-- UZ_VLOG_PTR (R399). -/
def execUzVlogPtr (rd : W16) (s : State) : Out :=
  act (.uzVlogPtr rd) s (fun _ m => m.vlogPtr rd.toNat rd.toNat)

/-- UZ_GL_EPOCH (R287, R288, R426). -/
def execUzGlEpoch (v : W64) (s : State) : Out :=
  act (.uzGlEpoch v) s (fun _ m => m.epochWrite v v.toNat)

/-- UZ_TEST_CTL (R434). -/
def execUzTestCtl (v : W64) (s : State) : Out :=
  act (.uzTestCtl v) s (fun _ m => m.testWrite v)

end Sys2Proof.Machine
end

