-- ==== Sys2Proof/Machine/Mmio.lean ====
section
/-!
DEFINITION. MMIO writes of every register (R89, R422, R423, R425–R448): which bits a write covers, the access codes, the
writes that are invalid, and what each register's write does.
-/
namespace Sys2Proof.Machine

/-! ## What a write covers (R423) -/

/-- A write of `size` bytes at `off`, on the 8 B word that holds it. -/
structure MmioWrite where
  off : Nat
  size : Nat
  v : W64

/-- The bits of the word that the write covers. -/
def MmioWrite.cover (w : MmioWrite) : W64 :=
  if w.size = 8 then 0xFFFFFFFFFFFFFFFF else if w.off % 8 = 4 then 0xFFFFFFFF00000000 else 0xFFFFFFFF

/-- The written bits in their places; the bits not covered are 0. -/
def MmioWrite.placed (w : MmioWrite) : W64 :=
  if w.size = 8 then w.v else if w.off % 8 = 4 then w.v <<< 32 else w.v &&& 0xFFFFFFFF

/-- The word after the write, before any access code. -/
def MmioWrite.merge (w : MmioWrite) (old : W64) : W64 := (old &&& ~~~w.cover) ||| w.placed

/-- The value as written. -/
def MmioWrite.value (w : MmioWrite) : Nat := if w.size = 8 then w.v.toNat else w.v.toNat % 2 ^ 32

/-- The offset of the register the write is to. -/
def MmioWrite.reg (w : MmioWrite) : Nat := (regBase (w.off / 8 * 8)).1

/-- The write covers the low half of its word. -/
def MmioWrite.low (w : MmioWrite) : Bool := w.size == 8 || w.off % 8 == 0

def Mach.invalid (s : Mach) (w : MmioWrite) : Mach := s.badWrite w.reg w.value

/-! ## Grant, shedding, lodging and host registers -/

/-- R435: every RATE is 1 to 16. -/
def grantOk (v : W64) : Bool := (List.range 6).all (fun i => decide (1 ≤ W64.bits v (8 * i + 4) (8 * i)) && decide (W64.bits v (8 * i + 4) (8 * i) ≤ 16))

/-- R150: the shares sum to 16, and RD and WR are not 0. -/
def splitOk (v : W64) : Bool :=
  let rd := W64.bits v 4 0
  let wr := W64.bits v 12 8
  rd + wr + W64.bits v 20 16 == 16 && rd != 0 && wr != 0

/-- R382: T1 > T2 > T3 > T4 > T5 > 90. -/
def thrOk (v : W64) : Bool :=
  let t := fun (k : Nat) => W64.bits v (8 * k + 7) (8 * k)
  decide (t 1 < t 0) && decide (t 2 < t 1) && decide (t 3 < t 2) && decide (t 4 < t 3) && decide (90 < t 4)

/-- R382: HYST and HOLD are not 0, and FORCE is 0 outside test mode. -/
def Mach.shedCtlOk (s : Mach) (v : W64) : Bool :=
  W64.bits v 11 8 != 0 && W64.bits v 23 16 != 0 && (W64.bits v 26 24 == 0 || s.testMode)

/-- A register whose fields are all RWL: `mask` its fields, `ok` when a write of it is valid. -/
def Mach.rwlWrite (s : Mach) (w : MmioWrite) (mask old : W64) (ok : W64 → Bool) (put : Regs → W64 → Regs) : Mach :=
  let new := w.merge old &&& mask
  if !ok new then s.invalid w
  else
    let p := s.lockWrite w.reg w.value mask old new
    { p.2 with regs := put p.2.regs p.1 }

/-- UZ_SHED_CTL: its RWL fields, and FORCE, which raises the level at once (R382). -/
def Mach.shedCtlWrite (s : Mach) (w : MmioWrite) : Mach :=
  let new := w.merge s.regs.shedCtl &&& 0x7FF0F0F
  if !s.shedCtlOk new then s.invalid w
  else
    let p := s.lockWrite w.reg w.value 0xFF0F0F s.regs.shedCtl new
    let before := s.level
    let s : Mach := ({ p.2 with regs := { p.2.regs with shedCtl := p.1 } } : Mach).levelActs before
    if s.shed.off || decide (s.shedForce ≤ s.shed.level) then s else s.setLevel s.shedForce

/-- UZ_PWR_CTL (R373). -/
def Mach.pwrWrite (s : Mach) (w : MmioWrite) : Mach :=
  let s := { s with regs := { s.regs with pwrCtl := w.merge s.regs.pwrCtl &&& 0xFFFF00FF033F } }
  s.wakeMask (W64.bits w.placed 61 56)

/-- UZ_HOST_CTL (R437). -/
def Mach.hostCtlWrite (s : Mach) (mem : Mems) (w : MmioWrite) : Mach :=
  match W64.bits w.placed 1 0 with
  | 0 => s
  | 1 => if s.hs.att == .detached then s.attachHost else s.invalid w
  | 2 => s.detachWrite mem
  | _ => s.invalid w

/-- UZ_VLOG_CTL (R399). -/
def Mach.vlogCtlWrite (s : Mach) (w : MmioWrite) : Mach :=
  let new := w.merge (s.gateWord 0x88)
  let mark := W64.bits new 25 16
  if 512 < mark then s.invalid w
  else { s with vlog := { s.vlog with mark, sel := W64.bits new 8 0 } }

/-- UZ_KEY_CTL (R441, R442): every OP but 0 clears the staging buffer. -/
def Mach.keyCtlWrite (s : Mach) (w : MmioWrite) : Mach :=
  let slot := W64.bits w.placed 1 0
  match W64.bits w.placed 9 8 with
  | 0 => s
  | 1 => s.keyLoad slot w.value
  | 2 => s.keyClear slot w.value
  | _ => (s.invalid w).clearStaging

/-- The register words below 0x200. RO registers, and reserved words, take no write. -/
def Mach.gateWrite (s : Mach) (mem : Mems) (w : MmioWrite) : Mach :=
  match w.off / 8 * 8 with
  | 0x10 => s.testWrite (w.merge s.regs.testCtl)
  | 0x18 =>
    let kept := word ((List.range 64).map (fun k => (b2n (s.justSet k), k)))
    { s with regs := { s.regs with irqStat := s.regs.irqStat &&& (~~~w.placed ||| kept) } }
  | 0x20 => s.rwlWrite w 0x1F1F1F1F1F1F s.regs.bwGrant grantOk (fun r v => { r with bwGrant := v })
  | 0x28 => s.rwlWrite w 0x1F1F1F s.regs.bwSplit splitOk (fun r v => { r with bwSplit := v })
  | 0x30 => s.pwrWrite w
  | 0x40 => s.rwlWrite w 0xFFFFFFFFFF s.regs.shedThr thrOk (fun r v => { r with shedThr := v })
  | 0x48 => s.shedCtlWrite w
  | 0x50 => if W64.bits w.placed 16 16 = 1 then s.clrMax else s
  | 0x58 => s.rwlWrite w 0xFF1F01FF s.regs.glCtl
      (fun v => W64.bits v 20 16 != 0 && decide (W64.bits v 20 16 ≤ 16)) (fun r v => { r with glCtl := v })
  | 0x60 => if w.low then s.epochWrite (w.merge s.regs.glEpoch) w.value else s
  | 0x68 => s.rwlWrite w 0xFFFFFFFF s.regs.glTmo
      (fun v => decide (5000 ≤ v.toNat) && decide (v.toNat ≤ 5000000)) (fun r v => { r with glTmo := v })
  | 0x70 => s.hostCtlWrite mem w
  | 0x78 => s.rwlWrite w 0xFFFFFFFF s.regs.hostTmo
      (fun v => decide (50000 ≤ v.toNat) && decide (v.toNat ≤ 50000000)) (fun r v => { r with hostTmo := v })
  | 0x80 => if w.low then s.vlogPtr (W64.bits w.placed 15 0) w.value else s
  | 0x88 => s.vlogCtlWrite w
  | 0x90 => { s with regs := { s.regs with chanIen := w.merge s.regs.chanIen &&& 0xFFFFFFFFFFFF } }
  | 0x98 => if w.low then
      (if Config.nChan ≤ W64.bits w.placed 5 0 then s.invalid w else s.abortChan mem (W64.bits w.placed 5 0)) else s
  | 0xA0 => s.keyCtlWrite w
  | 0xE0 =>
    let b := w.placed
    let keep := fun k => W64.bits b k k == 0 || s.justSet (w1cHost k)
    s.modHs (fun h => { h with
      portChg := h.portChg && keep 8
      hostReset := h.hostReset && keep 9
      reattach := h.reattach && keep 10 })
  | a =>
    if 0x100 ≤ a ∧ a < 0x140 then
      { s with regs := { s.regs with keyData := amod 0 s.regs.keyData ((a - 0x100) / 8) w.merge } }
    else if 0x240 ≤ a ∧ a < 0x2C0 ∧ a % 32 = 0 then
      (if W64.bits w.placed 63 63 = 1 then s.clearTrap ((a - 0x240) / 32) else s)
    else if 0x400 ≤ a ∧ a < 0x580 then
      (if W64.bits w.placed 63 63 = 1 && !s.justSet (w1cPend ((a - 0x400) / 8)) then
        s.modChan ((a - 0x400) / 8) (fun k => { k with pend := false }) else s)
    else s

/-! ## Ring blocks (R438, R439) -/

/-- UZ_RINGCTL: CMD lies in the low half. -/
def Mach.ringCtlWrite (s : Mach) (ix : Nat) (w : MmioWrite) : Mach :=
  match W64.bits w.placed 1 0 with
  | 0 => s
  | 1 => if s.ringState ix != .disabled then s.invalid w else s.enable ix
  | 2 => s.disable ix
  | _ =>
    if w.size = 4 || s.ringState ix != .halted || s.inFlight ix then s.invalid w
    else s.restart ix (W64.bits w.placed 63 32) 8

/-- A base half: its ALIGN or HIGH is 0. -/
def baseLoOk (v : W64) : Bool := W64.bits v 11 0 == 0
def baseHiOk (v : W64) : Bool := W64.bits v 31 25 == 0
def sizeOk (v : W64) : Bool := decide (6 ≤ W64.bits v 4 0) && decide (W64.bits v 4 0 ≤ 16)

/-- A host address with its low or high half replaced. -/
def setLo (a : Nat) (v : W64) : Nat := a / 2 ^ 32 * 2 ^ 32 + W64.bits v 31 12 * 4096
def setHi (a : Nat) (v : W64) : Nat := W64.bits v 24 0 * 2 ^ 32 + a % 2 ^ 32

def Mach.ringWrite (s : Mach) (n : Nat) (w : MmioWrite) : Mach :=
  let r := s.ring n
  let put := fun (old : W64) (ok : W64 → Bool) (f : Ring → W64 → Ring) =>
    let new := w.merge old
    if r.state != .disabled || !ok new then s.invalid w else s.modRing n (fun g => f g new)
  match w.off / 8 * 8 % 64 with
  | 0x00 => put (baseLo r.base) baseLoOk (fun g v => { g with base := setLo g.base v })
  | 0x08 => put (baseHi r.base) baseHiOk (fun g v => { g with base := setHi g.base v })
  | 0x10 => put (BitVec.ofNat 64 r.log2) sizeOk (fun g v => { g with log2 := W64.bits v 4 0 })
  | 0x18 => put (baseLo r.cqBase) baseLoOk (fun g v => { g with cqBase := setLo g.cqBase v })
  | 0x20 => put (baseHi r.cqBase) baseHiOk (fun g v => { g with cqBase := setHi g.cqBase v })
  | 0x28 => s.ringCtlWrite n w
  | _ => s

def Mach.rptWrite (s : Mach) (c : Nat) (w : MmioWrite) : Mach :=
  let r := s.rpt c
  let put := fun (old : W64) (ok : W64 → Bool) (f : RptRing → W64 → RptRing) =>
    let new := w.merge old
    if r.state != .disabled || !ok new then s.invalid w else s.modRpt c (fun g => f g new)
  match w.off / 8 * 8 % 64 with
  | 0x00 => put (baseLo r.base) baseLoOk (fun g v => { g with base := setLo g.base v })
  | 0x08 => put (baseHi r.base) baseHiOk (fun g v => { g with base := setHi g.base v })
  | 0x10 => put (BitVec.ofNat 64 r.log2) sizeOk (fun g v => { g with log2 := W64.bits v 4 0 })
  | 0x28 => s.ringCtlWrite (16 + c) w
  | _ => s

/-! ## The configuration set (R89, R446, R447) -/

/-- A block offset that holds a register of the set that may be written. -/
def cfgWritable (x : Nat) : Bool :=
  decide (x < 0x50) || (decide (0x80 ≤ x) && decide (x < 0xB0)) || decide (0x800 ≤ x)

/-- A block offset of a register's word that no write changes: UZ_PLAN_ADDR and the last words of UZ_STALL_THR. -/
def cfgFixed (x : Nat) : Bool := (decide (0x50 ≤ x) && decide (x < 0x60)) || (decide (0xB0 ≤ x) && decide (x < 0xC0))

/-- ALIGN is 0, and a size is a multiple of 4,096 (R447). -/
def cfgOk (x : Nat) (new : W64) : Bool :=
  if x = 0x30 ∨ x = 0x40 then W64.bits new 11 0 == 0
  else if x = 0x38 ∨ x = 0x48 then W64.bits new 39 0 % 4096 == 0
  else true

/-- The set after a write of the word at block offset `x`. -/
def ConfigSet.write (k : ConfigSet) (x : Nat) (new : W64) : ConfigSet :=
  match x with
  | 0x00 => { k with ctxCtl := new &&& 0x3 }
  | 0x08 => { k with sentCtl := new &&& 0x1F }
  | 0x10 => { k with rplCtl := new &&& 0x7 }
  | 0x18 => { k with telCtl := new &&& 0xFF03 }
  | 0x20 => { k with histMask := new }
  | 0x28 => { k with scaleCtl := new &&& 0x7FF }
  | 0x30 => { k with telBase := new &&& 0xFFFFFFFFF000 }
  | 0x38 => { k with telSize := new &&& 0xFFFFFFFFFF }
  | 0x40 => { k with rplBase := new &&& 0xFFFFFFFFF000 }
  | 0x48 => { k with rplSize := new &&& 0xFFFFFFFFFF }
  | _ =>
    if 0x800 ≤ x then { k with sentTab := aset 0 k.sentTab ((x - 0x800) / 8) (new &&& 0x800FFFF0000FFFFF) }
    else
      let i := (x - 0x80) / 4
      let lo := aset 0 k.stallThr i (BitVec.ofNat 32 new.toNat)
      { k with stallThr := if i + 1 < 11 then aset 0 lo (i + 1) (BitVec.ofNat 32 (new.toNat / 2 ^ 32)) else lo }

/-- Capture has been enabled in the active set: the reserve is EMPTY (R272). -/
def Mach.captureEnabled (s : Mach) (c : Nat) (before : ConfigSet) : Mach :=
  let k := (s.ctx c).act
  let on := W64.bits before.rplCtl 0 0 == 0 && W64.bits k.rplCtl 0 0 == 1
  let r := (s.ctx c).reserve
  if on && r.state != .frozen && !(r.closing && r.freezeReq) then
    (s.dropWaiting (Hook.capOf c)).setReserve c (fun r => k.fresh r .empty)
  else s

/-- A write to a configuration set: one to a set that is closed, or with a field its register does not take, is invalid
for every register of the block, those that no write changes too (R89, R427, R446, R447). -/
def Mach.cfgWrite (s : Mach) (c : Nat) (shadow : Bool) (w : MmioWrite) : Mach :=
  let x := w.off / 8 * 8 % 0x1000
  let k := if shadow then (s.ctx c).shd else (s.ctx c).act
  let new := w.merge (k.word x)
  let closed := if shadow then (s.ctx c).swap.isSome else (s.ctx c).state != .idle
  if !(cfgWritable x || cfgFixed x) then s
  else if closed || !cfgOk x new then
    s.logv { status := .violCfg, src := srcMmio, ctx := some c, foff := w.reg, value := w.value }
  else if cfgFixed x then s
  else if shadow then s.modCtx c (fun y => { y with shd := y.shd.write x new })
  else (s.modCtx c (fun y => { y with act := y.act.write x new })).captureEnabled c k

/-! ## Every write -/

/-- The register an aligned write is to. -/
def Mach.regWrite (s : Mach) (mem : Mems) (w : MmioWrite) : Mach :=
  let a := w.off / 8 * 8
  let ix := W64.bits w.placed 31 0
  if a < 0x800 then s.gateWrite mem w
  else if a < 0xC00 then s.ringWrite ((a - 0x800) / 64) w
  else if a < 0xD00 then s.rptWrite ((a - 0xC00) / 64) w
  else if a < 0x1000 then s
  else if a < 0x1080 then (if w.low then s.dbell ((a - 0x1000) / 8) ix else s)
  else if a < 0x1100 then (if w.low then s.cqDbell ((a - 0x1080) / 8) ix else s)
  else if a < 0x1120 then (if w.low then s.rptDbell ((a - 0x1100) / 8) ix else s)
  else if 0x2000 ≤ a ∧ a < 0x6000 then s.cfgWrite ((a - 0x2000) / 0x1000) false w
  else if 0xA000 ≤ a ∧ a < 0xE000 then s.cfgWrite ((a - 0xA000) / 0x1000) true w
  else s

/-- An MMIO write; one of a wrong size or alignment is ignored and logged (R361). -/
def Mach.mmioWrite (s : Mach) (mem : Mems) (off size : Nat) (v : W64) : Mach :=
  if okAccess off size then s.regWrite mem { off, size, v } else s.logMmio .violMmio off v.toNat

/-- REGISTER_WRITE (R89, R422, R423, R425–R427, R433–R442, R444, R446). -/
def execRegisterWrite (off size : Nat) (v : W64) (s : State) : Out :=
  act (.registerWrite off size v) s (fun mem m => m.mmioWrite mem off size v)

end Sys2Proof.Machine
end

