-- ==== Sys2Proof/Machine/Ports.lean ====
section
/-!
DEFINITION. Port expanders: commands (R212–R214), delivery notes (R218, R219), opening and decoding frames (R220–R224),
BYPASS words (R225), operand requests and stall counts (R209, R223, R226), masks (R235–R237), faults and reset (R205–R207,
R393, R394).
-/
namespace Sys2Proof.Machine

/-! ## Commands -/

/-- Writes that wait enter the queue of 4 while it has places. `fuel` bounds the places. -/
def Expander.letIn (x : Expander) : Nat → Expander
  | 0 => x
  | fuel + 1 =>
    match x.waiting with
    | [] => x
    | c :: cs =>
      if x.queue.length < 4 then Expander.letIn { x with queue := x.queue ++ [c], waiting := cs } fuel else x

def Mach.portWrite (s : Mach) (core port : Nat) (c : PortCmd) : Mach :=
  s.modExp core port (fun x => { x with waiting := x.waiting ++ [c] }.letIn 4)

/-- R214. -/
def cmdBad (c : PortCmd) : Bool :=
  let ew := pcEw c.w0
  let off := 16 * pcOff c.w1
  let n := pcCount c.w1
  pcRsvd4 c.w0 != 0 || pcRsvd57 c.w0 != 0 || pcRsvd15 c.w1 != 0 ||
  (if pcMode c.w0 = 1 then
    pcBlk0 c.w0 != 0 || pcElem0 c.w0 != 0 || pcEpb c.w0 != 0 || ew != 0 || pcSeedSel c.w0 != 0 || pcPar c.w0 != 0 ||
      pcMaskp c.w1 != 0 || c.w2 != 0 || c.w3 != 0 || decide (Config.sramBytes < off + Config.frameBytes * n)
   else if pcMode c.w0 = 0 then
    pcRetain c.w0 != 0 || ew == 3 || pcEpb c.w0 == 0 || decide (2048 < pcEpb c.w0) ||
      decide (pcEpb c.w0 ≤ pcElem0 c.w0) || (pcSeedSel c.w0 == 1 && pcPar c.w0 != 0) ||
      (pcSeedSel c.w0 == 0 && c.w3 != 0) || decide (Config.sramBytes < off + 16 * n)
   else true)

/-! ## Faults (R205–R207, R214, R393) -/

/-- Where a report of a core's port goes: the home of the stage of the context's active plan that holds the core,
else the station of the core's field (R214). -/
def Mach.portStation (s : Mach) (core c : Nat) : Nat :=
  match (s.plan c).bind (fun p => p.stageOfCore core) with
  | some e => e.home
  | none => fieldOf core

/-- The latest delivery that a frame's offset and header match (R206): TENSORLO, STAGE and MB are compared, and BLOCK is not
(DESIGN CHOICE, log entry 122). -/
def Mach.delivOf (s : Mach) (n core : Nat) (f : FrameRun) : Option DelivRec :=
  (s.st n).deliveries.reverse.find? (fun d =>
    d.core == core && d.ctx == f.ctx && decide (d.off ≤ f.off) && (f.off - d.off) % Config.frameBytes == 0 &&
      decide ((f.off - d.off) / Config.frameBytes < d.nblk) && d.tensor % 2 ^ 16 == f.tensorLo && d.stage == f.stage &&
      d.mb == f.mb)

/-- A fault stops the port, is reported, and forces a step abort of the command's context. `hdr` tells whether the
report has a valid header. `at_` is the cclk in which the port stops. -/
def Mach.portFault (s : Mach) (core port : Nat) (f : FrameRun) (hdr : Bool) (ft : PortFault) (used : Nat)
    (at_ : Nat := 0) : Mach :=
  let n := s.portStation core f.ctx
  let s := s.modExp core port (fun x => { x with
    stopped := some ft.1, stopAt := at_, faults := satAdd 32 x.faults (1 + f.more) })
  let d := if hdr then s.delivOf n core f else none
  let s := s.logv { status := ft.1, src := srcExpander, unit := n, ctx := some f.ctx, kind := ft.2.1, sub := ft.2.2
                    foff := f.off, addr := (d.map (fun d => d.ledger)).getD 0
                    tensor := (d.map (fun d => d.tensor)).getD Config.noTensor
                    stage := if hdr then f.stage else 63, mb := if hdr then f.mb else 63
                    block := if hdr then f.block else 0xFFFFFF, core, port, layer := (d.map (fun d => d.layer)).getD 0, aux0 := f.presented, aux1 := used }
  s.forceAbort f.ctx (rankExp n core port) ft.1

/-! ## Accepting a command (R213, R218, R219) -/

/-- R218: a valid note that holds the command's frames, the newest in the order of writing. -/
def CoreNotes.lookup (x : CoreNotes) (c : PortCmd) : Option Note :=
  let off := pcOff c.w1
  let fits := fun (n : Note) =>
    n.valid && n.ctx == pcCtx c.w0 && decide (n.landoff ≤ off) && (off - n.landoff) % 258 == 0 &&
      decide ((off - n.landoff) / 258 + pcCount c.w1 ≤ n.nblk)
  let age := fun (n : Note) => (x.seq + 2 ^ 32 - n.seq) % 2 ^ 32
  ((List.range 8).map (fun i => aget {} x.slots i)).foldl (fun (b : Option Note) n =>
    if !fits n then b
    else match b with
      | none => some n
      | some m => if age n < age m then some n else b) none

/-- The BYPASS run of a command, with the seed it takes on acceptance (R237). -/
def Mach.bypassOf (s : Mach) (core : Nat) (c : PortCmd) : BypassRun :=
  { off := 16 * pcOff c.w1, total := 16 * pcCount c.w1, maskp := pcMaskp c.w1
    seed := if pcSeedSel c.w0 = 1 then c.w3 else aget 0 s.seeds (8 * core + 2 * pcCtx c.w0 + pcPar c.w0)
    base := c.w2 &&& 0x0FFFFFFFFFFC0000, width := 2 ^ pcEw c.w0, epb := pcEpb c.w0, elem0 := pcElem0 c.w0
    blk0 := pcBlk0 c.w0 }

/-- The queue's front command is accepted at `cclk`, when its MODE is `mode` or invalid. -/
def Mach.portAccept (s : Mach) (core port mode cclk : Nat) : Mach :=
  let x := s.exp core port
  match x.queue with
  | [] => s
  | c :: cs =>
    let m := pcMode c.w0
    if x.stopped.isSome || x.run.isSome || decide (cclk < x.mayAccept) || !(m == mode || decide (2 ≤ m)) then s
    else
      let s := s.modExp core port (fun x => { x with queue := cs }.letIn 4)
      let f : FrameRun := { off := 16 * pcOff c.w1, ctx := pcCtx c.w0 }
      if cmdBad c then s.portFault core port f false (.portCmd, 0, 7) 0
      else if pcCount c.w1 = 0 then s.modExp core port (fun x => { x with mayAccept := cclk + 1 })
      else if m = 0 then
        s.modExp core port (fun x => { x with run := some (.bypass cclk (s.bypassOf core c)) })
      else
        match (aget {} s.notes core).lookup c with
        | none => s.portFault core port f false (.portNote, 0, 7) 0
        | some nt =>
          s.modExp core port (fun x => { x with run := some (.frame c nt cclk 0 0 (List.replicate 4 cclk) none) })

/-! ## Opening a frame (R220, R222, R224) -/

/-- The fields that all frames of a command share (R222). -/
def HuskHdr.shared (h : HuskHdr) : Nat :=
  wordN [(h.src, 0), (h.fmt, 3), (b2n h.conv, 6), (h.scale, 7), (b2n h.sat, 15), (b2n h.stoch, 16)]

/-- The elements of a frame with its mask applied (R235, R236). -/
def maskFrame (nt : Note) (blk : Nat) (xs : List Nat) : List Nat :=
  ((List.range xs.length).zip xs).map (fun p => if maskKeeps nt.maskp nt.seed nt.base blk p.1 then p.2 else 0)

/-- The expander reads SIGN of its next frame at `cclk`. The frame's bytes are taken here, whole: a delivery that overwrites
an opened frame leaves what is presented of it as it was (DESIGN CHOICE, log entry 130). A fault of the header is reported
here, and stops the port when the header has been checked, at O_j: the frames before go on until then (R224; DESIGN CHOICE,
log entry 131). -/
def Mach.frameOpen (s : Mach) (mem : Mems) (core port cclk : Nat) : Mach :=
  let x := s.exp core port
  match x.run with
  | some (.frame c nt acc opened prevO prevT shared) =>
    if x.stopped.isSome || decide (cclk < (if opened = 0 then acc else prevO)) then s
    else
      let off := 16 * pcOff c.w1 + Config.frameBytes * opened
      let head := memReads mem.sram (sramAddr core off) 32
      let h := huskParse head
      let f : FrameRun :=
        { off, ctx := pcCtx c.w0, acc, retain := pcRetain c.w0 == 1, fmt := h.fmt, scale := h.scale
          elemBytes := h.fmtF.bytes, tensorLo := h.tensorLo, stage := h.stage, mb := h.mb, block := h.block
          payload := 16 * h.units }
      if h.sign = 0 then s
      else if huskHdrBad h then s.portFault core port f false (.huskHdr, 0, 7) 0 (cclk + 3)
      else if (shared.getD h.shared) != h.shared || h.tensorLo != W64.bits nt.base 33 18 then
        s.portFault core port f true (.huskHdr, 0, 7) 0 (cclk + 3)
      else
        match huskLenBad h with
        | some k => s.portFault core port f true (.lenfault, k, 7) 0 (cclk + 3)
        | none =>
          let out := huskDecode h (memReads mem.sram (sramAddr core off) h.blockLen)
          let o := cclk + 3
          let bs := (List.range 4).map (fun k => max o ((prevT[k]?).getD acc))
          let ts := (List.range 4).map (fun k => (bs[k]?).getD o + 2 + h.q k)
          let bytes := elemBytes h.fmtF.bytes (maskFrame nt h.block out.elems)
          let ws := chop 32 (h.plain + 1) bytes
          let early := firstFound bs out.firsts
          let late := firstFound bs out.lasts
          let f := { f with
            words := if early.1.isSome then
                ws.take (Config.faultWord s.freeNo % (out.good * h.fmtF.bytes / 32 + 1))
              else ws
            nwords := ceilDiv h.plain 32, bmax := maxNat bs, tmax := maxNat ts
            faultFirst := early.1, faultLast := late.1, more := if early.1.isSome then early.2 else late.2 }
          { s with freeNo := s.freeNo + 1 }.modExp core port (fun x => { x with
            frames := x.frames ++ [f]
            run := if pcCount c.w1 ≤ opened + 1 then none
              else some (.frame c nt acc (opened + 1) o ts (some (shared.getD h.shared)))
            mayAccept := if pcCount c.w1 ≤ opened + 1 then o + 1 else x.mayAccept })
  | _ => s

/-! ## Operand requests (R209, R223–R226, R393) -/

/-- The next word of a BYPASS run, masked by position (R237). -/
def BypassRun.word (r : BypassRun) (mem : Mems) (core : Nat) : List Byte :=
  let n := min 32 (r.total - r.pos)
  let l := memReads mem.sram (sramAddr core (r.off + r.pos)) n
  if r.maskp = 0 then l
  else
    ((List.range (n / r.width)).map (fun i =>
      let k := r.elem0 + r.pos / r.width + i
      if maskKeeps r.maskp r.seed r.base (r.blk0 + k / r.epb) (k % r.epb) then (l.drop (r.width * i)).take r.width
      else List.replicate r.width 0)).flatten

/-- Presents a word of a BYPASS run; what is left of it goes on as the tail. -/
def Mach.presentBypass (s : Mach) (mem : Mems) (core port cclk : Nat) (r : BypassRun) : Mach :=
  let w := r.word mem core
  let more := decide (r.pos + w.length < r.total)
  s.modExp core port (fun x => { x with
    lastWord := w
    tail := if more then some { r with pos := r.pos + w.length } else none
    w := if more then x.w else cclk + 1 })

/-- Presents the next word of a frame. After the last, SIGN is cleared unless RETAIN (R221), and a fault found at the
payload's end is reported (R205), with the whole declared payload as the bytes consumed (DESIGN CHOICE, log entry 123). -/
def Mach.presentFrame (s : Mach) (core port cclk : Nat) (f : FrameRun) (rest : List FrameRun) : Mach :=
  match f.words with
  | [] => s
  | w :: ws =>
    let f := { f with words := ws, presented := f.presented + w.length / f.elemBytes }
    let last := ws.isEmpty && f.faultFirst.isNone
    let s := s.modExp core port (fun x => { x with
      lastWord := w, sideFmt := f.fmt, sideScale := f.scale
      frames := if last then rest else f :: rest
      w := if last then cclk + 1 else x.w })
    if !last then s
    else
      let s := if f.retain then s else s.write .sram [(sramAddr core f.off, 0)]
      match f.faultLast with
      | some ft => s.portFault core port f true ft f.payload
      | none => s

/-- A request that gets no word. -/
def Mach.noWord (s : Mach) (core port : Nat) (f : Expander → Expander) : Mach :=
  s.modExp core port (fun x => f { x with lastWord := [] })

/-- The matrix engine asks for a word at `cclk`, once in a cclk at most. A command that is queued and not yet accepted is
no command the expander has: a request that gets no word then counts under no cause (R226; DESIGN CHOICE, log entry
124). -/
def Mach.operandRequest (s : Mach) (mem : Mems) (core port cclk : Nat) : Mach :=
  let x := s.exp core port
  let decode := fun (x : Expander) => { x with cntDecode := satAdd 32 x.cntDecode 1 }
  if cclk < x.nextReq then s
  else
    let s := s.modExp core port (fun x => { x with nextReq := cclk + 1 })
    if x.stopped.isSome && decide (x.stopAt ≤ cclk) then s.noWord core port (fun x => { x with cntStop := satAdd 32 x.cntStop 1 })
    else
      match x.tail, x.frames with
      | some r, _ => s.presentBypass mem core port cclk r
      | none, f :: rest =>
        if cclk < max (max x.w f.acc) (max (f.bmax + 2) (f.tmax - f.nwords)) then s.noWord core port decode
        else
          match f.faultFirst, f.words with
          | some ft, [] =>
            -- the port is stopped by the fault, and the engine gets no word (R226)
            { (s.noWord core port (fun x => { x with cntStop := satAdd 32 x.cntStop 1 })).portFault core port f true ft
                (Config.faultPoint s.freeNo) with freeNo := s.freeNo + 1 }
          | _, _ => s.presentFrame core port cclk f rest
      | none, [] =>
        match x.run with
        | some (.bypass acc r) =>
          if cclk < max x.w (acc + 3) then s.noWord core port decode
          else
            (s.presentBypass mem core port cclk r).modExp core port
              (fun x => { x with run := none, mayAccept := cclk + 1 })
        | some (.frame c _ _ opened _ _ _) =>
          let a := sramAddr core (16 * pcOff c.w1 + Config.frameBytes * opened)
          if memRead mem.sram a = 0x48 then s.noWord core port decode
          else s.noWord core port (fun x => { x with cntLand := satAdd 32 x.cntLand 1 })
        | none => s.noWord core port id

/-! ## Reset (R394) -/

/-- One expander: a stop, the running command and every queued command are gone; a core's write that waits enters. -/
def Expander.reset (x : Expander) : Expander :=
  Expander.letIn { x with
    queue := [], run := none, frames := [], tail := none, stopped := none, stopAt := 0, mayAccept := 0, lastWord := [] } 4

/-! ## The commands -/

/-- PORT_COMMAND_WRITE (R212, R213). -/
def execPortCommandWrite (core port : Nat) (w0 w1 w2 w3 : W64) (s : State) : Out :=
  act (.portCommandWrite core port w0 w1 w2 w3) s (fun _ m => m.portWrite core port { w0, w1, w2, w3 })

/-- FRAME_COMMAND (R213, R214, R218, R219). -/
def execFrameCommand (core port cclk : Nat) (s : State) : Out :=
  act (.frameCommand core port cclk) s (fun _ m => m.portAccept core port 1 cclk)

/-- BYPASS_COMMAND (R213, R214, R225, R237). -/
def execBypassCommand (core port cclk : Nat) (s : State) : Out :=
  act (.bypassCommand core port cclk) s (fun _ m => m.portAccept core port 0 cclk)

/-- FRAME_OPEN (R205, R220, R222, R224). -/
def execFrameOpen (core port cclk : Nat) (s : State) : Out :=
  act (.frameOpen core port cclk) s (fun mem m => m.frameOpen mem core port cclk)

/-- OPERAND_REQUEST (R209, R221, R223–R226, R235–R237). -/
def execOperandRequest (core port cclk : Nat) (s : State) : Out :=
  act (.operandRequest core port cclk) s (fun mem m => m.operandRequest mem core port cclk)

/-- PORT_RESET (R394). -/
def execPortReset (core : Nat) (s : State) : Out :=
  act (.portReset core) s (fun _ m => (m.modExp core 0 Expander.reset).modExp core 1 Expander.reset)

end Sys2Proof.Machine
end

