-- ==== Sys2Proof/Machine/Returns.lean ====
section
/-!
DEFINITION. Responses of local HBM (R139, R141): a write response and the return of a read, and what each brings to the
task, transfer, capture or guest request it belongs to (R30, R31, R39, R122, R133, R254, R271, R294, R296, R391, R392,
R395, R403).
-/
namespace Sys2Proof.Machine

/-- A byte of core SRAM or of local HBM (R157). -/
def fabExists (a : Nat) : Bool := (Config.sramOfFabric a).isSome || decide (faLocal a < Config.hbmBytes)

/-- An outstanding access that HBM answers. -/
def Mach.hbmAcc (s : Mach) (n acc : Nat) (write : Bool) : Option Access :=
  (s.st n).outst.find? (fun a => a.id == acc && a.write == write && decide (a.share < 3))

/-- Two accesses touch the same bytes. -/
def Access.meets (a b : Access) : Bool := decide (a.addr < b.addr + b.len) && decide (b.addr < a.addr + a.len)

/-- R141: on a channel 7 an access waits for the earlier posted writes of the same bytes. -/
def Station.behindPosted (x : Station) (a : Access) : Bool :=
  a.chan == 7 && (x.outst.takeWhile (fun b => b.id != a.id)).any (fun b => b.chan == 7 && b.posted && b.write && a.meets b)

/-- The access is answered. -/
def Mach.dropAcc (s : Mach) (n acc : Nat) : Mach :=
  s.modSt n (fun x => { x with outst := x.outst.filter (fun a => a.id != acc) })

/-- A task that is over goes with its last outstanding transfer. -/
def Mach.reap (s : Mach) (n id : Nat) : Mach :=
  match s.task n id with
  | none => s
  | some t => if t.ph == .fail then s.endFailed n t else s

/-- A failed write outside a task is logged. -/
def Mach.logWrite (s : Mach) (n : Nat) (a : Access) (err : Bool) : Mach :=
  if err then s.logv { status := .wrerr, src := srcStation, unit := n, ctx := some a.ctx, addr := a.addr } else s

/-! ## Write responses -/

/-- A slot of a Cellar stash is written (R122). -/
def Mach.slotWritten (s : Mach) (n id : Nat) (err : Bool) : Mach :=
  match s.task n id with
  | none => s
  | some t =>
    if t.ph == .fail then s
    else if err then s.failSend n t .wrerr
    else (s.modTask n id (fun t => { t with slotsDone := t.slotsDone + 1 })).cellarDone n id

/-- The write of a task's record is answered (R30, R31, R391). -/
def Mach.recAnswered (s : Mach) (n id : Nat) (err : Bool) : Mach :=
  match s.task n id with
  | none => s
  | some t =>
    if !err || t.ph == .fail then s.recordWritten n t
    else if t.kind == .demote then s.failDemotion n t .wrerr 0 0 true
    else s.failSend n t .wrerr

/-- A write of a REC item is answered; the task that waits for its item may end (R271). -/
def Mach.capAnswered (s : Mach) (n c g k : Nat) : Mach :=
  let s := s.captureWritten c g k
  Mach.overTasks n (fun s t =>
    if (t.kind == .stash || t.kind == .recall) && t.ctx == c && t.stage == g && t.fill == some k then s.endRemote n t else s) s

def Mach.writeAnswered (s : Mach) (mem : Mems) (n : Nat) (a : Access) (err : Bool) : Mach :=
  match a.hook with
  | .slotWrite t _ => s.slotWritten n t err
  | .recWrite t => s.recAnswered n t err
  | .capWrite c g k => ((s.logWrite n a err).capAnswered n c g k).captureDone c
  | .capFetch c => (s.logWrite n a err).captureDone c
  | .telWrite c => (s.logWrite n a err).telAnswered mem c false
  | .telStation c => (s.logWrite n a err).telAnswered mem c false
  | .telHead c => (s.logWrite n a err).telAnswered mem c true
  | .xferWrite r p o => s.xferWritten n r p o a.posted err a.addr
  | .inlineWrite r p => s.inlineWritten n r p err
  | .guestWrite p => (s.logWrite n a err).putWritten n p
  | .ckptWrite c => if err then s.ckptFail mem c .wrerr else s.ckptResponse mem c
  | .ctxSave c => (s.logWrite n a err).saveWritten c
  | .bedZero c => (s.logWrite n a err).bedsWritten mem c
  | _ => s.logWrite n a err

def Mach.writeResponse (s : Mach) (mem : Mems) (n acc : Nat) (err : Bool) : Mach :=
  match s.hbmAcc n acc true with
  | none => s
  | some a =>
    if (s.st n).behindPosted a then s
    else
      let s := (s.dropAcc n acc).writeFab (a.data.filter (fun p => fabExists p.1)) err
      let s := (s.writeAnswered mem n a err).reap n a.owner
      if a.chan = 7 then (s.finishXfers n).endCuts mem n else s

/-! ## Reads -/

/-- A half of an amax ring is here, or is not to be had: then the stash that asked for it fails, and the others ask
again (R253, R395). The ring is the one its read named, whatever area the set names by now (R94). -/
def Mach.ringReturned (s : Mach) (mem : Mems) (n : Nat) (a : Access) (c ent part : Nat) (err : Bool) : Mach :=
  let ring := a.addr - 64 * part
  if !err then s.ringLoaded mem n c ent ring
  else
    let plain := fun (b : Access) => match b.hook with
      | .ringRead d e p => if d = c ∧ e = ent ∧ b.addr - 64 * p = ring then { b with hook := Hook.plain } else b
      | _ => b
    let s := s.modSt n (fun x => { x with acc := x.acc.map plain, outst := x.outst.map plain })
    let s := match s.task n a.owner with
      | some t => if t.ph == .fail then s else s.failSend n t .rderr
      | none => s
    Mach.overTasks n (fun s t =>
      if t.kind == .stash && t.ph == .ring && t.ctx == c && t.ent == ent && t.cfg.tel.map (fun b => s.ringAt b ent) == some ring then
        s.beginStash n t.id
      else s) s

/-- The record of a fetch is here (R39, R55). -/
def Mach.recReturned (s : Mach) (n id : Nat) (l : List Byte) (err : Bool) : Mach :=
  match s.task n id with
  | none => s
  | some t =>
    if t.ph == .fail then s
    else if !err then s.fetchRecord n t l
    else if t.cancelled then s.endTask n t .aborted
    else s.failFetch n t .rderr 0 0

/-- Data of a slot read of a fetch or a demotion (R133, R392). -/
def Mach.slotReturned (s : Mach) (n id i : Nat) (l : List Byte) (err : Bool) : Mach :=
  match s.task n id with
  | none => s
  | some t =>
    if t.kind == .demote then
      if err && t.ph != .fail then s.failDemotion n t .rderr 0 0 false else s.demoteData n t i l
    else if err && !t.cancelled && t.ph != .fail then s.failFetch n t .rderr 0 0
    else s.fetchData n t i l

def Mach.readAnswered (s : Mach) (mem : Mems) (n : Nat) (a : Access) (err : Bool) : Mach :=
  let l := fabReads mem a.addr a.len
  match a.hook with
  | .ringRead c ent part => s.ringReturned mem n a c ent part err
  | .recRead t => s.recReturned n t l err
  | .slotRead t i => s.slotReturned n t i l err
  | .xferRead r p o tgt => if err then s.failXfer r p o .rderr else s.xferData r p o tgt l
  | .guestRead g => s.getRead g l err a.addr
  | .loadRead => s.loadReturned a l err
  | .seqRead => s.seqReturned a l err
  | .ckptRead c => if err then s.ckptFail mem c .rderr else s.ckptResponse mem c
  | _ => s

def Mach.readReturn (s : Mach) (mem : Mems) (n acc : Nat) (err : Bool) : Mach :=
  match s.hbmAcc n acc false with
  | none => s
  | some a =>
    if (s.st n).behindPosted a then s
    else
      let s := ((s.dropAcc n acc).readAnswered mem n a err).reap n a.owner
      if a.chan = 7 then s.endCuts mem n else s

/-- An answer without error for bytes that no HBM holds: R157 gives no outcome. -/
def Mach.absent (s : Mach) (n acc : Nat) (write err : Bool) : Bool :=
  match s.hbmAcc n acc write with
  | none => false
  | some a => !err && (List.range a.len).any (fun i => !fabExists (a.addr + i))

/-! ## The commands -/

/-- HBM_WRITE_RESPONSE (R30, R31, R122, R139, R141, R271, R294, R391, R403). -/
def execHbmWriteResponse (st acc : Nat) (err : Bool) (s : State) : Out :=
  if Instr.wf (.hbmWriteResponse st acc err) && s.m.absent st acc true err then .fault .hbmAbsent
  else act (.hbmWriteResponse st acc err) s (fun mem m => m.writeResponse mem st acc err)

/-- HBM_READ_RETURN (R39, R52, R55, R133, R139, R147, R201, R204, R254, R296, R392, R395). -/
def execHbmReadReturn (st acc : Nat) (err : Bool) (s : State) : Out :=
  if Instr.wf (.hbmReadReturn st acc err) && s.m.absent st acc false err then .fault .hbmAbsent
  else act (.hbmReadReturn st acc err) s (fun mem m => m.readReturn mem st acc err)

end Sys2Proof.Machine
end

