-- ==== Sys2Proof/Machine/Transfers.lean ====
section
/-!
DEFINITION. Commands on rooms, chunks, issue and delivery: ROOM_TAKE, CELLAR_CHUNK_TAKE, TRANSFER_ISSUE,
DELIVERY_BLOCK_WRITE and CORE_SRAM_READ_RETURN.
-/
namespace Sys2Proof.Machine

/-- A task takes one Inn room (R32, R135–R137). -/
def Mach.roomTake (s : Mach) (n id : Nat) : Mach :=
  match s.task n id with
  | none => s
  | some t =>
    match t.kind with
    | .fetch => s.takeFetchRoom n id
    | .stash => s.takeStashRoom n t
    | .demote => s.takeDemoteRoom n t
    | _ => s

/-- The first task of a stage that waits for slots takes a chunk when R43 allows it (R50). -/
def Mach.chunkTake (s : Mach) (n id : Nat) : Mach :=
  match s.task n id with
  | none => s
  | some t =>
    let first := ((s.slotWaiters n t.ctx t.stage).head?).map (fun u => u.id)
    if first != some id then s
    else
      let s := s.reserveAll n t.ctx t.stage
      match s.task n id with
      | none => s
      | some t =>
        if t.waitsSlots && s.mayTakeChunk t.ctx t.stage (s.isFallback t) then
          (s.linkChunk t.ctx t.stage).reserveAll n t.ctx t.stage
        else s

/-- The next access of a share goes out; a posted write of a descriptor transfer has ended with it (R140). -/
def Mach.issueNext (s : Mach) (n share : Nat) : Mach :=
  let old := s.st n
  let s := s.transferIssue n share
  match (s.st n).outst.getLast? with
  | none => s
  | some a =>
    if a.posted && !old.outst.any (fun b => b.id == a.id) then
      match a.hook with
      | .xferWrite r p o => s.partDone r p o
      | _ => s
    else s

/-- The delivery port reads the next block in its room and writes it; `innErr` is the number of bits in error in a word
that it meets there (R138, R395). -/
def Mach.deliver (s : Mach) (n innErr : Nat) : Mach :=
  if (s.st n).pwr != .active then s
  else
    match (s.st n).nextDelivery with
    | none => s
    | some t =>
      s.readInn n t.id t.delivered (fun s =>
        match s.task n t.id with
        | none => s
        | some t =>
          if innErr = 2 then s.failFetch n t .innerr 1 t.delivered
          else (if innErr = 1 then s.corrected n t t.delivered else s).deliverBlock n t)

/-! ## The commands -/

/-- ROOM_TAKE (R32, R135–R137). -/
def execRoomTake (st task : Nat) (s : State) : Out :=
  act (.roomTake st task) s (fun _ m => m.roomTake st task)

/-- CELLAR_CHUNK_TAKE (R43, R50). -/
def execCellarChunkTake (st task : Nat) (s : State) : Out :=
  act (.cellarChunkTake st task) s (fun _ m => m.chunkTake st task)

/-- TRANSFER_ISSUE (R132–R135, R152–R156). -/
def execTransferIssue (st share : Nat) (s : State) : Out :=
  act (.transferIssue st share) s (fun _ m => m.issueNext st share)

/-- DELIVERY_BLOCK_WRITE (R126, R127, R138, R216, R395). -/
def execDeliveryBlockWrite (st innErr : Nat) (s : State) : Out :=
  act (.deliveryBlockWrite st innErr) s (fun _ m => m.deliver st innErr)

/-- CORE_SRAM_READ_RETURN (R114, R119, R395). -/
def execCoreSramReadReturn (st e : Nat) (err : Bool) (s : State) : Out :=
  act (.coreSramReadReturn st e err) s (fun mem m => m.sramReturn mem st e err)

end Sys2Proof.Machine
end

