-- ==== Sys2Proof/Machine/Dispatch.lean ====
section
/-! DEFINITION. The commands' meanings, one arm per constructor of Instr. -/
namespace Sys2Proof.Machine

def exec (i : Instr) (s : State) : Host.Outcome State Fault Refusal :=
  match i with
  | .eventPost core w0 w1 => Sys2Proof.Machine.execEventPost core w0 w1 s
  | .eventForward st => Sys2Proof.Machine.execEventForward st s
  | .fwdDone st => Sys2Proof.Machine.execFwdDone st s
  | .bwdTick st => Sys2Proof.Machine.execBwdTick st s
  | .stepEnd st => Sys2Proof.Machine.execStepEnd st s
  | .mbCancel st => Sys2Proof.Machine.execMbCancel st s
  | .extraLeadDecrease c st tier => Sys2Proof.Machine.execExtraLeadDecrease c st tier s
  | .stepBoundary c => Sys2Proof.Machine.execStepBoundary c s
  | .abortingEnd c => Sys2Proof.Machine.execAbortingEnd c s
  | .engineDispatch st => Sys2Proof.Machine.execEngineDispatch st s
  | .land st eng => Sys2Proof.Machine.execLand st eng s
  | .seta st eng => Sys2Proof.Machine.execSeta st eng s
  | .loop st eng => Sys2Proof.Machine.execLoop st eng s
  | .batch st eng => Sys2Proof.Machine.execBatch st eng s
  | .endl st eng => Sys2Proof.Machine.execEndl st eng s
  | .skiplen st eng => Sys2Proof.Machine.execSkiplen st eng s
  | .emit st eng => Sys2Proof.Machine.execEmit st eng s
  | .waitSemaphore st eng => Sys2Proof.Machine.execWaitSemaphore st eng s
  | .waitDrain st eng => Sys2Proof.Machine.execWaitDrain st eng s
  | .fin st eng => Sys2Proof.Machine.execFin st eng s
  | .roomTake st task => Sys2Proof.Machine.execRoomTake st task s
  | .cellarChunkTake st task => Sys2Proof.Machine.execCellarChunkTake st task s
  | .demoteChunk c => Sys2Proof.Machine.execDemoteChunk c s
  | .laneBlockDone st lane => Sys2Proof.Machine.execLaneBlockDone st lane s
  | .transferIssue st share => Sys2Proof.Machine.execTransferIssue st share s
  | .hbmWriteResponse st acc err => Sys2Proof.Machine.execHbmWriteResponse st acc err s
  | .hbmReadReturn st acc err => Sys2Proof.Machine.execHbmReadReturn st acc err s
  | .deferredFetchIssue st task => Sys2Proof.Machine.execDeferredFetchIssue st task s
  | .deliveryBlockWrite st innErr => Sys2Proof.Machine.execDeliveryBlockWrite st innErr s
  | .cellWritePathIssue st full => Sys2Proof.Machine.execCellWritePathIssue st full s
  | .ticketRetry st core full => Sys2Proof.Machine.execTicketRetry st core full s
  | .cellWriteLand st core => Sys2Proof.Machine.execCellWriteLand st core s
  | .cellWait core cell => Sys2Proof.Machine.execCellWait core cell s
  | .signal core w0 w1 => Sys2Proof.Machine.execSignal core w0 w1 s
  | .arrive core w0 w1 => Sys2Proof.Machine.execArrive core w0 w1 s
  | .take core w0 w1 => Sys2Proof.Machine.execTake core w0 w1 s
  | .stallThreshold c stage cause => Sys2Proof.Machine.execStallThreshold c stage cause s
  | .portCommandWrite core port w0 w1 w2 w3 => Sys2Proof.Machine.execPortCommandWrite core port w0 w1 w2 w3 s
  | .frameCommand core port cclk => Sys2Proof.Machine.execFrameCommand core port cclk s
  | .bypassCommand core port cclk => Sys2Proof.Machine.execBypassCommand core port cclk s
  | .frameOpen core port cclk => Sys2Proof.Machine.execFrameOpen core port cclk s
  | .operandRequest core port cclk => Sys2Proof.Machine.execOperandRequest core port cclk s
  | .portReset core => Sys2Proof.Machine.execPortReset core s
  | .nop ring => Sys2Proof.Machine.execNop ring s
  | .planInstall ring => Sys2Proof.Machine.execPlanInstall ring s
  | .installVerified => Sys2Proof.Machine.execInstallVerified s
  | .planArm ring => Sys2Proof.Machine.execPlanArm ring s
  | .planWithdraw ring => Sys2Proof.Machine.execPlanWithdraw ring s
  | .cfgSwap ring => Sys2Proof.Machine.execCfgSwap ring s
  | .stepAbort ring => Sys2Proof.Machine.execStepAbort ring s
  | .copy ring => Sys2Proof.Machine.execCopy ring s
  | .fill ring => Sys2Proof.Machine.execFill ring s
  | .compare ring => Sys2Proof.Machine.execCompare ring s
  | .compareConst ring => Sys2Proof.Machine.execCompareConst ring s
  | .chanAbort ring => Sys2Proof.Machine.execChanAbort ring s
  | .semAdj ring => Sys2Proof.Machine.execSemAdj ring s
  | .semWakeSemaphore ring => Sys2Proof.Machine.execSemWakeSemaphore ring s
  | .semWakeCell ring => Sys2Proof.Machine.execSemWakeCell ring s
  | .ctxSave ring => Sys2Proof.Machine.execCtxSave ring s
  | .ctxRestore ring => Sys2Proof.Machine.execCtxRestore ring s
  | .replay ring => Sys2Proof.Machine.execReplay ring s
  | .rplRelease ring => Sys2Proof.Machine.execRplRelease ring s
  | .ckptCaptureBoundary ring => Sys2Proof.Machine.execCkptCaptureBoundary ring s
  | .ckptCaptureSnapshot ring => Sys2Proof.Machine.execCkptCaptureSnapshot ring s
  | .inline ring => Sys2Proof.Machine.execInline ring s
  | .descriptorRead => Sys2Proof.Machine.execDescriptorRead s
  | .descriptorReadReturn ring pos err => Sys2Proof.Machine.execDescriptorReadReturn ring pos err s
  | .descriptorReread ring pos => Sys2Proof.Machine.execDescriptorReread ring pos s
  | .completionEntryIssue => Sys2Proof.Machine.execCompletionEntryIssue s
  | .hostWriteGo id err => Sys2Proof.Machine.execHostWriteGo id err s
  | .hostReadData id err => Sys2Proof.Machine.execHostReadData id err s
  | .snoop addr => Sys2Proof.Machine.execSnoop addr s
  | .cxlPortDown port => Sys2Proof.Machine.execCxlPortDown port s
  | .cxlPortUp port => Sys2Proof.Machine.execCxlPortUp port s
  | .hostLinkReset port => Sys2Proof.Machine.execHostLinkReset port s
  | .hostTimeout => Sys2Proof.Machine.execHostTimeout s
  | .heldEntryTimeout ring => Sys2Proof.Machine.execHeldEntryTimeout ring s
  | .uzDbell ring index => Sys2Proof.Machine.execUzDbell ring index s
  | .uzCqdbell ring index => Sys2Proof.Machine.execUzCqdbell ring index s
  | .uzRptdbell c index => Sys2Proof.Machine.execUzRptdbell c index s
  | .enable ringix => Sys2Proof.Machine.execEnable ringix s
  | .sequencerLoadDone => Sys2Proof.Machine.execSequencerLoadDone s
  | .disable ringix => Sys2Proof.Machine.execDisable ringix s
  | .restart ringix index size => Sys2Proof.Machine.execRestart ringix index size s
  | .load slot => Sys2Proof.Machine.execLoad slot s
  | .clear slot => Sys2Proof.Machine.execClear slot s
  | .attach => Sys2Proof.Machine.execAttach s
  | .detach => Sys2Proof.Machine.execDetach s
  | .wake mask => Sys2Proof.Machine.execWake mask s
  | .clrmax => Sys2Proof.Machine.execClrmax s
  | .uzChanAbort v => Sys2Proof.Machine.execUzChanAbort v s
  | .nantrapClear c => Sys2Proof.Machine.execNantrapClear c s
  | .uzVlogPtr rd => Sys2Proof.Machine.execUzVlogPtr rd s
  | .uzGlEpoch v => Sys2Proof.Machine.execUzGlEpoch v s
  | .uzTestCtl v => Sys2Proof.Machine.execUzTestCtl v s
  | .msixUnmask vec => Sys2Proof.Machine.execMsixUnmask vec s
  | .registerReadLatch off size => Sys2Proof.Machine.execRegisterReadLatch off size s
  | .registerWrite off size v => Sys2Proof.Machine.execRegisterWrite off size v s
  | .linkUp link dev => Sys2Proof.Machine.execLinkUp link dev s
  | .linkDown link training => Sys2Proof.Machine.execLinkDown link training s
  | .lodgingTimeout req => Sys2Proof.Machine.execLodgingTimeout req s
  | .peerLinkTimeout dev => Sys2Proof.Machine.execPeerLinkTimeout dev s
  | .vlimitReached dev => Sys2Proof.Machine.execVlimitReached dev s
  | .lodgingSend link => Sys2Proof.Machine.execLodgingSend link s
  | .hello link m => Sys2Proof.Machine.execHello link m s
  | .claim link m => Sys2Proof.Machine.execClaim link m s
  | .unclaim link m => Sys2Proof.Machine.execUnclaim link m s
  | .put link m => Sys2Proof.Machine.execPut link m s
  | .putAck link m => Sys2Proof.Machine.execPutAck link m s
  | .get link m => Sys2Proof.Machine.execGet link m s
  | .more link m => Sys2Proof.Machine.execMore link m s
  | .data link m => Sys2Proof.Machine.execData link m s
  | .free link m => Sys2Proof.Machine.execFree link m s
  | .release link m => Sys2Proof.Machine.execRelease link m s
  | .ack link m => Sys2Proof.Machine.execAck link m s
  | .nak link m => Sys2Proof.Machine.execNak link m s
  | .evict link m => Sys2Proof.Machine.execEvict link m s
  | .supplySample mv => Sys2Proof.Machine.execSupplySample mv s
  | .shedLevelFall => Sys2Proof.Machine.execShedLevelFall s
  | .stationsReturn => Sys2Proof.Machine.execStationsReturn s
  | .clockGate st => Sys2Proof.Machine.execClockGate st s
  | .powerGate st => Sys2Proof.Machine.execPowerGate st s
  | .stationWake st => Sys2Proof.Machine.execStationWake st s
  | .vlogEntryWrite => Sys2Proof.Machine.execVlogEntryWrite s
  | .vlogMark => Sys2Proof.Machine.execVlogMark s
  | .deviceReset devid => Sys2Proof.Machine.execDeviceReset devid s
  | .coreSramReadReturn st eng err => Sys2Proof.Machine.execCoreSramReadReturn st eng err s
  | .linkLayerAcceptance st acc => Sys2Proof.Machine.execLinkLayerAcceptance st acc s

end Sys2Proof.Machine
end

