-- ==== Sys2Proof/Machine/Step.lean ====
section
/-!
DEFINITION. One step of the block: the command at the front of the queue, or one aclk tick when none waits
(log entry 3).
-/
namespace Sys2Proof.Machine

/-- The command at the front of the queue is carried out on the rest of it; with no command the clock advances. -/
def step (s : State) : Host.Outcome State Fault Refusal :=
  match s.pending with
  | [] => .next (commit s s.m.tick)
  | c :: cs => exec c { s with pending := cs }

/-- No row of the table gives a command bits, so no word spells one and the state is unchanged. -/
def State.withFetchWord (s : State) (nbits w : Nat) : State :=
  match decodeTableWord nbits w with
  | some c => { s with pending := c :: s.pending }
  | none => s

end Sys2Proof.Machine
end

