-- ==== Sys2Proof/Safety.lean ====
section
/-!
DEFINITION. Safety, in the terms the statements use: the canonical form of the memories, the invariant every step keeps,
and the next states of commands that change one thing.
-/
namespace Sys2Proof.Machine

/-- All three memories are in canonical form. -/
def Mems.wf (m : Mems) : Bool := Memory.wf m.fab && Memory.wf m.sram && Memory.wf m.host

/-- No write of an earlier command is left over. -/
abbrev State.Quiet (s : State) : Prop := s.m.out = []

/-- What every step keeps: canonical memories, and no write left over. -/
abbrev State.Inv (s : State) : Prop := s.mem.wf = true ∧ s.Quiet

/-- The next state in which Uzoto is `m`, and the queue and every byte of memory are as they were. -/
def State.to (s : State) (m : Mach) : Out := .next { s with m := m }

/-- The bounds that the manual sets on what a station holds: 512 events (R27), and 16 accesses outstanding on each channel
(R133). -/
def Station.Bounded (x : Station) : Prop :=
  x.evq.length ≤ Config.eventQueueDepth ∧ ∀ k, k < 8 → x.chanUse k ≤ 16

/-- The bounds that the manual sets on queues and counts: those of the stations; semaphores and cells of at most 65,535
(R310, R314); 4 commands in a port's queue (R213); 32 PUT credits of a link (R285); the violation log's indices of 16 bits
and its 512 unread entries (R399). -/
structure Mach.Bounded (m : Mach) : Prop where
  st : ∀ n, (m.st n).Bounded
  sem : ∀ k, aget 0 m.sems k ≤ 65535
  cell : ∀ k, (aget {} m.cells k).count ≤ 65535
  port : ∀ k, (aget {} m.exps k).queue.length ≤ 4
  credit : ∀ l, (m.link l).credits ≤ 32
  log : m.vlog.wr < 65536 ∧ m.vlog.rd < 65536 ∧ m.vlog.unread ≤ 512

/-- From `s` to `t` only station `n` has changed; it is `x` now. -/
def StationBecomes (s t : State) (n : Nat) (x : Station) : Prop :=
  t.m.st n = x ∧ (∀ k, k ≠ n → t.m.st k = s.m.st k) ∧ { t with m := { t.m with sts := s.m.sts } } = s

/-- From `s` to `t` only engine `e` of station `n` has changed; it is `x` now. -/
def EngineBecomes (s t : State) (n e : Nat) (x : Engine) : Prop :=
  t.m.eng n e = x ∧ (∀ k, k ≠ e → t.m.eng n k = s.m.eng n k) ∧
    { t.m.st n with engines := (s.m.st n).engines } = s.m.st n ∧ (∀ k, k ≠ n → t.m.st k = s.m.st k) ∧
    { t with m := { t.m with sts := s.m.sts } } = s

/-- Engine `e` of station `n` runs task `t` and stands at instruction `i`, whose word of program memory has no error. -/
def EngineReads (s : State) (n e : Nat) (g : Engine) (t : Task) (i : Ins) : Prop :=
  s.m.engAt n e = some (g, t, i) ∧ aget .clean (s.m.st n).progEcc (progWord t.ctx t.prog g.pc) = .clean

/-- From `s` to `t` only context `c` has changed; it is `x` now. -/
def ContextBecomes (s t : State) (c : Nat) (x : Ctx) : Prop :=
  t.m.ctx c = x ∧ (∀ k, k ≠ c → t.m.ctx k = s.m.ctx k) ∧ { t with m := { t.m with ctxs := s.m.ctxs } } = s

/-- From `s` to `t` only the expander of a port has changed; it is `x` now. -/
def ExpanderBecomes (s t : State) (core port : Nat) (x : Expander) : Prop :=
  t.m.exp core port = x ∧ (∀ k, k ≠ 2 * core + port → aget {} t.m.exps k = aget {} s.m.exps k) ∧
    { t with m := { t.m with exps := s.m.exps } } = s

/-- From `s` to `t` only command ring `r` has changed; it is `x` now. -/
def RingBecomes (s t : State) (r : Nat) (x : Ring) : Prop :=
  t.m.ring r = x ∧ (∀ k, k ≠ r → t.m.ring k = s.m.ring k) ∧
    { t with m := { t.m with hs := { t.m.hs with rings := s.m.hs.rings } } } = s

/-- What a semaphore operation needs to be applied: the posting core's station and the semaphore's are ACTIVE, no earlier
operation of the core is held there, and the context's operations are not held. -/
abbrev SemReady (s : State) (core : Nat) (w0 w1 : W64) : Prop :=
  core < 25920 ∧ s.Quiet ∧ s.m.semBlocked (core / 4320) { core, w0, w1 } = false ∧
    s.m.semBlocked (soStation w0) { core, w0, w1 } = false

/-- The machine once a semaphore operation has come to its core's station and to its semaphore's: the idle times of both
begin again (R368, R369). -/
def Mach.reached (m : Mach) (core : Nat) (w0 : W64) : Mach := (m.wakeStation (core / 4320)).wakeStation (soStation w0)

/-- Descriptor `d` of ring `r` comes to start, the ring's only one still to start, with fields that pass their checks and
the stations not OFF. -/
structure DescReady (s : State) (r : Nat) (d : Desc) : Prop where
  ring : r < 16
  quiet : s.Quiet
  awake : s.m.shed.off = false
  next : s.m.nextDesc r = some d
  alone : (s.m.ring r).descs.filter Desc.waits = [d]
  sound : descFault s.m.devid (r / 4) d.line = none

/-- From `s` to `t` one descriptor has ended, and no other: its completion event waits for the collector. -/
def Ends (s t : State) (d : DescRef) (st : Status) (detail : Nat) : Prop :=
  (∃ e, t.m.hs.events = s.m.hs.events ++ [e] ∧ e.desc = d ∧ e.status = st ∧ e.detail = detail % 2 ^ 32) ∧
    ∀ x ∈ (t.m.ring d.ring).descs, x.pos = d.pos → x.st = .completed

/-- From `s` to `t` a descriptor has started, and none has ended. -/
def Starts (s t : State) (d : DescRef) : Prop :=
  t.m.hs.events = s.m.hs.events ∧ ∀ x ∈ (t.m.ring d.ring).descs, x.pos = d.pos → x.st = .started

end Sys2Proof.Machine
end

