-- ==== Sys2Proof/Certificates/Slice0/Obligations.lean ====
section
/-!
DEFINITION. The statements: what the machine and its commands do, one definition each. Every completion statement holds
for every state and operands that meet its hypotheses; `s.to m` is the next state in which the queue and every byte of
memory are as they were, so that what `m` does not change is unchanged.
-/
open Sys2Proof Sys2Proof.Machine

/-! ## The whole machine -/

/-- A step takes the front command and carries it out on the rest of the queue. -/
def Obligations.StepRunsFront : Prop :=
  ∀ (s : State) (c : Instr) (cs : List Instr), s.pending = c :: cs → step s = exec c { s with pending := cs }

/-- On an empty queue one aclk passes (the model's choice, log entry 3). All but times, counts, ages and tokens stays as it
is: of a station its tokens, clocks and busy counts and its tasks' C0_OVER marks change, of a stage its stall and late
counts, of a link its tokens, of requests, peers, descriptors and the attachment their ages. -/
def Obligations.EmptyQueueTicks : Prop :=
  ∀ s : State, s.pending = [] → s.Quiet →
    ∃ m : Mach, step s = s.to m ∧
      m = { s.m with aclk := s.m.aclk + 1, sts := m.sts, ctxs := m.ctxs, lodge := m.lodge, hs := m.hs } ∧
      (∀ n, let x := s.m.st n
        { m.st n with
          tokens := x.tokens, clsTokens := x.clsTokens, sclk := x.sclk, slow := x.slow, gated := x.gated
          engBusy := x.engBusy, fengBusy := x.fengBusy, laneBusy := x.laneBusy, idleSclk := x.idleSclk
          pgAclk := x.pgAclk, tasks := x.tasks } = x ∧
        (m.st n).tasks.map (fun t => { t with c0over := false }) = x.tasks.map (fun t => { t with c0over := false })) ∧
      (∀ n, n < 6 → (m.st n).sclk = (if (s.m.st n).pwr = .active then (s.m.st n).sclk + s.m.sclkRate else (s.m.st n).sclk) ∧
        (m.st n).gated = (if (s.m.st n).pwr = .active then (s.m.st n).gated else (s.m.st n).gated + 1)) ∧
      (∀ c, { m.ctx c with stages := (s.m.ctx c).stages } = s.m.ctx c) ∧
      (∀ c g, let y := s.m.stage c g
        { m.stage c g with stats := y.stats, stallDue := y.stallDue } = y ∧
        { (m.stage c g).stats with stall := y.stats.stall, late := y.stats.late } = y.stats) ∧
      (∀ l, { m.link l with tokens := (s.m.link l).tokens } = s.m.link l) ∧
      (∀ d, { m.peer d with down := (s.m.peer d).down, downAge := (s.m.peer d).downAge } = s.m.peer d) ∧
      m.lodge.reqs.map (fun r => { r with age := 0 }) = s.m.lodge.reqs.map (fun r => { r with age := 0 }) ∧
      { m.lodge with links := s.m.lodge.links, peers := s.m.lodge.peers, reqs := s.m.lodge.reqs } = s.m.lodge ∧
      (∀ r, { m.ring r with descs := (s.m.ring r).descs } = s.m.ring r ∧
        (m.ring r).descs.map (fun d => { d with age := 0 }) = (s.m.ring r).descs.map (fun d => { d with age := 0 })) ∧
      { m.hs with rings := s.m.hs.rings, holdAge := s.m.hs.holdAge, attachAge := s.m.hs.attachAge } = s.m.hs

/-- The machine after reset: contexts IDLE and with no plan, stations ACTIVE and empty, semaphores and cells 0, rings
DISABLED, channels OK, the log empty, nothing waiting. (The registers' own values are in the rules of their tables;
device id 0, empty memories and the attachment's state are the model's choices, log entries 4, 6 and 5.) The invariant
and the bounds on queues and counts hold. -/
def Obligations.ResetState : Prop :=
  State.reset.pending = [] ∧
  (∀ c, (State.reset.m.ctx c).state = .idle ∧ (State.reset.m.ctx c).act.plan = none ∧ (State.reset.m.ctx c).shd.plan = none ∧
    (State.reset.m.ctx c).step = 0) ∧
  (∀ n, State.reset.m.st n = {}) ∧ (∀ n i, State.reset.m.sem n i = 0) ∧ (∀ k i, State.reset.m.cell k i = {}) ∧
  (∀ r, (State.reset.m.ring r).state = .disabled) ∧ (∀ c, (State.reset.m.rpt c).state = .disabled) ∧
  (∀ n, (State.reset.m.chan n).status = .ok ∧ (State.reset.m.chan n).residue = 0) ∧
  (∀ k p, State.reset.m.exp k p = {}) ∧
  State.reset.m.vlog.unread = 0 ∧ State.reset.m.vlog.lost = 0 ∧ State.reset.m.level = 0 ∧
  State.reset.m.regs.irqStat = 0 ∧ State.reset.m.regs.bwGrant = 0x101010101010 ∧ State.reset.m.regs.bwSplit = 0x20608 ∧
  State.reset.m.regs.shedThr = 0x6970787F87 ∧ State.reset.m.regs.glTmo = 50000 ∧ State.reset.m.regs.hostTmo = 5000000 ∧
  State.reset.m.regs.glEpoch = 0 ∧ State.reset.m.regs.locked = false ∧
  State.reset.Inv ∧ State.reset.m.Bounded

/-- Every step keeps the memories canonical and leaves no write behind. -/
def Obligations.StepKeepsInv : Prop := ∀ s t : State, s.Inv → step s = .next t → t.Inv

/-- Every step keeps the bounds: event queues of 512 (R27), 16 accesses outstanding on a channel (R133), semaphores and
cells of at most 65,535 (R314, R310), port queues of 4 (R213), 32 PUT credits (R285) and 512 unread log entries (R399). -/
def Obligations.StepKeepsBounds : Prop := ∀ s t : State, s.m.Bounded → step s = .next t → t.m.Bounded

/-- Every command answers a next state, but for an answer of local HBM for bytes that no HBM holds; none is refused. A
command changes nothing in the queue, and one that names no unit of the part has no effect (the model's choice, log entry
2). -/
def Obligations.OnlyAbsentHbmStops : Prop :=
  (∀ (i : Instr) (s : State), (∃ t, exec i s = .next t) ∨
    (exec i s = .fault .hbmAbsent ∧
      ((∃ n a e, i = .hbmWriteResponse n a e ∧ s.m.absent n a true e = true) ∨
        (∃ n a e, i = .hbmReadReturn n a e ∧ s.m.absent n a false e = true)))) ∧
  (∀ (i : Instr) (s t : State), exec i s = .next t → t.pending = s.pending) ∧
  (∀ (i : Instr) (s : State), i.wf = false → exec i s = .next s)

/-- DEVICE_RESET: every state item is at its reset value, the device id is read from the straps, the memories and the
present-width pins are not Uzoto's. Ids 8 to 15 are no device: straps that read so have no effect. (How straps of 8 to 15
are taken: log entry 4; the pins: log entry 11.) -/
def Obligations.DeviceResetAll : Prop :=
  ∀ (s : State) (d : Nat),
    (d < 8 →
      exec (.deviceReset d) s = .next { s with m := { State.reset.m with devid := d, widthPin := s.m.widthPin } }) ∧
    (8 ≤ d → exec (.deviceReset d) s = .next s)

/-! ## Layer-progress events -/

/-- EVENT_POST completes for every core and event. An event posted to a station that is not OFF wakes it: it enters the
queue of an ACTIVE station, waits while that queue is full or the station is not yet ACTIVE, and is discarded and counted by
an ACTIVE station when its context is in ABORTING. A station that is OFF discards and counts it. -/
def Obligations.EventPosted : Prop :=
  ∀ (s : State) (core : Nat) (w0 w1 : W64), core < 25920 →
    (∃ t, exec (.eventPost core w0 w1) s = .next t) ∧
    (s.Quiet →
      let n := core / 4320
      let x := s.m.st n
      let e : QEvent := { w0, w1, poster := core }
      let aborting := (s.m.ctx (evCtx w0)).state = .aborting
      let becomes := fun (y : Station) => ∃ t, exec (.eventPost core w0 w1) s = .next t ∧
        StationBecomes s t n { y with idleSclk := 0, pgAclk := 0 }
      (x.pwr = .off → exec (.eventPost core w0 w1) s =
        s.to { s.m with shed := { s.m.shed with dropped := satAdd 16 s.m.shed.dropped 1 } }) ∧
      (x.pwr = .active → ¬aborting → x.evWait = [] → x.evq.length < 512 → becomes { x with evq := x.evq ++ [e] }) ∧
      (x.pwr = .active → ¬aborting → 512 ≤ x.evq.length → becomes { x with evWait := x.evWait ++ [e] }) ∧
      (x.pwr = .waking → becomes { x with evWait := x.evWait ++ [e] }) ∧
      (x.pwr = .clockGated ∨ x.pwr = .powerGated →
        becomes { x with evWait := x.evWait ++ [e], pwr := .waking, wakes := satAdd 32 x.wakes 1 }) ∧
      (x.pwr = .active → aborting →
        let m := s.m.modSt n (fun y => { y with idleSclk := 0, pgAclk := 0 })
        exec (.eventPost core w0 w1) s = s.to (if (s.m.stageOf (evCtx w0) (evStage w0)).isSome then
          m.modStage (evCtx w0) (evStage w0) (fun y => { y with
            stats := { y.stats with discarded := satAdd 32 y.stats.discarded 1 } }) else m)))

/-- EVENT_FORWARD: the next event goes to the end of its home station's queue; a faulty one is discarded and logged; one
whose words have an uncorrectable error is logged and discarded. The last event of an ARMED context to be discarded lets its
pending swap go. An event that only its home station's sleep holds back wakes that station. (Which byte FOFF names: log entry
12; what becomes of an event with an uncorrectable error: log entry 118.) -/
def Obligations.EventForwarded : Prop :=
  (∀ (s : State) (n i : Nat) (e : QEvent), n < 6 → s.m.nextEvent n = some (i, e) → e.fwd = false →
    let c := evCtx e.w0
    let ends := fun (m : Mach) =>
      exec (.eventForward n) s = .next (commit s (Mach.freeSwap s.mem m c)) ∧
      (s.Quiet → (s.m.ctx c).state ≠ .armed ∨ (s.m.ctx c).swap = none → exec (.eventForward n) s = s.to m) ∧
      (∀ w, (s.m.ctx c).state = .armed → (s.m.ctx c).swap = some w → w.claiming = false → w.exchanging = false →
        m.nextArrived c = false → exec (.eventForward n) s = .next (commit s (m.exchange s.mem c w)))
    (∀ f, e.ecc = .clean → s.m.arrivalFault e = some f → ends ((s.m.unqueue n i).logEvent n e f)) ∧
    (∀ h, s.Quiet → e.ecc = .clean → s.m.arrivalFault e = none → s.m.evHome e = some h → h ≠ n →
      exec (.eventForward n) s = s.to (((s.m.unqueue n i).wakeStation h).modSt h (fun x => { x with
        evq := x.evq ++ [{ e with fwd := true }] }))) ∧
    (∀ h, e.ecc = .double → s.m.arrivalFault e = none → s.m.evHome e = some h → h ≠ n →
      ends ((s.m.unqueue n i).logv { status := .innerr, src := 2, unit := n, kind := 1, core := e.poster }))) ∧
  (∀ (s : State) (n h : Nat) (e : QEvent), n < 6 → s.Quiet → (s.m.st n).pwr = .active → (s.m.st n).evq = [e] →
    e.fwd = false → s.m.arrivalFault e = none → s.m.evHome e = some h → h ≠ n → s.m.evHeld e = false →
    (s.m.st h).evq.length < 512 → (s.m.st h).pwr ≠ .active → exec (.eventForward n) s = s.to (s.m.wakeStation h))

/-- FWD_DONE, BWD_TICK, STEP_END, MB_CANCEL: an event that passes its checks leaves the queue and has its effect. In a
RUNNING context whose home station has no task: a FWD_DONE of a cancelled slot is counted under DISCARDED and leaves no
record; a FWD_DONE with RUNLEN 0 leaves an EMPTY record whose write waits; one that makes a stash leaves its record and the
stash, which waits for its amax ring; a BWD_TICK is the last tick of its slot and starts the fetch that it makes due; an
MB_CANCEL leaves the slot cancelled and no ticket of it, on a station's cell-write path or held there. (That the FWD_DONE
of a cancelled slot is not checked by R82 and stamps no time: log entry 16; the wait for the amax ring: R253.) -/
def Obligations.EventsTaken : Prop :=
  ∀ (s : State) (n i : Nat) (e : QEvent) (g : StageEntry), n < 6 → s.m.nextEvent n = some (i, e) → e.ecc = .clean →
    s.m.arrivalFault e = none → s.m.stageOf (evCtx e.w0) (evStage e.w0) = some g → (e.fwd = true ∨ g.home = n) →
    s.m.homeFault g e = none →
    let c := evCtx e.w0
    let h := evStage e.w0
    let mb := evMb e.w0
    let x := s.m.stage c h
    let plain := (s.m.ctx c).state = .running ∧ (s.m.ctx c).replaying = false ∧ (s.m.st n).tasks = [] ∧ g.home = n
    (evKind e.w0 = 1 → s.m.fwdMore g e = none → exec (.fwdDone n) s = .next (commit s ((s.m.unqueue n i).fwdDone n e)) ∧
      (mb ∈ x.cancelled → exec (.fwdDone n) s = .next (commit s ((s.m.unqueue n i).modStage c h (fun y => { y with
        stats := { y.stats with discarded := satAdd 32 y.stats.discarded 1 } })))) ∧
      (plain → mb ∉ x.cancelled → ∀ k en, s.m.evEntry e = some (k, en) → en.disp ≠ .drop →
        (evRunLen e.w1 = 0 ∨ ((s.m.ctx c).tel.st = 0 ∧ (aget {} (s.m.ctx c).amax k).loaded = false)) → ∃ t r u,
        exec (.fwdDone n) s = .next t ∧ (t.m.stage c h).recs = x.recs ++ [r] ∧ r.ent = k ∧ r.mb = mb ∧
        r.layer = evLayer e.w0 ∧ r.tensor = evTensor e.w0 ∧ (t.m.st n).tasks = [u] ∧ u.kind = .stash ∧
        u.poster = evCore e.w1 ∧ u.sramBase = evSramBase e.w1 ∧
        (evRunLen e.w1 = 0 → r.rc.state = .empty ∧ u.ph = .recWrite ∧ ∃ a, (t.m.st n).acc = (s.m.st n).acc ++ [a] ∧
          a.write = true ∧ a.addr = s.m.recAddr c h x.recs.length ∧ a.len = 64 ∧ a.hook = .recWrite u.id) ∧
        (evRunLen e.w1 ≠ 0 → u.ph = .ring))) ∧
    (evKind e.w0 = 2 → s.m.tickFault e = none → exec (.bwdTick n) s = .next (commit s ((s.m.unqueue n i).bwdTick n e)) ∧
      (plain → ∀ ds, s.m.dueAt n c h mb (evLayer e.w0) = ds → ds.length ≤ 1 →
        (∀ d ∈ ds, x.find mb d.entry.layer d.entry.tensor = none) → ∃ t, exec (.bwdTick n) s = .next t ∧
        aget 0 (t.m.stage c h).lastTick mb = evLayer e.w0 + 1 ∧ (t.m.stage c h).recs = x.recs ∧
        (t.m.stage c h).due = x.due ++ ds.map (fun d => (mb, d.ent, d.no)) ∧
        (t.m.st n).tasks.map (fun u => (u.ph, u.mb, u.ent, u.fetchNo)) = ds.map (fun d => (.waitStash, mb, d.ent, d.no)))) ∧
    (evKind e.w0 = 3 → exec (.stepEnd n) s = .next (commit s ((s.m.unqueue n i).stepEnd n e))) ∧
    (evKind e.w0 = 4 → exec (.mbCancel n) s = .next (commit s ((s.m.unqueue n i).mbCancel n e)) ∧
      (plain → ∃ t, exec (.mbCancel n) s = .next t ∧ mb ∈ (t.m.stage c h).cancelled ∧
        (∀ k ∈ x.cancelled, k ∈ (t.m.stage c h).cancelled) ∧ (t.m.stage c h).recs = x.recs ∧ (t.m.st n).tasks = [] ∧
        let mine := fun (p : Ticket) => p.ctx == c && p.stage == h && p.mb == mb
        ∀ k, k < 6 → (t.m.st k).ticketHeld = (s.m.st k).ticketHeld.filter (fun p => !mine p.1) ∧
          (t.m.st k).cellq = (s.m.st k).cellq.filter (fun i => match i with
            | .ticket p _ => !mine p
            | _ => true)))

/-- An event with one of R29's faults is discarded by the command of its KIND and logged with the field and its value;
nothing else comes of it, but that a swap pending in an ARMED context goes when no event is left. (FOFF and VALUE: log
entries 12 and 15.) -/
def Obligations.FaultyEventsDiscarded : Prop :=
  ∀ (s : State) (n i : Nat) (e : QEvent) (g : StageEntry) (f : Nat × Nat), n < 6 →
    s.m.nextEvent n = some (i, e) → e.ecc = .clean → s.m.arrivalFault e = none →
    s.m.stageOf (evCtx e.w0) (evStage e.w0) = some g → (e.fwd = true ∨ g.home = n) → s.m.homeFault g e = some f →
    ∀ k, (k, evKind e.w0) ∈ [(Instr.fwdDone n, 1), (.bwdTick n, 2), (.stepEnd n, 3), (.mbCancel n, 4)] →
    let c := evCtx e.w0
    let m := (s.m.unqueue n i).logv {
      status := .violEvent, src := 2, unit := n, ctx := some c, foff := f.1, value := f.2, tensor := evTensor e.w0
      stage := evStage e.w0, mb := evMb e.w0, core := e.poster, layer := evLayer e.w0 }
    exec k s = .next (commit s (Mach.freeSwap s.mem m c)) ∧
    (s.Quiet → (s.m.ctx c).state ≠ .armed ∨ (s.m.ctx c).swap = none → exec k s = s.to m) ∧
    (∀ w, (s.m.ctx c).state = .armed → (s.m.ctx c).swap = some w → w.claiming = false → w.exchanging = false →
      m.nextArrived c = false → exec k s = .next (commit s (m.exchange s.mem c w)))

/-- STEP_END at a station with no task: the stage has ended, and the context is DRAINING once every stage of its plan
has. -/
def Obligations.StepEndDrains : Prop :=
  ∀ (s : State) (n i : Nat) (e : QEvent) (g : StageEntry), n < 6 → s.m.nextEvent n = some (i, e) → e.ecc = .clean →
    s.m.arrivalFault e = none → s.m.stageOf (evCtx e.w0) (evStage e.w0) = some g → (e.fwd = true ∨ g.home = n) →
    s.m.homeFault g e = none → evKind e.w0 = 3 → (s.m.st n).tasks = [] → (s.m.ctx (evCtx e.w0)).state = .running →
    ∃ t, exec (.stepEnd n) s = .next t ∧ (t.m.stage (evCtx e.w0) (evStage e.w0)).ended = true ∧
      (t.m.ctx (evCtx e.w0)).state = (if t.m.allEnded (evCtx e.w0) then .draining else .running) ∧
      (∀ h, h ≠ evStage e.w0 → t.m.stage (evCtx e.w0) h = s.m.stage (evCtx e.w0) h)

/-- EXTRA_LEAD_DECREASE: 64 fetches on time in a row lower the extra lead by 1; fewer change nothing. STALL_THRESHOLD: a
stall count that has reached a threshold other than 0 of what waits falls due; a cause that is due raises the context's
cause 2 and vector 20 + c, once. (What is left of the run of fetches above 64: log entry 19; whose thresholds bind: log
entry 116.) -/
def Obligations.LateAndStallRules : Prop :=
  (∀ (s : State) (c n tier : Nat), c < 4 → n < 6 → (tier = 1 ∨ tier = 2) → s.Quiet →
    let p := aget (0, 0) (s.m.ctx c).extra (2 * n + tier - 1)
    ∃ t, exec (.extraLeadDecrease c n tier) s = .next t ∧
      (t.m.ctx c).lead n tier = (if 64 ≤ p.2 then p.1 - 1 else p.1) ∧
      (∀ k d, k < 6 → (d = 1 ∨ d = 2) → (k ≠ n ∨ d ≠ tier) → (t.m.ctx c).lead k d = (s.m.ctx c).lead k d) ∧
      ContextBecomes s t c { s.m.ctx c with extra := (t.m.ctx c).extra }) ∧
  (∀ (m : Mach) (c g k sclk : Nat) (thrs : List Nat),
    let x := (m.addStall c g k sclk thrs).stage c g
    let y := m.stage c g
    aget 0 x.stats.stall k = satAdd 64 (aget 0 y.stats.stall k) sclk ∧ x.stallRaised = y.stallRaised ∧
    ((∃ thr ∈ thrs, thr ≠ 0 ∧ thr ≤ aget 0 x.stats.stall k) → k ∈ x.stallDue ∨ k ∈ x.stallRaised) ∧
    ((∀ thr ∈ thrs, thr = 0 ∨ aget 0 x.stats.stall k < thr) ∨ k ∈ y.stallRaised → x.stallDue = y.stallDue)) ∧
  (∀ (s : State) (c g k : Nat), c < 4 → g < 64 → k < 11 → s.Quiet →
    (k ∈ (s.m.stage c g).stallDue → exec (.stallThreshold c g k) s =
      s.to ((((s.m.modStage c g (fun y => { y with
          stallDue := y.stallDue.filter (fun j => j != k), stallRaised := y.stallRaised ++ [k] })).modCtx c
        (fun x => { x with lastCause := k, lastStage := g })).setIrq (8 * c + 2)).raiseVec (20 + c))) ∧
    (k ∉ (s.m.stage c g).stallDue → exec (.stallThreshold c g k) s = .next s))

/-! ## Steps -/

/-- STEP_BOUNDARY and ABORTING_END: the close is carried out when every stage has ended or the abort has nothing left
to wait for; otherwise the command has no effect. (In one command: the model's choice, log entry 42.) -/
def Obligations.StepsClose : Prop :=
  ∀ (s : State) (c : Nat), c < 4 → s.Quiet → s.m.shed.off = false →
    ((s.m.ctx c).state = .draining → s.m.allEnded c = true → s.m.tasksOf c = [] →
      exec (.stepBoundary c) s = .next (commit s (s.m.closeBoundary s.mem c))) ∧
    ((s.m.ctx c).state = .aborting → s.m.tasksOf c = [] → s.m.swapHolds c = false → (s.m.ctx c).exchanging = false →
      exec (.abortingEnd c) s = .next (commit s (s.m.closeAborted s.mem c))) ∧
    ((s.m.ctx c).state ≠ .draining ∨ s.m.allEnded c = false ∨ s.m.tasksOf c ≠ [] → exec (.stepBoundary c) s = .next s) ∧
    ((s.m.ctx c).state ≠ .aborting ∨ s.m.tasksOf c ≠ [] ∨ s.m.swapHolds c = true ∨
        (s.m.ctx c).exchanging = true →
      exec (.abortingEnd c) s = .next s)

/-- The boundary of an ordinary step with no swap, withdrawal or capture waiting: the step counter rises by 1, the run
data of the step is gone and the context is ARMED, or still in BOUNDARY while amax rings folded at a close are not written
(R253); the semaphores and cells are unchanged (R325). (In one command: the model's choice, log entry 42.) -/
def Obligations.BoundaryAdvances : Prop :=
  ∀ (s : State) (c : Nat), c < 4 → s.m.shed.off = false → (s.m.ctx c).state = .draining → s.m.allEnded c = true →
    s.m.tasksOf c = [] → (s.m.ctx c).replaying = false → (s.m.ctx c).swap = none → (s.m.ctx c).withdraw = none →
    (s.m.ctx c).capture = none →
    ∃ t, exec (.stepBoundary c) s = .next t ∧ (t.m.ctx c).state = (if t.m.ringsOut c then .boundary else .armed) ∧
      ((s.m.ctx c).tel.latch = none →
        ((s.m.ctx c).tel.st = 1 ∨ ∀ q ∈ (s.m.ctx c).amax, q.2.used = false ∧ q.2.rewrite = false) →
        (t.m.ctx c).state = .armed) ∧
      (t.m.ctx c).step = (s.m.ctx c).step + 1 ∧
      (t.m.ctx c).stages = [] ∧ t.m.sems = s.m.sems ∧ t.m.cells = s.m.cells

/-- The end of ABORTING of an ordinary step with no swap, withdrawal or waiting STEP_ABORT: the step counter stays,
the semaphores of the context are 0 at every station and those of the other contexts unchanged, every cell of a stage
core is 0 and the others unchanged (R325). (In one command: the model's choice, log entry 42.) -/
def Obligations.AbortClears : Prop :=
  ∀ (s : State) (c : Nat) (p : Plan), c < 4 → s.m.shed.off = false → (s.m.ctx c).state = .aborting → s.m.tasksOf c = [] →
    (s.m.ctx c).replaying = false → (s.m.ctx c).swap = none → (s.m.ctx c).withdraw = none →
    (s.m.ctx c).abortDescs = [] → s.m.plan c = some p →
    ∃ t, exec (.abortingEnd c) s = .next t ∧ (t.m.ctx c).state = .armed ∧ (t.m.ctx c).step = (s.m.ctx c).step ∧
      (∀ n i, i < 8192 → t.m.sem n i = if i / 2048 = c then 0 else s.m.sem n i) ∧
      (∀ k j, j < 32 → t.m.cell k j = if k ∈ p.allCores then {} else s.m.cell k j)

/-! ## Stream programs -/

/-- SETA loads the core and offset registers with CORE and OFF; the loop stack and all else but the engine's place stay. -/
def Obligations.SetaLoads : Prop :=
  ∀ (s : State) (n e : Nat) (g : Engine) (t : Task) (c o : Nat), n < 6 → e < 6 → s.Quiet →
    EngineReads s n e g t (.seta c o) →
    ∃ u, exec (.seta n e) s = .next u ∧ EngineBecomes s u n e { g with pc := g.pc + 1, core := c, off := o }

/-- LOOP and BATCH open a level that remembers both registers, or pass over a body that runs 0 times; BATCH closes the open
block where its first iteration begins. ENDL adds the strides and runs the body again, a BATCH's on a block of its own, or,
after the last iteration, gives both registers the values they had at the loop's entry. -/
def Obligations.LoopsIterate : Prop :=
  ∀ (s : State) (n e : Nat) (g : Engine) (t : Task) (k : Nat) (dc d : Int), n < 6 → e < 6 → s.Quiet →
    (EngineReads s n e g t (.loop k dc d) →
      ∃ u, exec (.loop n e) s = .next u ∧ EngineBecomes s u n e (if k = 0 then
          { g with pc := afterEndl (g.pc + 1) 0 ((s.m.engProg n t).drop (g.pc + 1)) }
        else { g with pc := g.pc + 1, loops := { isBatch := false, bodyPc := g.pc + 1, count := k, iter := 0, dcore := dc
                                                 doff := d, core0 := g.core, off0 := g.off } :: g.loops })) ∧
    (EngineReads s n e g t (.batch k dc d) → isStashRun t = true →
      ∃ u, exec (.batch n e) s = .next u ∧ EngineBecomes s u n e (if k = 0 then
          { g with pc := afterEndl (g.pc + 1) 0 ((s.m.engProg n t).drop (g.pc + 1)) }
        else { g with pc := g.pc + 1, reads := g.reads ++ [.close]
                      loops := { isBatch := true, bodyPc := g.pc + 1, count := k, iter := 0, dcore := dc
                                 doff := d, core0 := g.core, off0 := g.off } :: g.loops })) ∧
    (EngineReads s n e g t (.batch k dc d) → isStashRun t = false → exec (.batch n e) s =
      s.to ((if k = 0 then s.m else s.m.closeMap n e t.id).openLevel n e t true k dc d)) ∧
    (∀ (l : LoopLevel) (ls : List LoopLevel), EngineReads s n e g t .endl → g.loops = l :: ls →
      (l.iter + 1 < l.count → (l.isBatch = false ∨ isStashRun t = true) →
        ∃ u, exec (.endl n e) s = .next u ∧ EngineBecomes s u n e { g with
          pc := l.bodyPc, core := g.core + l.dcore, off := g.off + l.doff, loops := { l with iter := l.iter + 1 } :: ls
          reads := if l.isBatch then g.reads ++ [.close] else g.reads }) ∧
      (l.iter + 1 < l.count → l.isBatch = true → isStashRun t = false →
        exec (.endl n e) s = s.to ((s.m.closeMap n e t.id).modEng n e (fun g => { g with
          pc := l.bodyPc, core := g.core + l.dcore, off := g.off + l.doff, loops := { l with iter := l.iter + 1 } :: ls }))) ∧
      (l.count ≤ l.iter + 1 →
        ∃ u, exec (.endl n e) s = .next u ∧ EngineBecomes s u n e { g with
          pc := g.pc + 1, core := l.core0, off := l.off0, loops := ls }))

/-- SKIPLEN trims its loop to the run's iterations; a loop trimmed to 0 iterations is left with both registers as they
were at its entry. -/
def Obligations.SkiplenTrims : Prop :=
  ∀ (s : State) (n e : Nat) (g : Engine) (t : Task) (k : Nat) (l : LoopLevel) (ls : List LoopLevel), n < 6 → e < 6 →
    s.Quiet → EngineReads s n e g t (.skiplen k) → g.loops = l :: ls →
    let count := match t.iters with
      | some j => min l.count j
      | none => l.count
    ∃ u, exec (.skiplen n e) s = .next u ∧ EngineBecomes s u n e (if count = 0 then
        { g with pc := afterEndl (g.pc + 1) 0 ((s.m.engProg n t).drop (g.pc + 1)), core := l.core0, off := l.off0, loops := ls }
      else { g with pc := g.pc + 1, loops := { l with count, bodyPc := g.pc + 1 } :: ls })

/-- EMIT at byte SRAMBASE + 16 × offset of core FIRSTCORE + core register: a stash run reads the tile, LINEAR as one
run of N units, ROWS as N rows of 32 B or 64 B with their pitch, the pad lane where the core's width is 15; a fetch
run maps its bytes. -/
def Obligations.EmitAppends : Prop :=
  ∀ (s : State) (n e : Nat) (g : Engine) (t : Task) (i : Ins) (sg : StageEntry) (p : Plan), n < 6 → e < 6 → s.Quiet →
    EngineReads s n e g t i → s.m.stageOf t.ctx t.stage = some sg → s.m.plan t.ctx = some p →
    let core := (g.core + sg.firstCore).toNat
    let off := t.sramBase + (16 * g.off).toNat
    let reads := fun (item : StreamItem) => ∃ u, exec (.emit n e) s = .next u ∧
      u.m.eng n e = { g with pc := g.pc + 1, reads := g.reads ++ [item] } ∧
      (∀ k, k ≠ e → u.m.eng n k = s.m.eng n k) ∧
      u.m.task n t.id =
        some { t with readCores := if t.readCores.contains core then t.readCores else t.readCores ++ [core] } ∧
      (∀ k, k ≠ t.id → u.m.task n k = s.m.task n k) ∧
      (∀ k, k ≠ n → u.m.st k = s.m.st k) ∧ { u with m := { u.m with sts := s.m.sts } } = s
    let maps := fun (b : Nat) => exec (.emit n e) s =
      s.to ((s.m.mapBytes n e t.id core (2 * (b / 4096) + 4) b).modEng n e (fun g => { g with pc := g.pc + 1 }))
    (∀ len, i = .linear len →
      (isStashRun t = true → reads (.tile core off 1 len 0 false)) ∧ (isStashRun t = false → maps (16 * len))) ∧
    (∀ cols pitch rows, i = .rows cols pitch rows →
      (isStashRun t = true → reads (.tile core off rows t.entry.src.bytes pitch (p.width core == 15))) ∧
      (isStashRun t = false → maps (rows * 16 * t.entry.src.bytes)))

/-- WAIT of a stash run on a semaphore takes 1 of it and passes, or waits behind the engines that wait already; WAIT
for reads holds the engine while a read of the run is outstanding. A fetch run passes over both. -/
def Obligations.WaitsActInStashRuns : Prop :=
  ∀ (s : State) (n e : Nat) (g : Engine) (t : Task) (i : Nat), n < 6 → e < 6 → s.Quiet →
    let pass := fun (c : Instr) => ∃ u, exec c s = .next u ∧ EngineBecomes s u n e { g with pc := g.pc + 1 }
    (EngineReads s n e g t (.waitSem i) →
      (isStashRun t = false → pass (.waitSemaphore n e)) ∧
      (isStashRun t = true → 0 < s.m.sem n i →
        exec (.waitSemaphore n e) s =
          s.to ((s.m.setSem n i (s.m.sem n i - 1)).modEng n e (fun g => { g with pc := g.pc + 1 }))) ∧
      (isStashRun t = true → s.m.sem n i = 0 → ∃ u, exec (.waitSemaphore n e) s = .next u ∧
        u.m.eng n e = { g with waiting := some i, waitOrder := (s.m.st n).waitSeq } ∧
        (u.m.st n).waitSeq = (s.m.st n).waitSeq + 1 ∧ (∀ k, k ≠ e → u.m.eng n k = s.m.eng n k) ∧
        { u with m := { u.m with sts := s.m.sts } } = s)) ∧
    (EngineReads s n e g t .waitDrain →
      (isStashRun t = false ∨ hasTile g.reads = false → pass (.waitDrain n e)) ∧
      (isStashRun t = true → hasTile g.reads = true →
        ∃ u, exec (.waitDrain n e) s = .next u ∧ EngineBecomes s u n e { g with draining := true }))

/-- ENGINE_DISPATCH gives the next waiting task its engine, at the start of its program. END ends the run: of a stash
once the reads and closes before it are done, of any other task at once. LAND gives the task its landing frames. An
instruction whose word has a double-bit error fails the task that reads it (R395). (Which tasks of one class go first: log
entry 112; when a word is read: log entry 118.) -/
def Obligations.RunsBeginAndEnd : Prop :=
  (∀ (s : State) (n e : Nat) (t : Task), n < 6 → e < 6 →
    (s.Quiet → (s.m.st n).nextRun = some (t, e) → exec (.engineDispatch n) s =
      s.to ((s.m.modSt n (fun x => { x with engines := aset {} x.engines e { task := some t.id } })).modTask n t.id
        (fun t => { t with eng := some e, ph := .run }))) ∧
    (∀ g, EngineReads s n e g t .fin →
      (isStashRun t = true → exec (.fin n e) s = .next (commit s (((s.m.modEng n e
        (fun g => { g with reads := g.reads ++ [.last], done := true })).runCloses n e (g.reads.length + 1)).advanceDemote n t.id))) ∧
      (isStashRun t = false → exec (.fin n e) s = .next (commit s ((((s.m.closeMap n e t.id).modSt n
        (fun x => { x with engines := aset {} x.engines e {} })).modTask n t.id
        (fun t => { t with eng := none, allClosed := true, ph := if t.ph == .run then .move else t.ph })).advanceDemote n t.id))))) ∧
  (∀ (s : State) (n e : Nat) (g : Engine) (t : Task) (nf lo : Nat), n < 6 → e < 6 → s.Quiet →
    EngineReads s n e g t (.land nf lo) →
    exec (.land n e) s =
      s.to ((s.m.modEng n e (fun g => { g with pc := g.pc + 1, landed := true })).modTask n t.id
        (fun t => { t with nframes := nf, landoff := lo }))) ∧
  (∀ (s : State) (n e : Nat) (g : Engine) (t : Task) (i : Ins) (c : Instr), n < 6 → e < 6 → s.m.engAt n e = some (g, t, i) →
    aget .clean (s.m.st n).progEcc (progWord t.ctx t.prog g.pc) = .double →
    (c, i.form) ∈ [(Instr.seta n e, 2), (.loop n e, 3), (.batch n e, 4), (.endl n e, 5), (.skiplen n e, 6), (.emit n e, 7),
      (.waitSemaphore n e, 8), (.waitDrain n e, 0x18), (.fin n e, 15), (.land n e, 1)] →
    exec c s = .next (commit s (s.m.failInn n t 0)))

/-! ## Tasks and storage -/

/-- ROOM_TAKE: the stash that waits longest takes one room of its context's budget, a fetch or a demotion one that its ring
allows, and its reads go on; else nothing happens. CELLAR_CHUNK_TAKE: the chain of the first task that waits for slots
gains the lowest free chunk where R43 allows it. DEMOTE_CHUNK: while demotion is on and no chunk of the context is being
demoted, the stage with the largest excess over its reserve, of those that can give their bottom chunk, begins it.
DEFERRED_FETCH_ISSUE: a fetch behind no other goes on with its record, or waits for its stash; in a replay step its part goes
on. LANE_BLOCK_DONE: the lane's
block is coded and stored, the lane takes the next. (The worst case of rooms, the room at a time: log entries 52 and 57.) -/
def Obligations.TasksMoveOn : Prop :=
  (∀ (s : State) (n id : Nat) (t : Task), n < 6 → s.m.task n id = some t →
    (t.kind = .stash → s.Quiet →
      let turn := ((s.m.st n).tasks.find? (fun u => u.ctx == t.ctx && u.kind == .stash && u.ph == .rooms)).map (fun u => u.id) =
        some t.id ∧ t.ph = .rooms ∧ (s.m.st n).roomsUsed t.ctx false < s.m.srooms t.ctx n
      (turn → exec (.roomTake n id) s = s.to (s.m.modTask n id (fun t => { t with
        rooms := t.rooms + 1, ph := if t.roomNeed ≤ t.rooms + 1 then .engine else .rooms }))) ∧
      (¬turn → exec (.roomTake n id) s = .next s)) ∧
    (t.kind = .fetch →
      (s.Quiet → t.wantsRoom = false ∨ s.m.fetchRoomFree n t = false → exec (.roomTake n id) s = .next s) ∧
      (t.wantsRoom = true → s.m.fetchRoomFree n t = true → exec (.roomTake n id) s = .next (commit s (s.m.takeFetchRoom n id)) ∧
        ((t.farReads = true → (s.m.ctx t.ctx).farLost = false) →
          (∀ i, i < t.slotsNeeded → ∃ q, s.m.readAt n t i = some q ∧ q.2 ≠ 0) → ∃ u v, exec (.roomTake n id) s = .next u ∧
          u.m.task n id = some v ∧ v.rooms = t.rooms + 1 ∧ v.paused = decide (t.entry.ringDepth ≤ t.roomsHeld + 1) ∧
          { v with rooms := t.rooms, paused := t.paused, slotsIssued := t.slotsIssued } = t ∧
          (t.slotsNeeded = 0 → v.slotsIssued = t.slotsIssued) ∧
          (0 < t.slotsNeeded → v.slotsIssued = max t.slotsIssued (min t.slotsNeeded t.takeRoom.readLimit))))) ∧
    (t.kind = .demote →
      let free := 16 * t.rooms < t.slotsNeeded ∧ t.pendDone = true ∧ (t.ph = .engine ∨ t.ph = .run ∨ t.ph = .move) ∧
        t.roomsUnsent < 2 ∧ (s.m.st n).roomsUsed t.ctx false < s.m.srooms t.ctx n
      (s.Quiet → ¬free → exec (.roomTake n id) s = .next s) ∧
      (free → exec (.roomTake n id) s = .next (commit s (s.m.takeDemoteRoom n t)) ∧
        ((∀ i, i < t.slotsNeeded → (s.m.readAt n t i).isSome = true) → t.slotsIssued = min t.slotsNeeded (16 * t.rooms) →
          ∃ u, exec (.roomTake n id) s = .next u ∧ u.m.task n id =
            some { t with rooms := t.rooms + 1, slotsIssued := min t.slotsNeeded (16 * (t.rooms + 1)) }))) ∧
    (∀ u ch, ((s.m.slotWaiters n t.ctx t.stage).head?).map (fun u => u.id) = some id →
      let m := s.m.reserveAll n t.ctx t.stage
      m.task n id = some u → u.waitsSlots = true → m.mayTakeChunk u.ctx u.stage (m.isFallback u) = true →
      m.lowestFree u.ctx = some ch →
      exec (.cellarChunkTake n id) s = .next (commit s (((m.modStage u.ctx u.stage (fun x => { x with
        chain := x.chain ++ [ch] })).demoteMarks u.ctx).reserveAll n u.ctx u.stage)) ∧
      ((∀ w ∈ (s.m.st n).tasks, w.ecc = .clean) → ∃ v, exec (.cellarChunkTake n id) s = .next v ∧
        (v.m.stage u.ctx u.stage).chain = (s.m.stage u.ctx u.stage).chain ++ [ch])) ∧
    ((t.kind = .fetch ∨ t.kind = .dropFetch) → t.ph = .waitPrev → t.replayIx ≠ 0 → (s.m.st n).behind t = false →
      exec (.deferredFetchIssue n id) s =
        .next (commit s (s.m.replayStart n t.ctx ((aget [] (s.m.ctx t.ctx).reserve.items n).length + 1)))) ∧
    ((t.kind = .fetch ∨ t.kind = .dropFetch) → t.ph = .waitPrev → t.replayIx = 0 → (s.m.st n).behind t = false →
      exec (.deferredFetchIssue n id) s = .next (commit s (s.m.issueFetch n id)) ∧
      ∀ k r, (s.m.stage t.ctx t.stage).find t.mb t.layer t.tensor = some (k, r) → r.lost = none →
        (s.Quiet → r.stashing = true → exec (.deferredFetchIssue n id) s =
          s.to (s.m.modTask n id (fun _ => { t with fill := some k, ph := .waitStash }))) ∧
        (r.stashing = false → (s.m.st n).demotionOf t.ctx t.stage k = none → s.m.capturing t.ctx = false →
          Config.cacheHolds s.m.freeNo = false → ∃ u a, exec (.deferredFetchIssue n id) s = .next u ∧
          u.m.task n id = some { t with fill := some k, ph := .recRead } ∧
          u.m.recInfo t.ctx t.stage k = some { r with fetched := true } ∧ (u.m.st n).acc = (s.m.st n).acc ++ [a] ∧
          a.addr = s.m.recAddr t.ctx t.stage k ∧ a.len = 64 ∧ a.write = false ∧ a.cls = t.cls ∧ a.hook = .recRead id))) ∧
  ((∀ (s : State) (c : Nat) (e : StageEntry) (p : Plan), c < 4 → let m := s.m.demoteMarks c
    (m.ctx c).demoteOn = true → (m.ctx c).stages.any (fun p => p.2.demoteChunk) = false → m.level < 2 →
    ((m.ctx c).state = .running ∨ (m.ctx c).state = .draining) → m.demoteStage c = some e → m.plan c = some p →
    let gives := fun (e : StageEntry) => e.reserve < (m.stage c e.stage).chain.length ∧ (m.demoteTier c e).isSome = true ∧
      ∀ q, (m.stage c e.stage).bottom.head? = some q → m.undemotable c e.stage q.2 = false
    let excess := fun (e : StageEntry) => (m.stage c e.stage).chain.length - e.reserve
    exec (.demoteChunk c) s =
      .next (commit s ((m.modStage c e.stage (fun x => { x with demoteChunk := true })).demoteNext c e.stage)) ∧
    e ∈ p.stages ∧ gives e ∧ ∀ d ∈ p.stages, gives d → excess d < excess e ∨ (excess d = excess e ∧ e.stage ≤ d.stage)) ∧
  (∀ (s : State) (n lane : Nat) (j : LaneJob) (t : Task) (b : Blk), n < 6 → lane < 16 →
    aget none (s.m.st n).lanes lane = some j → s.m.task n j.task = some t → t.blks[j.blk]? = some b →
    s.m.outWaits n j.task .husk = false → (j.demote = false ∨ t.ecc = .clean) →
    let r := huskEncode (if j.demote then { t.entry with disp := .keep } else t.entry) t.scale t.seed t.acorn t.stage t.mb
      j.blk b.raw
    let m := (s.m.modSt n (fun x => { x with lanes := aset none x.lanes lane none })).setBlk n j.task j.blk
      (fun b => { b with stored := r.1, raw := [], st := .ready })
    exec (.laneBlockDone n lane) s = .next (commit s
      (((if r.2.isEmpty then m else m.observe n j.task 0 lane j.blk r.2).advance n j.task).fillLanes n 16))))

/-! ## Transfers -/

/-- TRANSFER_ISSUE on a share of HBM traffic: the access chosen is outstanding, marked urgent where it is a class 0 read, it
has spent its tokens, and waits no more; a station record is made from the station's counters as it goes out. (How the
shares of classes 1 and 2 are counted: log entry 56; the turns of a channel: log entry 93.) -/
def Obligations.TransferIssued : Prop :=
  ∀ (s : State) (n share : Nat) (a : Access), n < 6 → share < 3 → s.Quiet → (s.m.st n).pwr = .active →
    s.m.choose n share = some a → a.share = share → 6 * a.cost ≤ (s.m.st n).tok share →
    a.posted = false → (∀ t b, a.hook ≠ .putSend t b ∧ a.hook ≠ .farSend t b) → (∀ t b, a.hook ≠ .peerAsk t b) →
    ∃ t o, exec (.transferIssue n share) s = .next t ∧
      (t.m.st n).outst = (s.m.st n).outst ++ [o] ∧ o = { a with urgent := a.cls == 0 && !a.write, data := o.data } ∧
      ((∀ c, a.hook ≠ .telStation c) → o.data = a.data) ∧
      (∀ c, a.hook = .telStation c → o.data = placed a.addr (stationRecBytes (s.m.st n) s.m.aclk)) ∧
      (t.m.st n).acc = (s.m.st n).acc.filter (fun b => b.id != a.id) ∧
      (t.m.st n).tok share = (s.m.st n).tok share - 6 * a.cost ∧
      { t.m.st n with outst := (s.m.st n).outst, acc := (s.m.st n).acc, tokens := (s.m.st n).tokens
                      clsTokens := (s.m.st n).clsTokens, wrr := (s.m.st n).wrr, ctxTurn := (s.m.st n).ctxTurn
                      chanTurn := (s.m.st n).chanTurn } = s.m.st n ∧
      (∀ k, k ≠ n → t.m.st k = s.m.st k) ∧ { t with m := { t.m with sts := s.m.sts } } = s

/-- TRANSFER_ISSUE on the links and CXL: the access chosen is outstanding and waits no more, its context and its task have
had their turn, and it goes out: a PUT, the host lines of a far block, the request of a peer fetch, a far read, the
read-back of a far write, or the host lines or read of a descriptor transfer or a capture. LINK_LAYER_ACCEPTANCE frees the
slot of a send that its link or the CXL port has taken; a LODGE or FAR stash writes its PENDING record once the last of
its blocks has gone out. (The turns of a channel: log entry 93; the slot of a request: log entry 92; the port of a
transfer's lines: log entry 120.) -/
def Obligations.SendsGoOut : Prop :=
  (∀ (s : State) (n : Nat) (a : Access), n < 6 →
    (s.m.st n).pwr = .active → s.m.choose n 3 = some a → a.share = 3 → a.posted = false →
    let m := (s.m.modSt n (fun x => { x with ctxTurn := aset 0 x.ctxTurn (12 + a.cls) (a.ctx + 1) })).modSt n (fun x =>
      { x with
        acc := x.acc.filter (fun b => b.id != a.id), outst := x.outst ++ [{ a with urgent := false }]
        chanTurn := if a.chan < 8 then aset 0 x.chanTurn (16 * a.chan + (12 + a.cls)) a.taskKey else x.chanTurn })
    let clean := fun (t : Nat) => ∀ u, s.m.task n t = some u → u.ecc = .clean
    let goes := fun (m : Mach) => exec (.transferIssue n 3) s = .next (commit s m)
    let lines := fun (use : HostUse) => goes (overList (fun (m : Mach) (q : Nat × List Byte) => m.hostWrite 0 use q.1 q.2 false) m
      (hostLines a.addr (a.data.map (fun q => q.2))))
    (∀ t b, a.hook = .putSend t b → clean t → goes (m.sendPut n t b)) ∧
    (∀ t b, a.hook = .farSend t b → clean t → goes (m.sendFar n t b)) ∧
    (∀ t f, a.hook = .peerAsk t f → goes (m.askPeer n t f)) ∧
    (∀ t i, a.hook = .slotRead t i → goes (m.hostRead (n % 2) (.farRead n t i) a.addr a.len false)) ∧
    (∀ t, a.hook = .farBack t → goes (m.hostRead (n % 2) (.farBack n t) a.addr a.len false)) ∧
    (∀ r p o d, a.hook = .xferRead r p o d → goes (m.hostRead 0 (.xferRead r p o d) a.addr a.len false)) ∧
    (∀ r p, a.hook = .xferBack r p → goes (m.hostRead 0 (.xferBack r p) a.addr a.len false)) ∧
    (∀ c, a.hook = .ckptBack c → goes (m.hostRead 0 (.ckptBack c) a.addr a.len false)) ∧
    (∀ r p o, a.hook = .xferWrite r p o → lines (.xferLine r p o)) ∧
    (∀ c, a.hook = .ckptWrite c → lines (.ckptLine c a.id))) ∧
  (∀ (s : State) (n : Nat) (a : Access), n < 6 → s.Quiet → (s.m.st n).outst.find? (fun b => b.id == a.id) = some a →
    (∃ t b, a.hook = .putSend t b ∨ a.hook = .farSend t b) →
    let free := { s.m.st n with outst := (s.m.st n).outst.filter (fun b => b.id != a.id) }
    let out := (∀ t b, a.hook = .putSend t b → ∀ r ∈ s.m.lodge.reqs,
        r.use = .put n t b ∨ (∃ c o, r.use = .putOld c o n t b) → r.sent = true) ∧
      (∀ t b, a.hook = .farSend t b → ∀ o ∈ s.m.hs.ops, o.use = .farLine n t → o.issued = true)
    (¬out → exec (.linkLayerAcceptance n a.id) s = .next s) ∧
    (out → s.m.task n a.owner = none → ∃ t, exec (.linkLayerAcceptance n a.id) s = .next t ∧ StationBecomes s t n free) ∧
    (∀ t, out → s.m.task n a.owner = some t → t.ph ≠ .fail →
      let whole := t.kind = .stash ∧ (t.path = .peer ∨ t.path = .far) ∧ (t.ph = .move ∨ t.ph = .run) ∧ t.allCoded = true ∧
        t.blks ≠ [] ∧ t.sendsQueued = t.blks.length ∧ Station.sending free t.id = false
      (¬whole → ∃ u, exec (.linkLayerAcceptance n a.id) s = .next u ∧ StationBecomes s u n free) ∧
      (∀ k, whole → t.fill = some k → ∃ u b, exec (.linkLayerAcceptance n a.id) s = .next u ∧
        u.m.task n t.id = some { t with ph := .recWrite, rooms := min t.rooms (packRooms (t.blks.map Blk.sealedLen)).1 } ∧
        (u.m.st n).outst = free.outst ∧ (u.m.st n).acc = (s.m.st n).acc ++ [b] ∧ b.hook = .recWrite t.id ∧ b.write = true ∧
        b.addr = s.m.recAddr t.ctx t.stage k ∧ b.data = placed b.addr (recBytes (s.m.tierRec t .pending)))))

/-- HBM_WRITE_RESPONSE without error for a write of metadata: its bytes are in memory, every byte at another address
is as before, and the access is outstanding no more. (That bytes reach memory with the response: log entry 49; where
core SRAM stands in the address space: log entry 85.) -/
def Obligations.HbmWriteStores : Prop :=
  ∀ (s : State) (n id : Nat) (a : Access), n < 6 → s.Quiet → s.m.hbmAcc n id true = some a → s.m.absent n id true false = false →
    a.hook = .plain → a.chan ≠ 7 → s.m.task n a.owner = none → (∀ p ∈ a.data, fabExists p.1 = true) →
    ∃ t, exec (.hbmWriteResponse n id false) s = .next t ∧
      t.m.st n = { s.m.st n with outst := (s.m.st n).outst.filter (fun b => b.id != id) } ∧
      (∀ k, k ≠ n → t.m.st k = s.m.st k) ∧ { t.m with sts := s.m.sts } = s.m ∧ t.mem.host = s.mem.host ∧
      (∀ x, (∀ p ∈ a.data, p.1 ≠ x ∨ (Config.sramOfFabric x).isSome = true) → memRead t.mem.fab x = memRead s.mem.fab x) ∧
      (∀ x, (∀ p ∈ a.data, Config.sramOfFabric p.1 ≠ some x) → memRead t.mem.sram x = memRead s.mem.sram x) ∧
      t.mem.fab = memWrites s.mem.fab (a.data.filter (fun p => (Config.sramOfFabric p.1).isNone))

/-- HBM_WRITE_RESPONSE and HBM_READ_RETURN: the access is answered, what it belongs to takes the answer, and a task that is
over goes with its last access. A stash's slot that is written is counted, a guest's block whose last write is answered is
acknowledged by PUT_ACK, and what a local COPY has read is written to its target. An answer without error for bytes that no
HBM holds stops the machine (R157 gives no outcome; log entry 8). (An erroneous write leaves free values: log entry 7.) -/
def Obligations.HbmAnswers : Prop :=
  (∀ (s : State) (n id : Nat) (a : Access) (err : Bool), n < 6 → (s.m.st n).behindPosted a = false →
    (s.m.hbmAcc n id true = some a → s.m.absent n id true err = false →
      ∃ m, m = (((s.m.dropAcc n id).writeFab (a.data.filter (fun p => fabExists p.1)) err).writeAnswered s.mem n a err).reap
          n a.owner ∧
        exec (.hbmWriteResponse n id err) s = .next (commit s (if a.chan = 7 then (m.finishXfers n).endCuts s.mem n else m))) ∧
    (s.m.hbmAcc n id false = some a → s.m.absent n id false err = false →
      ∃ m, m = ((s.m.dropAcc n id).readAnswered s.mem n a err).reap n a.owner ∧
        exec (.hbmReadReturn n id err) s = .next (commit s (if a.chan = 7 then m.endCuts s.mem n else m)))) ∧
  (∀ (s : State) (n id : Nat) (a : Access), n < 6 → (s.m.st n).behindPosted a = false → s.m.hbmAcc n id true = some a →
    s.m.absent n id true false = false → a.chan ≠ 7 →
    let m := (s.m.dropAcc n id).writeFab (a.data.filter (fun p => fabExists p.1)) false
    (∀ k i t, a.hook = .slotWrite k i → a.owner = k → s.m.task n k = some t → t.ph ≠ .fail → t.slotsDone + 1 ≠ t.slotsIssued →
      exec (.hbmWriteResponse n id false) s =
        .next (commit s (m.modTask n k (fun t => { t with slotsDone := t.slotsDone + 1 })))) ∧
    (∀ p q, a.hook = .guestWrite p → s.m.task n a.owner = none →
      s.m.lodge.puts.find? (fun x => x.id == p && agentOf x.link == n) = some q →
      (∀ b ∈ (s.m.st n).acc, b.hook ≠ .guestWrite p) → (∀ b ∈ (s.m.st n).outst, b.hook = .guestWrite p → b.id = id) →
      ∃ u, exec (.hbmWriteResponse n id false) s = .next u ∧
        u.m.lodge.puts = s.m.lodge.puts.filter (fun x => !(x.id == p && agentOf x.link == n)) ∧
        (u.m.link q.link).tx = (s.m.link q.link).tx ++ [{
          msg := mkMsg 5 q.cls s.m.devid q.dev q.ctx q.claim (BitVec.ofNat 64 q.ledger) (word [(q.blk, 0), (b2n q.fin, 63)])
            (BitVec.ofNat 64 (if q.fin then q.loc else 0)) []
          cls := q.cls }] ∧
        (∀ l, l ≠ q.link → u.m.link l = s.m.link l))) ∧
  (∀ (s : State) (n id : Nat) (a : Access) (r p o : Nat) (x : Xfer), n < 6 → (s.m.st n).behindPosted a = false →
    s.m.hbmAcc n id false = some a → s.m.absent n id false false = false → a.hook = .xferRead r p o false →
    s.m.xfer r p = some x → x.mode = .copy → x.dstHost = false → s.m.task n a.owner = none →
    (s.m.st n).cuts = [] →
    ∃ u, exec (.hbmReadReturn n id false) s = .next u ∧ (u.m.st x.st).acc = (s.m.st x.st).acc ++ [{
      id := (s.m.st x.st).nextId, share := 1, cls := x.cls, ctx := x.desc.ring / 4, chan := 7, cost := fabCost (x.dst + o)
      addr := x.dst + o, len := a.len, data := placed (x.dst + o) (fabReads s.mem a.addr a.len), write := true
      posted := x.posted, hook := .xferWrite x.desc.ring x.desc.pos o }]) ∧
  (∀ (s : State) (n id : Nat) (a : Access) (b : Nat), n < 6 → b < a.len → fabExists (a.addr + b) = false →
    (s.m.hbmAcc n id true = some a → exec (.hbmWriteResponse n id false) s = .fault .hbmAbsent) ∧
    (s.m.hbmAcc n id false = some a → exec (.hbmReadReturn n id false) s = .fault .hbmAbsent))

/-- CORE_SRAM_READ_RETURN: the bytes of the tile join the open block of their core while it has room, and of an
erroneous read the stash fails with RDERR. DELIVERY_BLOCK_WRITE: the block that is next is written to its frame in core
SRAM, a raw one behind a header, and every other byte is as before; its core has its note before its first block; the
fetch goes on with its next block. One bad bit of its Inn word is corrected and logged, two fail the fetch with INNERR. -/
def Obligations.DataMoves : Prop :=
  (∀ (s : State) (n e core off rows ru pitch : Nat) (pad : Bool) (t : Task) (r : List StreamItem), n < 6 → e < 6 →
    (s.m.eng n e).task.bind (s.m.task n) = some t → (s.m.eng n e).reads = .tile core off rows ru pitch pad :: r →
    let l := tileData s.mem.sram core off rows ru pitch pad
    (s.Quiet → r = [] → (s.m.eng n e).draining = false → (s.m.eng n e).openCore = some core →
      (s.m.eng n e).openLen + l.length < 4096 → l ≠ [] → s.m.outWaits n t.id .raw = false →
      ∃ u, exec (.coreSramReadReturn n e false) s = .next u ∧ EngineBecomes s u n e { s.m.eng n e with
        reads := [], openBytes := (s.m.eng n e).openBytes ++ l, openLen := (s.m.eng n e).openLen + l.length }) ∧
    exec (.coreSramReadReturn n e true) s =
      .next (commit s ((s.m.modEng n e (fun g => { g with reads := r })).failSend n t .rderr))) ∧
  (∀ (s : State) (n : Nat) (t : Task), n < 6 → (s.m.st n).pwr = .active → (s.m.st n).nextDelivery = some t →
    s.m.task n t.id = some t →
    (t.ecc = .double → ∀ k, k < 3 →
      exec (.deliveryBlockWrite n k) s = .next (commit s (s.m.failFetch n t .innerr 1 t.delivered))) ∧
    (t.ecc = .clean → exec (.deliveryBlockWrite n 0) s = .next (commit s (s.m.deliverBlock n t)) ∧
    (∀ g p b data, s.Quiet → s.m.stageOf t.ctx t.stage = some g → s.m.plan t.ctx = some p →
      t.blks[t.delivered]? = some b → t.got[t.delivered]? = some data → t.delivered + 1 < t.nexp →
      let frame := if t.rc.isRaw then synthFrame t.entry t.stage t.mb b.ix data else data
      let a := sramAddr b.core (16 * (p.progLand g.home t.prog).2 + 4128 *
        ((t.blks.filter (fun x => x.core == b.core)).filter (fun x => decide (x.ix < b.ix))).length)
      ∃ u v, exec (.deliveryBlockWrite n 0) s = .next u ∧
        (∀ i, i < frame.length → memRead u.mem.sram (a + i) = (frame[i]?).getD 0) ∧
        (∀ x, (∀ i, i < frame.length → x ≠ a + i) → memRead u.mem.sram x = memRead s.mem.sram x) ∧
        u.mem.fab = s.mem.fab ∧ u.mem.host = s.mem.host ∧
        u.m.task n t.id = some v ∧ v.delivered = t.delivered + 1 ∧ b.core ∈ v.noted ∧ v.got = t.got ∧
        (b.core ∈ t.noted → u.m.notes = s.m.notes) ∧
        (b.core ∉ t.noted → (aget {} u.m.notes b.core).seq = ((aget {} s.m.notes b.core).seq + 1) % 2 ^ 32) ∧
        (∀ k, k ≠ b.core → aget {} u.m.notes k = aget {} s.m.notes k)) ∧
    exec (.deliveryBlockWrite n 1) s = .next (commit s ((s.m.logTask n t .innerr 0 t.delivered (s.m.ledgerOf t)).deliverBlock n t)) ∧
    exec (.deliveryBlockWrite n 2) s = .next (commit s (s.m.failFetch n t .innerr 1 t.delivered))))

/-! ## Synchronisation -/

/-- SIGNAL adds N to the semaphore; with N 0 nothing but the stations' idle times changes and nothing is logged; nobody
waiting, the signal is kept in the count, and two signals of 1 that arrive before either is consumed leave a count of 2. -/
def Obligations.SignalAdds : Prop :=
  (∀ (s : State) (core : Nat) (w0 w1 : W64), SemReady s core w0 w1 → soOp w0 = 1 → s.m.semFault core w0 w1 = none →
    s.m.firstWaiter (soStation w0) (soSem w0) = none → s.m.sem (soStation w0) (soSem w0) + soN w0 ≤ 65535 →
    exec (.signal core w0 w1) s =
      s.to ((s.m.reached core w0).setSem (soStation w0) (soSem w0) (s.m.sem (soStation w0) (soSem w0) + soN w0)) ∧
    (soN w0 = 0 → ∃ t, exec (.signal core w0 w1) s = .next t ∧ (∀ m j, t.m.sem m j = s.m.sem m j) ∧
      { t with m := { t.m with sems := s.m.sems } } = { s with m := s.m.reached core w0 })) ∧
  (∀ (s : State) (core other : Nat) (w0 w1 v0 v1 : W64), SemReady s core w0 w1 → SemReady s other v0 v1 →
    soOp w0 = 1 → soOp v0 = 1 → s.m.semFault core w0 w1 = none → s.m.semFault other v0 v1 = none →
    soStation v0 = soStation w0 → soSem v0 = soSem w0 → soN w0 = 1 → soN v0 = 1 →
    s.m.firstWaiter (soStation w0) (soSem w0) = none → s.m.sem (soStation w0) (soSem w0) = 0 →
    ∃ t u, exec (.signal core w0 w1) s = .next t ∧ exec (.signal other v0 v1) t = .next u ∧
      u.m.sem (soStation w0) (soSem w0) = 2 ∧ (∀ m j, 8192 * m + j ≠ 8192 * soStation w0 + soSem w0 →
        u.m.sem m j = s.m.sem m j) ∧
      { u with m := { u.m with sems := s.m.sems } } = { s with m := (s.m.reached core w0).reached other v0 })

/-- A SIGNAL of N wakes up to N of the engines that wait on its semaphore, those whose waits began first, and leaves
the remainder in the count. -/
def Obligations.SignalWakes : Prop :=
  ∀ (s : State) (core : Nat) (w0 w1 : W64), SemReady s core w0 w1 → soOp w0 = 1 → s.m.semFault core w0 w1 = none →
    let n := soStation w0
    let i := soSem w0
    let r := s.m.reached core w0
    let ws := fun (m : Mach) => (List.range 6).filter (fun e => (m.eng n e).waiting == some i)
    s.m.sem n i = 0 →
    ∃ t, exec (.signal core w0 w1) s = .next t ∧
      t.m.sem n i = soN w0 - (ws s.m).length ∧ (ws t.m).length = (ws s.m).length - soN w0 ∧
      (∀ a b, a ∈ ws s.m → a ∉ ws t.m → b ∈ ws t.m → (s.m.eng n a).waitOrder ≤ (s.m.eng n b).waitOrder) ∧
      (∀ e, e ∈ ws s.m → e ∉ ws t.m → t.m.eng n e = { s.m.eng n e with waiting := none, pc := (s.m.eng n e).pc + 1 }) ∧
      (∀ e, e ∉ ws s.m ∨ e ∈ ws t.m → t.m.eng n e = s.m.eng n e) ∧
      { t.m.st n with engines := (s.m.st n).engines } = r.st n ∧ (∀ k, k ≠ n → t.m.st k = r.st k) ∧
      (∀ m j, 8192 * m + j ≠ 8192 * n + i → t.m.sem m j = s.m.sem m j) ∧
      { t with m := { t.m with sts := s.m.sts, sems := s.m.sems } } = s

/-- ARRIVE adds N; below THRESH the sum is the count, else THRESH is subtracted as often as it goes and each time one
release joins the station's cell-write path: +1 for cell CELL of every core from TCORE on, in ascending order. -/
def Obligations.ArriveReleases : Prop :=
  ∀ (s : State) (core : Nat) (w0 w1 : W64), SemReady s core w0 w1 → soOp w0 = 2 → s.m.semFault core w0 w1 = none →
    let n := soStation w0
    let v := s.m.sem n (soSem w0) + soN w0
    let release := (List.range (soTcount w1)).map (fun j => CellItem.add (soTcore w1 + j) (soCell w0) 1 n)
    s.m.firstWaiter n (soSem w0) = none → v ≤ 65535 →
    ∃ t, exec (.arrive core w0 w1) s = .next t ∧ t.m.sem n (soSem w0) = v % soThresh w1 ∧
      (∀ m j, 8192 * m + j ≠ 8192 * n + soSem w0 → t.m.sem m j = s.m.sem m j) ∧
      t.m.st n = { (s.m.reached core w0).st n with
        cellq := (s.m.st n).cellq ++ (List.replicate (v / soThresh w1) release).flatten } ∧
      (∀ k, k ≠ n → t.m.st k = (s.m.reached core w0).st k) ∧ { t with m := { t.m with sts := s.m.sts, sems := s.m.sems } } = s

/-- TAKE: with a count of at least N it is decremented and +1 goes to the reply cell; else the count stays, SEMUNDER
is logged with the operation's fields and the count found, and the reply cell gets the error. (The place of the fields
in the entry: the model's choice, log entry 21.) -/
def Obligations.TakeDecrements : Prop :=
  ∀ (s : State) (core : Nat) (w0 w1 : W64), SemReady s core w0 w1 → soOp w0 = 3 → s.m.semFault core w0 w1 = none →
    let n := soStation w0
    let i := soSem w0
    let r := s.m.reached core w0
    let push := fun (m : Mach) (x : CellItem) => s.to (m.modSt n (fun y => { y with cellq := y.cellq ++ [x] }))
    (soN w0 ≤ s.m.sem n i → exec (.take core w0 w1) s =
      push (r.setSem n i (s.m.sem n i - soN w0)) (.add core (soCell w0) 1 n)) ∧
    (s.m.sem n i < soN w0 → exec (.take core w0 w1) s =
      push (r.logv {
        status := .semunder, src := 2, unit := n, ctx := some (soCtx w0), core, value := w0.toNat
        aux0 := s.m.sem n i }) (.err core (soCell w0) .semunder))

/-- An operation that breaks a rule is discarded and logged with its offending field; one that would carry the count
past 65,535 is refused whole and logged: no count changes, no release is made and no cell is written. (FOFF and VALUE
of the entries: the model's choice, log entries 12, 20 and 21.) -/
def Obligations.SemOpsRefused : Prop :=
  ∀ (s : State) (core : Nat) (w0 w1 : W64) (c : Instr), SemReady s core w0 w1 →
    ((c = .signal core w0 w1 ∧ soOp w0 = 1) ∨ (c = .arrive core w0 w1 ∧ soOp w0 = 2) ∨
      (c = .take core w0 w1 ∧ soOp w0 = 3)) →
    (∀ f, s.m.semFault core w0 w1 = some f → exec c s =
      s.to ((s.m.wakeStation (core / 4320)).logv {
        status := .violSem, src := 2, unit := core / 4320, ctx := some (soCtx w0), foff := f.1, value := f.2, core })) ∧
    (s.m.semFault core w0 w1 = none → soOp w0 ≠ 3 → 65535 < s.m.sem (soStation w0) (soSem w0) + soN w0 → exec c s =
      s.to ((s.m.reached core w0).logv {
        status := .semover, src := 2, unit := soStation w0, ctx := some (soCtx w0), core, value := w0.toNat, aux0 := 0 }))

/-- CELL_WAIT: an error wake is returned and cleared, COUNT as it is; else a count of at least 1 returns OK and falls
by 1; else the wait goes on. CELL_WRITE_PATH_ISSUE: the oldest item leaves the path; a cell write is in flight, a ticket
lands or, its core's queue full or an earlier ticket of the core held, is held. TICKET_RETRY: the oldest held ticket of
the core lands, or stays where the queue is full; the 16 sclk of its wait count under TICKET_WAIT, once for its stage.
CELL_WRITE_LAND: +n is added to COUNT; one that would pass 65,535 leaves COUNT, is logged as SEMOVER with the core,
the cell and its source, and sets ERR where ERR is 0; an error wake sets ERR where it is 0, else it is logged only.
(The places of core, cell and source in the entry: the model's choice, log entry 21; a ticket behind one of its core that
is held: log entry 63; once for its stage: log entry 64; the order of held tickets: log entry 99.) -/
def Obligations.CellWritesGoAndLand : Prop :=
  (∀ (s : State) (core k : Nat), core < 25920 → k < 32 → s.Quiet →
    let x := s.m.cell core k
    (x.err = true → exec (.cellWait core k) s =
      s.to { s.m.setCell core k { err := false, status := 0, count := x.count } with
        waitDone := aset none s.m.waitDone core (some x.status) }) ∧
    (x.err = false → 1 ≤ x.count → exec (.cellWait core k) s =
      s.to { s.m.setCell core k { x with count := x.count - 1 } with waitDone := aset none s.m.waitDone core (some 0) }) ∧
    (x.err = false → x.count = 0 → exec (.cellWait core k) s = .next s)) ∧
  (∀ (s : State) (n : Nat) (full : Bool) (i : CellItem) (is : List CellItem), n < 6 →
    ((s.m.st n).pwr = .active → (s.m.st n).cellq = i :: is → s.Quiet → (∀ t b, i ≠ .ticket t b) →
      ∃ t, exec (.cellWritePathIssue n full) s = .next t ∧
        StationBecomes s t n { s.m.st n with cellq := is, cellFly := (s.m.st n).cellFly ++ [i] }) ∧
    (∀ k b, (s.m.st n).pwr = .active → (s.m.st n).cellq = .ticket k b :: is →
      ((full = true ∨ (s.m.st n).ticketHeld.any (fun p => p.1.core == k.core) = true) → s.Quiet →
        ∃ t, exec (.cellWritePathIssue n full) s = .next t ∧
          StationBecomes s t n { s.m.st n with cellq := is, ticketHeld := holdTicket (s.m.st n).ticketHeld (k, b) }) ∧
      (full = false → (s.m.st n).ticketHeld.any (fun p => p.1.core == k.core) = false →
        exec (.cellWritePathIssue n full) s =
          .next (commit s ((s.m.modSt n (fun x => { x with cellq := is })).landTicket n k)))) ∧
    (∀ core p j q, core < 25920 →
      findIx (fun (p : Ticket × Bool) => p.1.core == core) (s.m.st n).ticketHeld 0 = some (j, p) →
      (s.m.st n).ticketHeld.find? (fun x => x.1.ctx == p.1.ctx && x.1.stage == p.1.stage) = some q →
      let c := p.1.ctx
      let m := if q.1.core = core then s.m.addStall c p.1.stage causeTicketWait 16 [s.m.stallThr c causeTicketWait] else s.m
      exec (.ticketRetry n core false) s = .next (commit s
        ((m.modSt n (fun x => { x with ticketHeld := x.ticketHeld.eraseIdx j })).landTicket n p.1)) ∧
      (s.Quiet → exec (.ticketRetry n core true) s = s.to m))) ∧
  (∀ (s : State) (n core j : Nat) (i : CellItem), n < 6 → core < 25920 → s.Quiet →
    findIx (fun (i : CellItem) => i.core == core) (s.m.st n).cellFly 0 = some (j, i) →
    let m := s.m.modSt n (fun x => { x with cellFly := x.cellFly.eraseIdx j })
    (∀ k a src, i = .add core k a src →
      let x := s.m.cell core k
      let logged := m.logv { status := .semover, src := 2, unit := n, core, value := k, addr := src }
      (x.count + a ≤ 65535 → exec (.cellWriteLand n core) s = s.to (m.setCell core k { x with count := x.count + a })) ∧
      (65535 < x.count + a → x.err = true → exec (.cellWriteLand n core) s = s.to logged) ∧
      (65535 < x.count + a → x.err = false →
        exec (.cellWriteLand n core) s = s.to (logged.setCell core k { x with err := true, status := 0x41 }))) ∧
    (∀ k st, i = .err core k st →
      let x := s.m.cell core k
      (x.err = false → exec (.cellWriteLand n core) s = s.to (m.setCell core k { x with err := true, status := st.code })) ∧
      (x.err = true → exec (.cellWriteLand n core) s =
        s.to (m.logv { status := st, src := 2, unit := n, core, value := k }))))

/-! ## Port expanders -/

/-- PORT_COMMAND_WRITE: the command enters the port's queue of 4, or waits while it is full. PORT_RESET: both ports of
the core are empty and stopped no more; counts and sideband stay. -/
def Obligations.PortQueues : Prop :=
  ∀ (s : State) (core : Nat), core < 25920 → s.Quiet →
    (∀ port w0 w1 w2 w3, port < 2 →
      let x := s.m.exp core port
      ((x.waiting = [] → x.queue.length < 4 → ∃ t, exec (.portCommandWrite core port w0 w1 w2 w3) s = .next t ∧
        ExpanderBecomes s t core port { x with queue := x.queue ++ [{ w0, w1, w2, w3 }] }) ∧
       (4 ≤ x.queue.length → ∃ t, exec (.portCommandWrite core port w0 w1 w2 w3) s = .next t ∧
        ExpanderBecomes s t core port { x with waiting := x.waiting ++ [{ w0, w1, w2, w3 }] }))) ∧
    ((∀ p, p < 2 → (s.m.exp core p).waiting = []) → ∃ t, exec (.portReset core) s = .next t ∧
      (∀ p, p < 2 → t.m.exp core p = { s.m.exp core p with
        queue := [], run := none, frames := [], tail := none, stopped := none, stopAt := 0, mayAccept := 0
        lastWord := [] }) ∧
      (∀ k, k ≠ 2 * core → k ≠ 2 * core + 1 → aget {} t.m.exps k = aget {} s.m.exps k) ∧
      { t with m := { t.m with exps := s.m.exps } } = s)

/-- FRAME_COMMAND and BYPASS_COMMAND: the port accepts the front command when it may. A FRAME takes the newest
delivery note that holds its frames; a BYPASS takes its seed. An invalid command stops the port with PORT_CMD, and a
FRAME without a note with PORT_NOTE. (The cclk as an operand: log entry 27; that a fault stops the whole port: log
entry 26.) -/
def Obligations.PortAccepts : Prop :=
  ∀ (s : State) (core port cclk : Nat) (c : PortCmd) (cs : List PortCmd), core < 25920 → port < 2 →
    let x := s.m.exp core port
    x.queue = c :: cs → x.waiting = [] → x.stopped = none → x.run = none → x.mayAccept ≤ cclk →
    let taken := s.m.modExp core port (fun x => { x with queue := cs }.letIn 4)
    let f : FrameRun := { off := 16 * pcOff c.w1, ctx := pcCtx c.w0 }
    (s.Quiet → cmdBad c = false → pcMode c.w0 = 1 → pcCount c.w1 ≠ 0 → ∀ nt, (aget {} s.m.notes core).lookup c = some nt →
      ∃ t, exec (.frameCommand core port cclk) s = .next t ∧ ExpanderBecomes s t core port { x with
        queue := cs, run := some (.frame c nt cclk 0 0 [cclk, cclk, cclk, cclk] none) }) ∧
    (s.Quiet → cmdBad c = false → pcMode c.w0 = 0 → pcCount c.w1 ≠ 0 →
      ∃ t, exec (.bypassCommand core port cclk) s = .next t ∧ ExpanderBecomes s t core port { x with
        queue := cs, run := some (.bypass cclk (s.m.bypassOf core c)) }) ∧
    (s.Quiet → cmdBad c = false → pcMode c.w0 = 1 → pcCount c.w1 = 0 →
      ∃ t, exec (.frameCommand core port cclk) s = .next t ∧ ExpanderBecomes s t core port { x with
        queue := cs, mayAccept := cclk + 1 }) ∧
    (cmdBad c = true → pcMode c.w0 ≠ 0 → exec (.frameCommand core port cclk) s =
      .next (commit s (taken.portFault core port f false (.portCmd, 0, 7) 0))) ∧
    (cmdBad c = true → pcMode c.w0 ≠ 1 → exec (.bypassCommand core port cclk) s =
      .next (commit s (taken.portFault core port f false (.portCmd, 0, 7) 0))) ∧
    (cmdBad c = false → pcMode c.w0 = 1 → pcCount c.w1 ≠ 0 → (aget {} s.m.notes core).lookup c = none →
      exec (.frameCommand core port cclk) s =
        .next (commit s (taken.portFault core port f false (.portNote, 0, 7) 0)))

/-- FRAME_OPEN: with SIGN 0 nothing happens; a frame whose header, shared fields and lengths pass their checks is
opened three cclk later with its decoded and masked words; an invalid header is a fault, which stops the port three cclk
later. (The cclk as an operand: log entry 27; the words of a faulty frame: log entry 24; which of several faults is
reported: log entry 22; when a header's fault is reported: log entry 131; bytes that change after: log entry 130.) -/
def Obligations.FrameOpens : Prop :=
  ∀ (s : State) (core port cclk : Nat) (c : PortCmd) (nt : Note) (acc opened prevO : Nat) (prevT : List Nat)
    (shared : Option Nat), core < 25920 → port < 2 → s.Quiet →
    let x := s.m.exp core port
    x.run = some (.frame c nt acc opened prevO prevT shared) → x.stopped = none →
    (if opened = 0 then acc else prevO) ≤ cclk →
    let off := 16 * pcOff c.w1 + 4128 * opened
    let h := huskParse (memReads s.mem.sram (sramAddr core off) 32)
    let out := huskDecode h (memReads s.mem.sram (sramAddr core off) h.blockLen)
    let f : FrameRun := {
      off, ctx := pcCtx c.w0, acc, retain := pcRetain c.w0 == 1, fmt := h.fmt, scale := h.scale
      elemBytes := h.fmtF.bytes, tensorLo := h.tensorLo, stage := h.stage, mb := h.mb, block := h.block
      payload := 16 * h.units }
    (h.sign = 0 → exec (.frameOpen core port cclk) s = .next s) ∧
    (h.sign ≠ 0 → huskHdrBad h = true → exec (.frameOpen core port cclk) s =
      .next (commit s (s.m.portFault core port f false (.huskHdr, 0, 7) 0 (cclk + 3))) ∧
      ∃ t, exec (.frameOpen core port cclk) s = .next t ∧ (t.m.exp core port).stopped = some .huskHdr ∧
        (t.m.exp core port).stopAt = cclk + 3 ∧ (t.m.exp core port).frames = x.frames) ∧
    (h.sign ≠ 0 → huskHdrBad h = false → (shared = none ∨ shared = some h.shared) →
      h.tensorLo = W64.bits nt.base 33 18 → huskLenBad h = none →
      ∃ t f, exec (.frameOpen core port cclk) s = .next t ∧ (t.m.exp core port).frames = x.frames ++ [f] ∧
        f.off = off ∧ f.ctx = pcCtx c.w0 ∧ f.block = h.block ∧ f.retain = (pcRetain c.w0 == 1) ∧
        f.nwords = ceilDiv h.plain 32 ∧
        (let opens := (List.range 4).map (fun k => max (cclk + 3) ((prevT[k]?).getD acc))
         f.faultFirst = (firstFound opens out.firsts).1 ∧ f.faultLast = (firstFound opens out.lasts).1) ∧
        (out.firsts = [] → f.words = chop 32 (h.plain + 1) (elemBytes h.fmtF.bytes (maskFrame nt h.block out.elems))) ∧
        (pcCount c.w1 ≤ opened + 1 → (t.m.exp core port).run = none ∧ (t.m.exp core port).mayAccept = cclk + 4) ∧
        (opened + 1 < pcCount c.w1 →
          ∃ ts, (t.m.exp core port).run = some (.frame c nt acc (opened + 1) (cclk + 3) ts (some h.shared))) ∧
        (∀ k, k ≠ 2 * core + port → aget {} t.m.exps k = aget {} s.m.exps k) ∧
        { t with m := { t.m with exps := s.m.exps, freeNo := s.m.freeNo } } = s)

/-- OPERAND_REQUEST: a stopped port counts the request; a frame that is ready, also while a later header is still being
checked, presents its next word with its sideband, and after its last word SIGN in core SRAM is 0 unless RETAIN; every
other byte of memory is as before. (The cclk as an operand: log entry 27.) -/
def Obligations.WordsPresented : Prop :=
  ∀ (s : State) (core port cclk : Nat), core < 25920 → port < 2 → s.Quiet →
    let x := s.m.exp core port
    x.nextReq ≤ cclk →
    (x.stopped ≠ none → x.stopAt ≤ cclk →
      ∃ t, exec (.operandRequest core port cclk) s = .next t ∧ ExpanderBecomes s t core port { x with
      nextReq := cclk + 1, cntStop := satAdd 32 x.cntStop 1, lastWord := [] }) ∧
    (∀ f rest w ws, x.stopped = none ∨ cclk < x.stopAt → x.tail = none → x.frames = f :: rest → f.words = w :: ws →
      max (max x.w f.acc) (max (f.bmax + 2) (f.tmax - f.nwords)) ≤ cclk → f.faultFirst = none → f.faultLast = none →
      ∃ t, exec (.operandRequest core port cclk) s = .next t ∧ t.m.exp core port = { x with
          nextReq := cclk + 1, lastWord := w, sideFmt := f.fmt, sideScale := f.scale
          frames := if ws = [] then rest else
            { f with words := ws, presented := f.presented + w.length / f.elemBytes } :: rest
          w := if ws = [] then cclk + 1 else x.w } ∧
        (∀ k, k ≠ 2 * core + port → aget {} t.m.exps k = aget {} s.m.exps k) ∧
        { t.m with exps := s.m.exps } = s.m ∧ t.mem.fab = s.mem.fab ∧ t.mem.host = s.mem.host ∧
        (∀ a, a ≠ sramAddr core f.off → memRead t.mem.sram a = memRead s.mem.sram a) ∧
        memRead t.mem.sram (sramAddr core f.off) =
          (if ws = [] ∧ f.retain = false then 0 else memRead s.mem.sram (sramAddr core f.off)))

/-! ## Rings and descriptors -/

/-- The descriptor commands: the ring's next descriptor, with fields that pass their checks, starts when it has the
command's opcode and form, does what the opcode does, and faulty descriptors behind it fail as they come up. One whose
fields fail a check ends with its status, logged with the field's offset and value, whichever descriptor command comes, a
transfer in its channel's entry too; it does nothing of its opcode. (Accesses made in one command: log entry 41; which check
fails first: log entry 34.) -/
def Obligations.DescriptorsStart : Prop :=
  (∀ (s : State) (r : Nat) (d : Desc), r < 16 → s.m.nextDesc r = some d → descFault s.m.devid (r / 4) d.line = none →
    let m := s.m.setDesc r d.pos (fun d => { d with st := .started })
    let ref : DescRef := { ring := r, pos := d.pos }
    let l := d.line
    (dOp l = 0x01 → exec (.nop r) s = .next (commit s ((m.completeCtx ref .ok 0).settle r 16))) ∧
    (dOp l = 0x06 → exec (.stepAbort r) s = .next (commit s ((m.stepAbort ref l).settle r 16))) ∧
    (dOp l = 0x08 → exec (.chanAbort r) s =
      .next (commit s (((m.abortChan s.mem (natBits (dBytes l 16 1) 5 0)).completeCtx ref .ok 0).settle r 16))) ∧
    (dOp l = 0x0E → exec (.rplRelease r) s = .next (commit s (((if (m.ctx (r / 4)).reserve.state == .frozen then
      m.setReserve (r / 4) (fun k => { k with state := .valid }) else m).completeCtx ref .ok 0).settle r 16))) ∧
    (s.m.shed.off = false →
      (dOp l = 0x02 → exec (.planInstall r) s = .next (commit s ((m.planInstall ref l).settle r 16))) ∧
      (dOp l = 0x03 → exec (.planArm r) s = .next (commit s ((m.planArm s.mem ref l).settle r 16))) ∧
      (dOp l = 0x04 → exec (.planWithdraw r) s = .next (commit s ((m.planWithdraw ref l).settle r 16))) ∧
      (dOp l = 0x05 → exec (.cfgSwap r) s = .next (commit s ((m.cfgSwap s.mem ref l).settle r 16))) ∧
      (dOp l = 0x07 → xMode l = 0 → exec (.copy r) s = .next (commit s ((m.startXfer ref l).settle r 16))) ∧
      (dOp l = 0x07 → xMode l = 1 → exec (.fill r) s = .next (commit s ((m.startXfer ref l).settle r 16))) ∧
      (dOp l = 0x07 → xMode l = 2 → exec (.compare r) s = .next (commit s ((m.startXfer ref l).settle r 16))) ∧
      (dOp l = 0x07 → xMode l = 3 → exec (.compareConst r) s = .next (commit s ((m.startXfer ref l).settle r 16))) ∧
      (dOp l = 0x09 → exec (.semAdj r) s = .next (commit s ((m.semAdj ref l).settle r 16))) ∧
      (dOp l = 0x0A → dBytes l 16 1 % 2 = 0 →
        exec (.semWakeSemaphore r) s = .next (commit s ((m.wakeSem ref l).settle r 16))) ∧
      (dOp l = 0x0A → dBytes l 16 1 % 2 = 1 →
        exec (.semWakeCell r) s = .next (commit s ((m.wakeCell ref l).settle r 16))) ∧
      (dOp l = 0x0B → (s.m.ctx (r / 4)).saving = none →
        exec (.ctxSave r) s = .next (commit s ((m.ctxSave ref l).settle r 16))) ∧
      (dOp l = 0x0C → exec (.ctxRestore r) s = .next (commit s ((m.ctxRestore s.mem ref l).settle r 16))) ∧
      (dOp l = 0x0D → exec (.replay r) s = .next (commit s ((m.replay ref l).settle r 16))) ∧
      (dOp l = 0x0F → kWhen l = 0 →
        exec (.ckptCaptureBoundary r) s = .next (commit s ((m.ckptCapture s.mem ref l).settle r 16))) ∧
      (dOp l = 0x0F → kWhen l = 1 →
        exec (.ckptCaptureSnapshot r) s = .next (commit s ((m.ckptCapture s.mem ref l).settle r 16))) ∧
      (dOp l = 0x10 → exec (.inline r) s = .next (commit s ((m.startInline ref l).settle r 16))))) ∧
  (∀ (s : State) (r : Nat) (d : Desc) (c : Instr) (st : Status) (o v : Nat), r < 16 → s.m.nextDesc r = some d →
    descFault s.m.devid (r / 4) d.line = some (st, o, v) → (s.m.ring r).descs.filter Desc.waits = [d] →
    s.m.shed.off = false → (s.m.ctx (r / 4)).saving = none →
    c ∈ [.nop r, .stepAbort r, .chanAbort r, .rplRelease r, .planInstall r, .planArm r, .planWithdraw r, .cfgSwap r, .copy r,
      .fill r, .compare r, .compareConst r, .semAdj r, .semWakeSemaphore r, .semWakeCell r, .ctxSave r, .ctxRestore r,
      .replay r, .ckptCaptureBoundary r, .ckptCaptureSnapshot r, .inline r] →
    let m := (s.m.setDesc r d.pos (fun d => { d with st := .started })).logRing r st o v
    let ref : DescRef := { ring := r, pos := d.pos }
    let ch := 8 * xStation d.line + 7
    exec c s = .next (commit s (if dOp d.line = 0x07 ∧ xStation d.line < 6 then (m.chanNote ch st 0).complete ch ref st 0 0
      else m.completeCtx ref st 0)))

/-- What the descriptors that act on one unit leave. NOP ends with OK. STEP_ABORT ends with OK where no step runs, aborts
one that runs, and waits for the end of ABORTING. CHAN_ABORT of a channel with no work ends with OK. SEM_ADJ: a sum within 0
to 65,535 is the semaphore's new value when no engine waits on it; one outside changes no semaphore, SEMUNDER or SEMOVER.
SEM_WAKE: an error wake of the cell; with no engine waiting on the semaphore DETAIL is 0. RPL_RELEASE: a FROZEN reserve is
VALID. REPLAY: RPL_BUSY, RPL_INVALID and RPL_PLAN, else the next step replays, and the seed tables of the stage cores hold
the held step's seeds. -/
def Obligations.DescriptorEffects : Prop :=
  ∀ (s : State) (r : Nat) (d : Desc), DescReady s r d →
    let ref : DescRef := { ring := r, pos := d.pos }
    let x := s.m.ctx (r / 4)
    let l := d.line
    let rest := fun (t : State) => t.m.sts = s.m.sts ∧ t.m.ctxs = s.m.ctxs ∧ t.mem = s.mem
    (dOp l = 0x01 → ∃ t, exec (.nop r) s = .next t ∧ Ends s t ref .ok 0 ∧ rest t) ∧
    (dOp l = 0x06 →
      (x.state = .idle ∨ x.state = .armed ∨ x.state = .boundary →
        ∃ t, exec (.stepAbort r) s = .next t ∧ Ends s t ref .ok 0 ∧ rest t) ∧
      (x.state = .aborting → ∃ t, exec (.stepAbort r) s = .next t ∧ Starts s t ref ∧
        t.m.ctx (r / 4) = { x with abortDescs := x.abortDescs ++ [(ref, 0)] } ∧ t.m.sts = s.m.sts) ∧
      (x.state = .running ∨ x.state = .draining → s.m.tasksOf (r / 4) = [] →
        ∃ t, exec (.stepAbort r) s = .next t ∧ Starts s t ref ∧ (t.m.ctx (r / 4)).state = .aborting ∧
          (t.m.ctx (r / 4)).abortSt = some .aborted ∧ (t.m.ctx (r / 4)).abortDescs = x.abortDescs ++ [(ref, 1)] ∧
          ∀ k, k ≠ r / 4 → t.m.ctx k = s.m.ctx k)) ∧
    (∀ ch, dOp l = 0x08 → ch = dBytes l 16 1 % 64 →
      let y := s.m.st (ch / 8)
      (if ch % 8 = 7 then (∀ z ∈ s.m.hs.xfers, z.st ≠ ch / 8) ∧ (∀ q ∈ s.m.hs.inlines, q.2.1 ≠ ch / 8) ∧ y.cuts = [] ∧
          (∀ a ∈ y.acc ++ y.outst, (a.chan = 7 → a.hook.work7 = false) ∧ ∀ g p, a.hook ≠ .inlineWrite g p)
        else ∀ t ∈ y.tasks, t.chan ≠ ch % 8 ∧ t.chan2 ≠ ch % 8) →
      ∃ t, exec (.chanAbort r) s = .next t ∧ Ends s t ref .ok 0 ∧ (∀ n, t.m.st n = s.m.st n) ∧ t.m.ctxs = s.m.ctxs ∧
        t.mem = s.mem) ∧
    (dOp l = 0x09 →
      let n := dBytes l 18 1
      let i := dBytes l 16 2
      let sum : Int := (s.m.sem n i : Int) + sext (dBytes l 20 4) 32
      s.m.firstWaiter n i = none →
      ∃ t, exec (.semAdj r) s = .next t ∧
        Ends s t ref (if sum < 0 then .semunder else if 65535 < sum then .semover else .ok) (t.m.sem n i) ∧
        (t.m.sem n i : Int) = (if sum < 0 ∨ 65535 < sum then (s.m.sem n i : Int) else sum) ∧
        (∀ m j, 8192 * m + j ≠ 8192 * n + i → t.m.sem m j = s.m.sem m j) ∧ t.m.cells = s.m.cells ∧ rest t) ∧
    (dOp l = 0x0A → dBytes l 16 1 % 2 = 0 →
      (∀ p ∈ (s.m.st (dBytes l 17 1)).engines, p.2.waiting ≠ some (dBytes l 18 2)) →
      ∃ t, exec (.semWakeSemaphore r) s = .next t ∧ Ends s t ref .ok 0 ∧ rest t) ∧
    (dOp l = 0x0A → dBytes l 16 1 % 2 = 1 →
      let core := dBytes l 20 2
      let k := dBytes l 22 1
      let y := s.m.cell core k
      ∃ t, exec (.semWakeCell r) s = .next t ∧ Ends s t ref .ok 0 ∧ rest t ∧
        t.m.cell core k = (if y.err then y else { y with err := true, status := Status.semcancel.code }) ∧
        (∀ a b, 32 * a + b ≠ 32 * core + k → t.m.cell a b = s.m.cell a b)) ∧
    (dOp l = 0x0E → x.reserve.state = .frozen →
      ∃ t, exec (.rplRelease r) s = .next t ∧ Ends s t ref .ok 0 ∧ (t.m.ctx (r / 4)).reserve.state = .valid) ∧
    (dOp l = 0x0E → x.reserve.state ≠ .frozen → ∃ t, exec (.rplRelease r) s = .next t ∧ Ends s t ref .ok 0 ∧ rest t) ∧
    (dOp l = 0x0D →
      let busy := x.state ≠ .armed ∨ s.m.nextArrived (r / 4) = true ∨ x.swap ≠ none
      let holds := x.reserve.state = .valid ∨ x.reserve.state = .frozen
      (busy → ∃ t, exec (.replay r) s = .next t ∧ Ends s t ref .rplBusy 0 ∧ rest t) ∧
      (¬ busy → ¬ holds → ∃ t, exec (.replay r) s = .next t ∧ Ends s t ref .rplInvalid 0 ∧ rest t) ∧
      (∀ p, ¬ busy → holds → x.act.plan = some p →
        ((p.addr ≠ x.reserve.planAddr ∨ p.crc ≠ x.reserve.planCrc) →
          ∃ t, exec (.replay r) s = .next t ∧ Ends s t ref .rplPlan 0 ∧ rest t) ∧
        (p.addr = x.reserve.planAddr → p.crc = x.reserve.planCrc →
          let at_ := fun (core : Nat) => 8 * core + 2 * (r / 4) + x.reserve.step.toNat % 2
          ∃ t, exec (.replay r) s = .next t ∧ Ends s t ref .ok x.reserve.step.toNat ∧
            (t.m.ctx (r / 4)).replayReq = true ∧ (t.m.ctx (r / 4)).step = x.step ∧ t.m.sts = s.m.sts ∧
            (∀ g ∈ p.stages, ∀ core ∈ g.cores, (∀ h ∈ p.stages, core ∈ h.cores → h.stage = g.stage) →
              aget 0 t.m.seeds (at_ core) = stageSeed p.glob.jobSeed x.reserve.step g.stage) ∧
            (∀ k, (∀ g ∈ p.stages, ∀ core ∈ g.cores, k ≠ at_ core) → aget 0 t.m.seeds k = aget 0 s.m.seeds k))))

/-- What the descriptors that move bytes leave. XFER of no bytes ends EMPTY. A local transfer of one part puts its first
accesses on channel 7 of its station: COPY and COMPARE a read of the source, COMPARE and COMPARE_CONST one of the target,
FILL the write of the pattern, whose byte at address A is byte A mod 8. INLINE puts its bytes as one write on channel 7 of
the station whose field holds its address; of no bytes it ends EMPTY. Nothing else joins a station's accesses. (EMPTY before
any other check: log entry 36; the channel's entry: R142, log entry 91; the pattern: R146.) -/
def Obligations.TransferDescriptors : Prop :=
  ∀ (s : State) (r : Nat) (d : Desc), DescReady s r d →
    let ref : DescRef := { ring := r, pos := d.pos }
    let l := d.line
    let n := xStation l
    let id := (s.m.st n).nextId
    let read := fun (a id : Nat) (target : Bool) => ({
      id, share := 0, cls := xClass l, ctx := r / 4, chan := 7, cost := fabCost a, addr := a, len := xCount l
      hook := .xferRead r d.pos 0 target } : Access)
    let pattern := (List.range (xCount l)).map (fun i => BitVec.ofNat 8 ((xPattern l).toNat >>> (8 * ((dAddr l + i) % 8))))
    let puts := fun (t : State) (n : Nat) (as : List Access) => (t.m.st n).acc = (s.m.st n).acc ++ as ∧
      (t.m.st n).outst = (s.m.st n).outst ∧ (∀ k, k ≠ n → t.m.st k = s.m.st k) ∧ t.m.ctxs = s.m.ctxs ∧ t.mem = s.mem
    (∀ c, (c, xMode l) ∈ [(Instr.copy r, 0), (.fill r, 1), (.compare r, 2), (.compareConst r, 3)] → dOp l = 0x07 →
      (xCount l = 0 → ∃ t, exec c s = .next t ∧ Ends s t ref .empty 0 ∧ (t.m.chan (8 * n + 7)).status = .empty ∧
        t.m.sts = s.m.sts) ∧
      (xCount l ≠ 0 → xCount l ≤ 4096 - dAddr l % 4096 → xDstHost l = false →
        (xPosted l = true → s.m.testMode = true ∨ s.m.allIdle = true) → s.m.targetBad (dAddr l) (xCount l) = false →
        (xHasSrc l = true → xSrcHost l = false ∧ (s.m.allIdle = true ∨ rangeInSram (xSrc l) (xCount l) = false)) →
        s.m.xfer r d.pos = none →
        ∃ t, exec c s = .next t ∧ Starts s t ref ∧
          (xMode l = 0 → puts t n [read (xSrc l) id false]) ∧
          (xMode l = 1 → puts t n [{
            id, share := 1, cls := xClass l, ctx := r / 4, chan := 7, cost := fabCost (dAddr l), addr := dAddr l
            len := xCount l, data := placed (dAddr l) pattern, write := true, posted := xPosted l
            hook := .xferWrite r d.pos 0 }]) ∧
          (xMode l = 2 → puts t n [read (xSrc l) id false, read (dAddr l) (id + 1) true]) ∧
          (xMode l = 3 → puts t n [read (dAddr l) id true]))) ∧
    (dOp l = 0x10 →
      let k := fieldStation (dAddr l)
      (dLen l = 0 → ∃ t, exec (.inline r) s = .next t ∧ Ends s t ref .empty 0 ∧ (t.m.chan (8 * k + 7)).status = .empty ∧
        t.m.sts = s.m.sts) ∧
      (dLen l ≠ 0 → s.m.targetBad (dAddr l) (dLen l) = false →
        ∃ t, exec (.inline r) s = .next t ∧ Starts s t ref ∧ puts t k [{
          id := (s.m.st k).nextId, share := 1, cls := 1, ctx := r / 4, chan := 7, cost := fabCost (dAddr l), addr := dAddr l
          len := dLen l, data := placed (dAddr l) (((dLine l).drop 16).take (dLen l)), write := true
          hook := .inlineWrite r d.pos }]))

/-- What the plan descriptors leave. PLAN_INSTALL: the loader takes the install and reads the image's header, or the
install waits its turn, or is refused with LDR_BUSY. PLAN_ARM of a plan without peers: the context is ARMED with STEP0,
the programs are in the stations and UZ_BW_GRANT's fields are locked; else SWAP_NOPLAN, LDR_BUSY or LDR_KEY, and nothing
changes. PLAN_WITHDRAW: the plan goes, at once or at the step's end, or LDR_BUSY. CFG_SWAP: the sets of an IDLE context are
exchanged, a RUNNING one's swap waits for the boundary, a second one is SWAP_BUSY, one of no context LDR_RANGE. (That an
arm without peers, its programs, seeds and counter, is done in its own command: log entry 41; the widths read at an
exchange: log entry 11.) -/
def Obligations.PlanDescriptors : Prop :=
  ∀ (s : State) (r : Nat) (d : Desc), DescReady s r d →
    let ref : DescRef := { ring := r, pos := d.pos }
    let c := r / 4
    let x := s.m.ctx c
    let l := d.line
    let rest := fun (t : State) => t.m.sts = s.m.sts ∧ t.m.ctxs = s.m.ctxs ∧ t.m.regs = s.m.regs ∧ t.mem = s.mem
    let i : Install := { desc := ref, addr := dAddr l, ctx := c, shadow := dBytes l 16 1 % 2 == 1 }
    (dOp l = 0x02 →
      (s.m.hs.loaderCur ≠ none → ∃ t, exec (.planInstall r) s = .next t ∧ Starts s t ref ∧ rest t ∧
        t.m.hs.loaderQ = s.m.hs.loaderQ ++ [i] ∧ t.m.hs.loaderCur = s.m.hs.loaderCur) ∧
      (s.m.hs.loaderCur = none → s.m.hs.loaderQ = [] →
        (s.m.installBusy i = true → ∃ t, exec (.planInstall r) s = .next t ∧ Ends s t ref .ldrBusy 0 ∧ rest t ∧
          t.m.hs.loaderCur = none ∧ t.m.hs.loaderQ = []) ∧
        (s.m.installBusy i = false → dAddr l % 4096 = 0 → s.m.fabAddr (dAddr l) = dAddr l →
          dAddr l % 2 ^ 48 + 128 ≤ Config.hbmBytes →
          ∃ t, exec (.planInstall r) s = .next t ∧ Starts s t ref ∧ t.m.hs.loaderCur = some i ∧ t.m.ctxs = s.m.ctxs ∧
            (t.m.st 0).acc = (s.m.st 0).acc ++ [{
              id := (s.m.st 0).nextId, share := 0, cls := 2, ctx := c, chan := 7, cost := 4096, addr := dAddr l, len := 128
              hook := .loadRead }]))) ∧
    (dOp l = 0x03 →
      (∀ st : Status, st = (if x.act.plan = none ∧ x.state = .idle then .swapNoplan else .ldrBusy) →
        (x.act.plan = none ∨ x.state ≠ .idle) → ∃ t, exec (.planArm r) s = .next t ∧ Ends s t ref st 0 ∧ rest t) ∧
      (∀ p, x.act.plan = some p → x.state = .idle →
        ((∃ k ∈ p.tiers, aget none s.m.keys k.keySlot = none) →
          ∃ t, exec (.planArm r) s = .next t ∧ Ends s t ref .ldrKey 0 ∧ rest t) ∧
        ((∀ k ∈ p.tiers, aget none s.m.keys k.keySlot ≠ none) → (∀ k ∈ p.tiers, k.kind ≠ 1) → x.swap = none →
          ∃ t, exec (.planArm r) s = .next t ∧ Ends s t ref .ok 0 ∧ (t.m.ctx c).state = .armed ∧ (t.m.ctx c).arming = false ∧
            (t.m.ctx c).step = (if p.glob.step0 ≠ 0xFFFFFFFFFFFFFFFF then p.glob.step0 else if x.armedOnce then x.step else 0) ∧
            (t.m.ctx c).armedOnce = true ∧
            (t.m.ctx c).act = x.act ∧ t.m.regs.locked = true ∧
            (∀ n, n < 6 → aget [] (t.m.st n).progMem c = (p.progs[n]?).getD []) ∧
            (∀ k, k ≠ c → t.m.ctx k = s.m.ctx k)))) ∧
    (dOp l = 0x04 →
      ((x.swap ≠ none ∨ x.withdraw ≠ none) → ∃ t, exec (.planWithdraw r) s = .next t ∧ Ends s t ref .ldrBusy 0 ∧ rest t) ∧
      (x.swap = none → x.withdraw = none →
        (x.state = .idle → x.act.plan = none → ∃ t, exec (.planWithdraw r) s = .next t ∧ Ends s t ref .ok 0 ∧ rest t) ∧
        ((x.state = .armed ∨ (x.state = .idle ∧ x.act.plan ≠ none)) → x.arming = false → x.capture = none →
          s.m.hs.loaderCur = none →
          ∃ t, exec (.planWithdraw r) s = .next t ∧ Ends s t ref .ok 0 ∧ (t.m.ctx c).state = .idle ∧
            (t.m.ctx c).act = { x.act with plan := none } ∧ (t.m.ctx c).claims = [] ∧
            (∀ n, n < 6 → aget [] (t.m.st n).progMem c = []) ∧ (∀ k, k ≠ c → t.m.ctx k = s.m.ctx k)) ∧
        (x.state ≠ .armed → x.state ≠ .idle → ∃ t, exec (.planWithdraw r) s = .next t ∧ Starts s t ref ∧
          t.m.ctx c = { x with withdraw := some ref } ∧ t.m.sts = s.m.sts))) ∧
    (dOp l = 0x05 →
      let b := dBytes l 16 1
      (b % 16 = 0 → ∃ t, exec (.cfgSwap r) s = .next t ∧ Ends s t ref .ldrRange 0 ∧ rest t) ∧
      (∀ k, k < 4 → b % 16 = 2 ^ k → (∀ y ∈ s.m.hs.swapDescs, y.desc ≠ ref) →
        let y := s.m.ctx k
        ((y.swap ≠ none ∨ y.withdraw ≠ none) → ∃ t, exec (.cfgSwap r) s = .next t ∧
          Ends s t ref .swapBusy (k * 2 ^ 16) ∧ (t.m.ctx k).swap = y.swap ∧ (t.m.ctx k).act = y.act ∧ (t.m.ctx k).shd = y.shd) ∧
        (y.swap = none → y.withdraw = none → bit b 5 = false →
          (y.state = .idle → ∃ t, exec (.cfgSwap r) s = .next t ∧ Ends s t ref .ok 0 ∧
            (t.m.ctx k).act = { y.shd with plan := y.act.plan.map (fun p => { p with widths := s.m.widthPin }) } ∧
            (t.m.ctx k).shd = { y.act with plan := y.shd.plan } ∧ (t.m.ctx k).swap = none ∧
            (∀ j, j ≠ k → t.m.ctx j = s.m.ctx j)) ∧
          (y.state = .running → bit b 4 = false → ∃ t, exec (.cfgSwap r) s = .next t ∧ Starts s t ref ∧
            t.m.ctx k = { y with swap := some { desc := ref, immediate := false, plan := false, claiming := false } } ∧
            t.m.sts = s.m.sts))))

/-- What the context descriptors leave. CTX_SAVE: the image goes out as class 2 writes on channel 7 of S0, to its address;
CTX_BUSY and VIOL_ADDR write nothing. CTX_RESTORE: the context's semaphores and its stage cores' cells are those of the
image; CTX_BUSY and CTX_IMAGE restore nothing. CKPT_CAPTURE: a boundary capture waits for its boundary, a snapshot begins
at once with accesses of S0; CKPT_STATE, CKPT_BUSY and CKPT_STEP begin nothing. (VIOL_ADDR for an address of CTX_SAVE that
is not a multiple of 64: log entry 35; CTX_RESTORE in one command: log entry 41.) -/
def Obligations.ContextDescriptors : Prop :=
  ∀ (s : State) (r : Nat) (d : Desc), DescReady s r d →
    let ref : DescRef := { ring := r, pos := d.pos }
    let c := r / 4
    let x := s.m.ctx c
    let l := d.line
    let rest := fun (t : State) => t.m.sts = s.m.sts ∧ t.m.ctxs = s.m.ctxs ∧ t.m.sems = s.m.sems ∧ t.m.cells = s.m.cells ∧
      t.mem = s.mem
    (dOp l = 0x0B → x.saving = none →
      let free := x.state = .idle ∨ (x.state = .armed ∧ s.m.nextArrived c = false)
      (¬ free → ∃ t, exec (.ctxSave r) s = .next t ∧ Ends s t ref .ctxBusy 0 ∧ rest t) ∧
      (free → dAddr l % 64 ≠ 0 → ∃ t, exec (.ctxSave r) s = .next t ∧ Ends s t ref .violAddr 0 ∧ rest t) ∧
      (free → dAddr l % 64 = 0 → ∃ t as, exec (.ctxSave r) s = .next t ∧ Starts s t ref ∧
        t.m.ctx c = { x with saving := some (ref, (s.m.semImage c).length) } ∧ (t.m.st 0).acc = (s.m.st 0).acc ++ as ∧
        (∀ a ∈ as, a.cls = 2 ∧ a.chan = 7 ∧ a.share = 1 ∧ a.write = true ∧ a.hook = .ctxSave c) ∧
        (as.map (fun a => a.data)).flatten = placed (dAddr l) (s.m.semImage c))) ∧
    (dOp l = 0x0C →
      let cores := s.m.stageCores c
      let img := fabReads s.mem (dAddr l) (24640 + 132 * cores.length)
      ((x.state ≠ .idle ∨ x.act.plan = none) → ∃ t, exec (.ctxRestore r) s = .next t ∧ Ends s t ref .ctxBusy 0 ∧ rest t) ∧
      (x.state = .idle → x.act.plan ≠ none → dAddr l % 64 = 0 →
        (imageBad c img cores = true → ∃ t, exec (.ctxRestore r) s = .next t ∧ Ends s t ref .ctxImage 0 ∧ rest t) ∧
        (imageBad c img cores = false → cores.Nodup → ∃ t, exec (.ctxRestore r) s = .next t ∧ Ends s t ref .ok 0 ∧
          (∀ n i, n < 6 → i < 2048 → t.m.sem n (2048 * c + i) = rdNat img (64 + 4096 * n + 2 * i) 2) ∧
          (∀ n i, i < 8192 → i / 2048 ≠ c → t.m.sem n i = s.m.sem n i) ∧
          (∀ j k i, cores[j]? = some k → i < 32 →
            let v := rdNat img (24640 + 132 * j + 4 + 4 * i) 4
            t.m.cell k i = { err := bit v 24, status := natBits v 23 16, count := natBits v 15 0 }) ∧
          (∀ k i, i < 32 → k ∉ cores → t.m.cell k i = s.m.cell k i) ∧ t.m.sts = s.m.sts ∧ t.m.ctxs = s.m.ctxs))) ∧
    (∀ e, dOp l = 0x0F →
      (e, kWhen l) ∈ [(Instr.ckptCaptureBoundary r, 0), (.ckptCaptureSnapshot r, 1)] →
      let k : Capture := { desc := ref, snapshot := kWhen l == 1, host := kHost l, rpl := kRpl l, target := dAddr l
                           size := dBytes l 16 8, stepAt := BitVec.ofNat 64 (dBytes l 32 8) }
      (x.act.plan = none → ∃ t, exec e s = .next t ∧ Ends s t ref .ckptState 0 ∧ rest t) ∧
      (x.act.plan ≠ none → x.capture ≠ none → ∃ t, exec e s = .next t ∧ Ends s t ref .ckptBusy 0 ∧ rest t) ∧
      (x.act.plan ≠ none → x.capture = none → kWhen l = 0 → k.stepAt ≠ 0xFFFFFFFFFFFFFFFF → k.stepAt.toNat < x.step.toNat →
        ∃ t, exec e s = .next t ∧ Ends s t ref .ckptStep 0 ∧ rest t) ∧
      (s.m.ckptRefusal s.mem c k = none →
        (kWhen l = 0 → k.stepAt ≠ 0xFFFFFFFFFFFFFFFF → k.stepAt ≠ x.step → ∃ t, exec e s = .next t ∧ Starts s t ref ∧
          t.m.ctx c = { x with capture := some k } ∧ t.m.sts = s.m.sts) ∧
        (kWhen l = 1 → ∃ t q, exec e s = .next t ∧ Starts s t ref ∧ (t.m.ctx c).capture = some q ∧ q.desc = ref ∧
          q.ph = .early ∧ q.holds = false ∧ t.m.ckptBusy c = true ∧ (t.m.ctx c).state = x.state)))

/-- DESCRIPTOR_READ: the next ring in turn with a descriptor to read asks for the line at its consumer index, which
advances. DESCRIPTOR_READ_RETURN: a line with the SEQ of its position is matched, another is read again up to 4 times
and then halts the ring with VIOL_SEQ, as an error does with VIOL_HOSTRD. DESCRIPTOR_REREAD: the read 64 aclk later.
(When the consumer index advances: the model's choice, log entry 38.) -/
def Obligations.DescriptorsRead : Prop :=
  ∀ (s : State) (r : Nat), r < 16 →
    (s.Quiet → s.m.hs.att = .attached → s.m.readRing = some r →
      let pos := (s.m.ring r).cons
      exec .descriptorRead s = s.to (((s.m.modRing r (fun g => { g with
        cons := (pos + 1) % 2 ^ 32, descs := g.descs ++ [{ pos }] })).modHs (fun h => { h with rrNext := (r + 1) % 16 })).readLine
          r pos)) ∧
    (∀ o d pos, s.m.hs.ops.find? (fun o => o.use == .desc r pos && o.issued) = some o →
      (s.m.ring r).descs.find? (fun d => d.pos == pos) = some d →
      let l := lineWords (memReads s.mem.host o.addr 64)
      let m := s.m.modHs (fun h => { h with ops := h.ops.filter (fun q => q.id != o.id) })
      (dSeq l = pos % 65536 → exec (.descriptorReadReturn r pos false) s =
        .next (commit s ((m.setDesc r pos (fun d => { d with line := l, st := .matched })).settle r 16))) ∧
      (dSeq l ≠ pos % 65536 → d.rereads < 4 → exec (.descriptorReadReturn r pos false) s =
        .next (commit s (m.setDesc r pos (fun d => { d with line := l, st := .mismatch, age := 0 })))) ∧
      (dSeq l ≠ pos % 65536 → 4 ≤ d.rereads → exec (.descriptorReadReturn r pos false) s =
        .next (commit s (m.haltAtDesc r .violSeq pos 2 (dSeq l)))) ∧
      exec (.descriptorReadReturn r pos true) s =
        .next (commit s (m.haltAtDesc r .violHostrd pos 0xFFFFFFFF o.addr))) ∧
    (∀ d pos, s.Quiet → (s.m.ring r).descs.find? (fun d => d.pos == pos) = some d → d.st = .mismatch → 64 ≤ d.age →
      exec (.descriptorReread r pos) s = s.to ((s.m.setDesc r pos (fun d => { d with
        st := .reading, rereads := d.rereads + 1 })).readLine r pos))

/-- COMPLETION_ENTRY_ISSUE: the collector takes the earliest event, the lowest rank first, and its entry goes out with the
descriptor's TAG and SLOT, or waits for a slot that the consumer index has freed. HOST_WRITE_GO of an entry: its bytes are
in host memory, the descriptor is in flight no more, and the ring's vector is raised for IRQ 1 or a status other than OK
and EMPTY. -/
def Obligations.CompletionsGoOut : Prop :=
  (∀ (s : State) (e : CEvent) (d : Desc), firstEvent s.m.hs.events = some e →
    (s.m.ring e.desc.ring).descs.find? (fun d => d.pos == e.desc.pos) = some d →
    exec .completionEntryIssue s = .next (commit s
      (((s.m.modHs (fun h => { h with events := h.events.erase e })).putEntry e.desc.ring {
        status := e.status, detail := e.detail, detail2 := e.detail2, tag := dTag d.line, slot := dSeq d.line
        irq := dIrq d.line, late := d.late, pos := d.pos }).settle e.desc.ring 16))) ∧
  (∀ (m : Mach) (r : Nat) (e : CEntry), (m.ring r).heldEntries = [] → m.hs.att = .attached → (m.ring r).state = .running →
    let full := (m.ring r).size ≤ ixDiff (m.ring r).cqProd (m.ring r).cqCons
    (¬full → m.putEntry r e = m.writeEntry r e) ∧
    (full → m.putEntry r e = m.modRing r (fun g => { g with
      heldEntries := g.heldEntries ++ [{ e with held := e.held || e.late }] }))) ∧
  (∀ (s : State) (id r : Nat) (o : HostOp) (e : CEntry),
    s.m.hs.ops.find? (fun o => o.id == id && o.write && o.issued) = some o → o.use = .entry r e → e.loose = false →
    s.Quiet →
    let m := s.m.modHs (fun h => { h with ops := h.ops.filter (fun q => q.id != id) })
    exec (.hostWriteGo id false) s = .next { s with
      mem := { s.mem with host := memWrites s.mem.host o.data }
      m := if e.irq = true ∨ (e.status ≠ .ok ∧ e.status ≠ .empty) then (m.dropDesc r e.pos).raiseVec r else m.dropDesc r e.pos })

/-- HOST_WRITE_GO: the bytes are in host memory and the write is over. The last line of a far write has its last line read
back as a transfer of channel 5, that of a transfer's part ends the part, and the last part of a transfer to the host is
read back too; a failed far line is written once more. HOST_READ_DATA: a block of a far record joins its fetch, or the
fetch fails; a far record read back as written is acknowledged, else sent once more, else it fails; what a COPY has read
is written; a transfer or a capture read back as written ends with OK. SNOOP: answered, and nothing of Uzoto depends on
it. (A far read is one block: log entry 92; the access a line belongs to: log entry 120; how the place of a block's
trailer is found: log entry 32.) -/
def Obligations.HostAnswers : Prop :=
  (∀ (s : State) (id : Nat) (o : HostOp), s.m.hs.ops.find? (fun o => o.id == id && o.write && o.issued) = some o → s.Quiet →
    let m := s.m.modHs (fun h => { h with ops := h.ops.filter (fun q => q.id != id) })
    let mem := { s.mem with host := memWrites s.mem.host o.data }
    let freed := fun (n : Nat) (p : Access → Bool) =>
      m.modSt n (fun y => { y with outst := y.outst.filter (fun a => !(a.share == 3 && p a)) })
    let becomes := fun (m : Mach) => exec (.hostWriteGo id false) s = .next { s with mem, m }
    (∀ c st, o.use = .report c st → becomes (m.raiseVec (16 + c))) ∧
    (∀ n t k, o.use = .farLine n t → s.m.task n t = some k →
      let last := k.ph ≠ .fail ∧ k.allCoded = true ∧ (∀ b ∈ k.blks, b.st = .sent) ∧ m.farLinesOut n t = false
      let p := (k.sealedTotal - 1) / 64 * 64
      (last → becomes (m.queueAcc n {
        share := 3, cls := 1, ctx := k.ctx, chan := 5, owner := t, cost := 0, addr := k.loc + p, len := k.sealedTotal - p
        hook := .farBack t })) ∧
      (¬last → becomes m) ∧ (k.ph = .fail → exec (.hostWriteGo id true) s =
        .next (commit s (m.writeFailed .host o.data))) ∧
      (k.ph ≠ .fail → o.retry = false → ∃ u q,
        exec (.hostWriteGo id true) s = .next u ∧ u.m.hs.ops = m.hs.ops ++ [q] ∧ q.use = o.use ∧
        q.addr = o.addr ∧ q.data = placed o.addr (o.data.map (fun b => b.2)) ∧ q.write = true ∧ q.retry = true)) ∧
    (∀ r p k, o.use = .xferLine r p k → (∃ q ∈ m.hs.ops, q.use = o.use) → becomes m) ∧
    (∀ r p k x, o.use = .xferLine r p k → (∀ q ∈ m.hs.ops, q.use ≠ o.use) → s.m.xfer r p = some x →
      let y := freed x.st (fun a => a.hook == .xferWrite r p k)
      (∃ u, exec (.hostWriteGo id false) s = .next u ∧ u.mem = mem) ∧
      (x.cuts.map (fun q => q.1) = [k] → x.count ≤ x.issued → x.dstHost = true → x.mode = .copy ∨ x.mode = .fill →
        x.fail = none → x.stop = false → x.backDone = false → x.posted = true ∨ y.writesOut x.st = false →
        (∀ z ∈ s.m.hs.xfers, z.st = x.st → z.desc = x.desc) →
        (∀ a ∈ (s.m.st x.st).acc ++ (s.m.st x.st).outst, a.hook ≠ .xferBack r p) → x.desc = { ring := r, pos := p } →
        ∃ u a, exec (.hostWriteGo id false) s = .next u ∧ (u.m.st x.st).acc = (s.m.st x.st).acc ++ [a] ∧ a.share = 3 ∧
          a.chan = 7 ∧ a.cls = x.cls ∧ a.write = false ∧ a.hook = .xferBack r p ∧
          a.addr = max x.dst ((x.dst + x.count - 1) / 64 * 64) ∧ a.addr + a.len = x.dst + x.count)) ∧
    (∀ c acc, o.use = .ckptLine c acc →
      let goes := fun (m : Mach) => exec (.hostWriteGo id false) s = .next (commit s ((m.finishXfers 0).endCuts s.mem 0))
      ((∃ q ∈ m.hs.ops, q.use = o.use) → goes (m.write .host o.data)) ∧
      ((∀ q ∈ m.hs.ops, q.use ≠ o.use) →
        goes (((freed 0 (fun a => a.id == acc)).write .host o.data).ckptResponse s.mem c)))) ∧
  (∀ (s : State) (id : Nat) (o : HostOp), s.m.hs.ops.find? (fun o => o.id == id && !o.write && o.issued &&
      !(match o.use with
        | .desc _ _ => true
        | _ => false)) = some o →
    let m := s.m.modHs (fun h => { h with ops := h.ops.filter (fun q => q.id != id) })
    let l := memReads s.mem.host o.addr o.len
    let freed := fun (n : Nat) (p : Access → Bool) =>
      m.modSt n (fun y => { y with outst := y.outst.filter (fun a => !(a.share == 3 && p a)) })
    let goes := fun (err : Bool) (m : Mach) => exec (.hostReadData id err) s = .next (commit s m)
    (∀ n t i k, o.use = .farRead n t i → s.m.task n t = some k → k.kind = .fetch → k.farReads = true → k.ph ≠ .fail →
      k.cancelled = false →
      let rest := k.rc.storLen - sumNat (k.got.map k.roomLen)
      let y := freed n (fun a => a.hook == .slotRead t i)
      goes true (y.failFetch n k .farerr 0 0) ∧
      (∀ b, openHead (s.m.key k.rc.keySlot) (s.m.tweakOf k) { s.m.expectOf k with block := k.got.length } rest l =
          some (.ok b) → k.got.length + 1 < k.nexp → b.length + 16 < rest → (s.m.ctx k.ctx).farLost = false →
        ∃ u v, exec (.hostReadData id false) s = .next u ∧ u.m.task n t = some v ∧ v.got = k.got ++ [b] ∧
          v.rcvd = k.rcvd + b.length + 16 ∧ v.slotsDone = k.slotsDone + 1 ∧ v.delivered = k.delivered) ∧
      (∀ st c, openHead (s.m.key k.rc.keySlot) (s.m.tweakOf k) { s.m.expectOf k with block := k.got.length } rest l =
          some (.error (st, c)) →
        goes false (y.failFetch n { k with slotsDone := k.slotsDone + 1 } st c k.got.length))) ∧
    (∀ n t k, o.use = .farBack n t → s.m.task n t = some k →
      let p := (k.sealedTotal - 1) / 64 * 64
      let same := fun (err : Bool) => err = false ∧ l = (s.m.farStream k k.blks.length).drop p
      let y := freed n (fun a => a.hook == .farBack t)
      ∀ err, (k.ph = .fail → goes err (y.endFailed n k)) ∧
        (k.ph ≠ .fail → same err → goes err ((y.modTask n t (fun t => { t with
          blks := t.blks.map (fun b => { b with st := .acked }) })).tierAcked n t)) ∧
        (k.ph ≠ .fail → ¬same err → k.readBacks = 0 →
          goes err ((y.modTask n t (fun t => { t with readBacks := 1 })).resendFar n t)) ∧
        (k.ph ≠ .fail → ¬same err → k.readBacks ≠ 0 → goes err (y.failFar n t (k.loc + p)))) ∧
    (∀ r p k b x, o.use = .xferRead r p k b → s.m.xfer r p = some x →
      let y := freed x.st (fun a => a.hook == .xferRead r p k b)
      goes true (y.failXfer r p k .rderr) ∧ goes false (y.xferData r p k b l) ∧
      (x.mode = .copy → b = false → x.dstHost = false → ∃ u, exec (.hostReadData id false) s = .next u ∧
        (u.m.st x.st).acc = (s.m.st x.st).acc ++ [{
          id := (s.m.st x.st).nextId, share := 1, cls := x.cls, ctx := x.desc.ring / 4, chan := 7, cost := fabCost (x.dst + k)
          addr := x.dst + k, len := l.length, data := placed (x.dst + k) l, write := true, posted := x.posted
          hook := .xferWrite x.desc.ring x.desc.pos k }])) ∧
    (∀ r p x, o.use = .xferBack r p → s.m.xfer r p = some x → x.desc = { ring := r, pos := p } → l = x.backLine → x.cuts = [] →
      x.count ≤ x.issued → x.stop = false → x.fail = none → x.differ = none → (s.m.chan (8 * x.st + 7)).wrErr = false →
      x.posted = true ∨ s.m.writesOut x.st = false → (∀ a ∈ (s.m.st x.st).acc, a.hook ≠ .xferBack r p) →
      (∀ a ∈ (s.m.st x.st).outst, a.hook = .xferBack r p → a.share = 3) →
      ∃ u e, exec (.hostReadData id false) s = .next u ∧ u.m.hs.events = s.m.hs.events ++ [e] ∧ e.desc = x.desc ∧
        e.status = .ok ∧ e.detail = 0 ∧ u.m.hs.xfers = s.m.hs.xfers.filter (fun y => y.desc != x.desc)) ∧
    (∀ c k, o.use = .ckptBack c → (s.m.ctx c).capture = some k → l = k.header.drop 4032 → (s.m.st 0).cuts = [] →
      ∃ u e, exec (.hostReadData id false) s = .next u ∧ (u.m.ctx c).capture = none ∧ u.m.hs.events = s.m.hs.events ++ [e] ∧
        e.desc = k.desc ∧ e.status = .ok ∧ e.detail = min k.total 0xFFFFFFFF)) ∧
  (∀ (s : State) (a : W64), s.Quiet → exec (.snoop a) s = s.to (s.m.modHs (fun h => { h with lastSnoop := some a })))

/-- Doorbells: an index within the bounds of its ring is taken, and nothing else of the ring changes, but that entries which
waited for a free slot go out as R345 states. One out of bounds
leaves the indices, halts a RUNNING ring with VIOL_DBELL, raises the gatehouse's cause 33 and vector 30, and is logged. A
command doorbell to a ring that does not run, and a completion doorbell to a DISABLED one, are ignored and logged; apart
from these, a completion doorbell of a HALTED ring out of bounds is ignored and logged (the model's choice, log entry 78).
-/
def Obligations.DoorbellsJudged : Prop :=
  (∀ (s : State) (r : Nat) (ix : W32), r < 16 → s.Quiet →
    let x := s.m.ring r
    (x.state = .running → ixDiff x.prod x.cons ≤ ixDiff ix.toNat x.cons → ixDiff ix.toNat x.cons ≤ x.size →
      ∃ t, exec (.uzDbell r ix) s = .next t ∧ RingBecomes s t r { x with prod := ix.toNat, bell := ix.toNat }) ∧
    (x.state ≠ .disabled → ixDiff ix.toNat x.cqCons ≤ ixDiff x.cqProd x.cqCons →
      exec (.uzCqdbell r ix) s = .next (commit s ((s.m.modRing r (fun g => { g with
        cqCons := ix.toNat, cqBell := ix.toNat })).flushEntries r)) ∧
      (x.heldEntries = [] →
        ∃ t, exec (.uzCqdbell r ix) s = .next t ∧ RingBecomes s t r { x with cqCons := ix.toNat, cqBell := ix.toNat })) ∧
    (∀ c, c < 4 → (s.m.rpt c).state = .running →
      ixDiff ix.toNat (s.m.rpt c).cons ≤ ixDiff (s.m.rpt c).prod (s.m.rpt c).cons →
      exec (.uzRptdbell c ix) s = s.to (s.m.modRpt c (fun g => { g with cons := ix.toNat, bell := ix.toNat })))) ∧
  (∀ (s : State) (r : Nat) (ix : W32), r < 16 → s.Quiet →
    let x := s.m.ring r
    let halted := ((s.m.modRing r (fun g => { g with state := .halted, haltSt := .violDbell })).setIrq 33).raiseVec 30
    let log := fun (m : Mach) => m.logv {
      status := .violDbell, src := 5, unit := r, ctx := some (r / 4), foff := 0x1000 + 8 * r, value := ix.toNat }
    let cqLog := fun (m : Mach) => m.logv {
      status := .violDbell, src := 6, unit := r, ctx := some (r / 4), foff := 0x1080 + 8 * r, value := ix.toNat }
    (x.state = .running → (ixDiff ix.toNat x.cons < ixDiff x.prod x.cons ∨ x.size < ixDiff ix.toNat x.cons) →
      exec (.uzDbell r ix) s = s.to (log halted)) ∧
    (x.state ≠ .running → exec (.uzDbell r ix) s = s.to (log s.m)) ∧
    (x.state = .running → ixDiff x.cqProd x.cqCons < ixDiff ix.toNat x.cqCons →
      exec (.uzCqdbell r ix) s = s.to (cqLog halted)) ∧
    (x.state = .disabled → exec (.uzCqdbell r ix) s = s.to (cqLog s.m))) ∧
  (∀ (s : State) (r : Nat) (ix : W32), r < 16 → s.Quiet → (s.m.ring r).state = .halted →
    ixDiff (s.m.ring r).cqProd (s.m.ring r).cqCons < ixDiff ix.toNat (s.m.ring r).cqCons →
    exec (.uzCqdbell r ix) s = s.to (s.m.logv {
      status := .violDbell, src := 6, unit := r, ctx := some (r / 4), foff := 0x1080 + 8 * r, value := ix.toNat }))

/-- ENABLE, DISABLE and RESTART of a command ring, and the sequencer load they may wait for, whose header is read as class 2
traffic of S0. SEQUENCER_LOAD_DONE: a faulty image is ignored and logged and the slot stays empty; a good one fills the
slot, empties event queues and program memories, lets the posts that wait in, and the rings that waited are enabled. Of a
report ring they change the report ring alone, whose doorbell's violations halt it or are ignored. A RESTART of a ring that
is not HALTED or has a descriptor in flight, one of 4 B, and one of another size than 8 B, is ignored and logged. (VALUE of
a refused RESTART: the model's choice, log entry 48; an image that cannot be read: log entry 102.) -/
def Obligations.RingControl : Prop :=
  (∀ (s : State) (r : Nat) (index : W32), r < 16 → s.Quiet →
    let x := s.m.ring r
    (x.state = .disabled → s.m.hs.seqSlot.isSome = true → x.heldEntries = [] →
      ∃ t, exec (.enable r) s = .next t ∧ t.m.ring r = { x with
        state := .running, haltSt := .ok, prod := 0, cons := 0, cqProd := 0, cqCons := 0, dispend := false } ∧
      (∀ k, k ≠ r → t.m.ring k = s.m.ring k) ∧ t.m.sts = s.m.sts ∧ t.m.ctxs = s.m.ctxs) ∧
    (x.state = .disabled → s.m.hs.seqSlot = none →
      let m := s.m.modHs (fun h => { h with seqWait := if h.seqWait.contains r then h.seqWait else h.seqWait ++ [r] })
      (s.m.hs.seqLoading = true → exec (.enable r) s = s.to m) ∧
      (s.m.hs.seqLoading = false → exec (.enable r) s =
        s.to ((m.modHs (fun h => { h with seqLoading := true, seqImage := [] })).read2 0 0 (s.m.fabAddr 0) 64 .seqRead))) ∧
    (x.state ≠ .disabled → exec (.enable r) s =
      s.to (s.m.logv { status := .violCfg, src := 8, foff := 0x828 + 64 * r, value := 1 })) ∧
    (x.state ≠ .disabled → x.descs = [] →
      ∃ t, exec (.disable r) s = .next t ∧ RingBecomes s t r { x with state := .disabled, dispend := false }) ∧
    (x.state ≠ .disabled → x.descs ≠ [] →
      ∃ t, exec (.disable r) s = .next t ∧ RingBecomes s t r { x with dispend := true }) ∧
    (x.state = .halted → x.descs = [] → x.heldEntries = [] →
      ∃ t, exec (.restart r index 8) s = .next t ∧ t.m.ring r = { x with
        state := .running, haltSt := .ok, prod := index.toNat, cons := index.toNat } ∧
      (∀ k, k ≠ r → t.m.ring k = s.m.ring k) ∧ t.m.sts = s.m.sts ∧ t.m.ctxs = s.m.ctxs) ∧
    (x.state ≠ .halted ∨ x.descs ≠ [] → exec (.restart r index 8) s =
      s.to (s.m.logv { status := .violCfg, src := 8, foff := 0x828 + 64 * r, value := 3 + index.toNat * 2 ^ 32 }))) ∧
  (∀ (s : State), s.m.hs.seqLoading = true → (s.m.st 0).pwr = .active → s.m.hs.seqImage ≠ [] →
    s.m.pendingHook (· == .seqRead) = false →
    let img := memWrites [] s.m.hs.seqImage
    let head := memReads img (s.m.fabAddr 0) 64
    let whole := memReads img (s.m.fabAddr 0) (min 65536 (rdNat head 8 4))
    let m := s.m.modHs (fun h => { h with seqLoading := false, seqWait := [], seqImage := [] })
    let filled := overList (fun (s : Mach) n => (s.modSt n (fun x => { x with evq := [], progMem := [], progEcc := [] })).letIn n)
      (m.modHs (fun h => { h with seqSlot := some whole })) (List.range 6)
    (∀ o v, s.Quiet → seqFault head whole = some (o, v) → exec .sequencerLoadDone s =
      s.to (m.logv { status := .violCfg, src := 0, foff := o, value := v })) ∧
    (seqFault head whole = none → exec .sequencerLoadDone s = .next (commit s
      (overList Mach.enableNow (if s.m.hs.att = .attached then filled else filled.resumeHost) s.m.hs.seqWait)))) ∧
  (∀ (s : State) (c : Nat) (index : W32), c < 4 → s.Quiet →
    let x := s.m.rpt c
    let log := fun (m : Mach) => m.logv {
      status := .violDbell, src := 6, unit := 16 + c, ctx := some c, foff := 0x1100 + 8 * c, value := index.toNat }
    (x.state = .disabled → s.m.hs.seqSlot.isSome = true → x.heldReports = [] → exec (.enable (16 + c)) s =
      s.to (s.m.modRpt c (fun g => { g with
        state := .running, haltSt := .ok, prod := 0, cons := 0, seq := 0, dispend := false }))) ∧
    (x.state ≠ .disabled → exec (.enable (16 + c)) s =
      s.to (s.m.logv { status := .violCfg, src := 8, foff := 0xC28 + 64 * c, value := 1 })) ∧
    (exec (.disable (16 + c)) s = s.to (s.m.modRpt c (fun g => { g with state := .disabled, dispend := false }))) ∧
    (x.state = .halted → exec (.restart (16 + c) index 8) s = s.to (s.m.modRpt c (fun g => { g with
      state := .running, haltSt := .ok, prod := index.toNat, cons := index.toNat }))) ∧
    (x.state ≠ .halted → exec (.restart (16 + c) index 8) s =
      s.to (s.m.logv { status := .violCfg, src := 8, foff := 0xC28 + 64 * c, value := 3 + index.toNat * 2 ^ 32 })) ∧
    (x.state ≠ .running → exec (.uzRptdbell c index) s = s.to (log s.m)) ∧
    (x.state = .running → ixDiff x.prod x.cons < ixDiff index.toNat x.cons → exec (.uzRptdbell c index) s =
      s.to (log (((s.m.modRpt c (fun g => { g with state := .halted, haltSt := .violDbell })).setIrq 33).raiseVec 30)))) ∧
  (∀ (s : State) (r size : Nat) (index : W32), r < 20 → s.Quiet →
    let off := (if r < 16 then 0x800 + 64 * r else 0xC00 + 64 * (r - 16)) + 0x28
    (size = 4 → exec (.restart r index size) s =
      s.to (s.m.logv { status := .violCfg, src := 8, foff := off, value := 3 })) ∧
    (size ≠ 4 → size ≠ 8 → exec (.restart r index size) s =
      s.to (s.m.logv { status := .violMmio, src := 8, foff := off, value := 3 + index.toNat * 2 ^ 32 })))

/-- The host attachment: ATTACH from DETACHED attaches, issues what waits, marks the held entries, shows REATTACH and raises
vector 31, and changes no context, key or register; else it is ignored and logged. DETACH, a reset of the link and HOLDING
for UZ_HOST_TMO detach: every ring is DISABLED, no host traffic is left, HOSTRESET shows, vector 31 is raised, and (no task
and no capture being under way) transfers with a host operand stop with HOSTLOSS, far tiers are lost, their records LOST and
the steps that had any ABORTING. The ports move the traffic or make the attachment HOLDING, and back. HELD_ENTRY_TIMEOUT:
the held entries of a ring that has stayed DISABLED are dropped and counted. MSIX_UNMASK: the mask is clear, and a message
that waited for it goes out. (PORTCHG at every change: log entry 79; the order of traffic issued again: log entry 104.) -/
def Obligations.HostAttachment : Prop :=
  (∀ (s : State) (p : Nat), p < 2 →
    (s.m.hs.att = .detached → exec .attach s = .next (commit s s.m.attachHost) ∧ ∃ t, exec .attach s = .next t ∧
      t.m.hs.att = .attached ∧ t.m.hs.reattach = true ∧ t.m.hs.attachAge = 0 ∧ (∀ o ∈ t.m.hs.ops, o.issued = true) ∧
      (∀ r, r < 16 → (s.m.ring r).state = .disabled → t.m.ring r = { s.m.ring r with
        heldEntries := (s.m.ring r).heldEntries.map (fun e => { e with held := true, late := true }) }) ∧
      (31 ∈ s.m.msix.unmasked → aget 0 t.m.msix.sentAt 31 = s.m.aclk + 1) ∧
      (31 ∉ s.m.msix.unmasked → 31 ∈ t.m.msix.pendingVecs) ∧ t.m.ctxs = s.m.ctxs ∧ t.m.keys = s.m.keys ∧ t.m.regs = s.m.regs) ∧
    (s.Quiet → s.m.hs.att ≠ .detached → exec .attach s =
      s.to (s.m.logv { status := .violCfg, src := 8, foff := 0x70, value := 1 })) ∧
    (s.m.hs.att ≠ .detached → exec .detach s = .next (commit s (s.m.detachHost s.mem)) ∧
      ((∀ n, (s.m.st n).tasks = []) → (∀ c, (s.m.ctx c).capture = none) → (s.m.hs.xfers.map (fun x => x.desc)).Nodup →
        ∃ t, exec .detach s = .next t ∧ t.m.hs.att = .detached ∧ t.m.hs.hostReset = true ∧ t.m.hs.ops = [] ∧
          (∀ r, r < 16 → (t.m.ring r).state = .disabled) ∧ (∀ c, c < 4 → (t.m.rpt c).state = .disabled) ∧
          (31 ∈ s.m.msix.unmasked → 31 ∈ t.m.msix.heldVecs) ∧ (31 ∉ s.m.msix.unmasked → 31 ∈ t.m.msix.pendingVecs) ∧
          (∀ x ∈ t.m.hs.xfers, x.srcHost = true ∨ x.dstHost = true → x.stop = true ∧ x.fail = some .hostloss) ∧
          (∀ x ∈ s.m.hs.xfers, x.srcHost = true ∨ x.dstHost = true →
            x.posted = true ∨ (∀ a ∈ (s.m.st x.st).outst, a.write = true → a.chan = 7 →
              ∃ o, a.hook = .xferWrite x.desc.ring x.desc.pos o) → (∀ a ∈ (s.m.st x.st).acc ++ (s.m.st x.st).outst, a.share = 3) →
            ∃ e ∈ t.m.hs.events, e.desc = x.desc ∧ e.status = .hostloss) ∧
          (∀ c, c < 4 → (t.m.ctx c).farLost = true) ∧
          (∀ c g k q, c < 4 → s.m.recInfo c g k = some q → q.rc.state = .resident → q.rc.tier = 2 → q.lost = none →
            (∃ v, t.m.recInfo c g k = some v ∧ v.rc = { q.rc with state := .lost } ∧ v.lost = some .hostloss) ∧
            ((s.m.ctx c).state = .running ∨ (s.m.ctx c).state = .draining → (t.m.ctx c).state = .aborting ∧
              (t.m.ctx c).abortSt = some .hostloss)))) ∧
    (s.Quiet → s.m.hs.att = .detached → exec .detach s = .next s) ∧
    (let m : Mach := { s.m with msix := { sent := s.m.msix.sent, sentAt := s.m.msix.sentAt } }
     (s.m.hs.att ≠ .detached → exec (.hostLinkReset p) s = .next (commit s (m.detachHost s.mem))) ∧
     (s.Quiet → s.m.hs.att = .detached → exec (.hostLinkReset p) s = s.to m)) ∧
    (s.m.hs.att = .holding → s.m.hostTmo ≤ s.m.hs.holdAge →
      exec .hostTimeout s = .next (commit s (s.m.detachHost s.mem))) ∧
    (s.Quiet → s.m.hs.portUp p = true → s.m.hs.portUp (1 - p) = true → exec (.cxlPortDown p) s =
      s.to ((((s.m.modHs (fun h => h.setPort p false)).modHs (fun h => { h with
        ops := reissueOrder (h.ops.map (fun o => if o.port = p then { o with port := 1 - p } else o)) })).markSet (w1cHost 8)).raiseVec 31)) ∧
    (s.Quiet → s.m.hs.portUp p = true → s.m.hs.portUp (1 - p) = false → s.m.hs.att = .attached →
      exec (.cxlPortDown p) s = s.to ((((s.m.modHs (fun h => h.setPort p false)).modHs (fun h => { h with
        att := .holding, holdAge := 0, ops := h.ops.map (fun o => { o with issued := false }) })).markSet (w1cHost 8)).raiseVec
          31)) ∧
    (s.m.hs.portUp p = false → s.m.hs.att = .holding → exec (.cxlPortUp p) s =
      .next (commit s (((s.m.modHs (fun h => h.setPort p true)).resumeHost.markSet (w1cHost 8)).raiseVec 31))) ∧
    (s.Quiet → s.m.hs.portUp p = false → s.m.hs.att ≠ .holding → exec (.cxlPortUp p) s =
      s.to (((s.m.modHs (fun h => h.setPort p true)).markSet (w1cHost 8)).raiseVec 31))) ∧
  ((∀ (s : State) (r : Nat), r < 16 → s.m.hs.att ≠ .detached → (s.m.ring r).state = .disabled →
    (s.m.ring r).heldEntries ≠ [] → s.m.hostTmo ≤ s.m.hs.attachAge →
    ∃ t, exec (.heldEntryTimeout r) s = .next t ∧ (t.m.ring r).heldEntries = [] ∧
      t.m.hs.heldDrop = satAdd 16 s.m.hs.heldDrop (s.m.ring r).heldEntries.length ∧
      (∀ k, k ≠ r → t.m.ring k = s.m.ring k) ∧ t.m.sts = s.m.sts ∧ t.m.ctxs = s.m.ctxs) ∧
  (∀ (s : State) (v : Nat), v < 64 → s.Quiet → v ∉ s.m.msix.unmasked →
    let m := { s.m with msix := { s.m.msix with
      unmasked := s.m.msix.unmasked ++ [v], pendingVecs := s.m.msix.pendingVecs.filter (· != v) } }
    exec (.msixUnmask v) s = s.to (if v ∈ s.m.msix.pendingVecs then m.sendVec v else m)))

/-! ## The violation log -/

/-- VLOG_ENTRY_WRITE: the oldest waiting entry takes number WR and the slot WR mod 512, and WR rises by 1; with 512
entries unread nothing is written, so that no unread entry is lost. -/
def Obligations.LogNeverOverwrites : Prop :=
  ∀ (s : State) (e : VEntry) (es : List VEntry), s.Quiet → s.m.vlog.waiting = e :: es →
    (s.m.vlog.unread = 512 → exec .vlogEntryWrite s = .next s) ∧
    (s.m.vlog.unread < 512 → s.m.vlog.wr < 65536 → s.m.vlog.rd < 65536 →
      ∃ t, exec .vlogEntryWrite s = .next t ∧ t.m.vlog.unread = s.m.vlog.unread + 1 ∧
        t.m.vlog.wr = (s.m.vlog.wr + 1) % 65536 ∧ t.m.vlog.waiting = es ∧
        aget {} t.m.vlog.slots (s.m.vlog.wr % 512) = { e with seq := s.m.vlog.wr } ∧
        (∀ k, k < s.m.vlog.unread → aget {} t.m.vlog.slots ((s.m.vlog.rd + k) % 65536 % 512) =
          aget {} s.m.vlog.slots ((s.m.vlog.rd + k) % 65536 % 512)) ∧
        { t with m := { t.m with vlog := s.m.vlog } } = s)

/-! ## Registers -/

/-- WAKE, CLRMAX, UZ_CHAN_ABORT, NANTRAP_CLEAR, UZ_GL_EPOCH and UZ_TEST_CTL. UZ_VLOG_PTR: an RD that leaves 0 to 512
entries unread is taken, another is ignored and logged. VLOG_MARK: vector 30 with cause 34, once for each rise to
MARK. LOAD and CLEAR: the staged key fills the slot, or the slot is empty; a slot in use, or a staged key whose halves are
equal, is refused and logged; either way the staging buffer is 0 after it. (A TRAP set in the same aclk and a write of the
same epoch: log entries 46 and 81.) -/
def Obligations.OneShotWrites : Prop :=
  (∀ (s : State), s.Quiet →
    (∀ m, m < 64 → exec (.wake m) s =
      s.to (overList (fun s n => if m.testBit n then s.modSt n Station.askedAwake else s) s.m (List.range 6))) ∧
    (exec .clrmax s = s.to { s.m with shed := { s.m.shed with maxLevel := s.m.shed.level } }) ∧
    (∀ v : W64, v.toNat % 64 < 48 → exec (.uzChanAbort v) s = .next (commit s (s.m.abortChan s.mem (v.toNat % 64)))) ∧
    (∀ v : W64, 48 ≤ v.toNat % 64 → exec (.uzChanAbort v) s =
      s.to (s.m.logv { status := .violCfg, src := 8, foff := 0x98, value := v.toNat })) ∧
    (∀ c, c < 4 → ∃ t, exec (.nantrapClear c) s = .next t ∧ ContextBecomes s t c { s.m.ctx c with
      trap := { (s.m.ctx c).trap with
        valid := (s.m.ctx c).trap.valid && (s.m.ctx c).trap.aclk == s.m.aclk } }) ∧
    (∀ v : W64, s.m.regs.locked = true → v &&& 0xFFFF = s.m.regs.glEpoch → exec (.uzGlEpoch v) s = .next s) ∧
    (∀ v : W64, s.m.regs.locked = true → v &&& 0xFFFF ≠ s.m.regs.glEpoch &&& 0xFFFF → exec (.uzGlEpoch v) s =
      s.to (s.m.logv { status := .violCfg, src := 8, foff := 0x60, value := v.toNat })) ∧
    (∀ v : W64, s.m.regs.locked = false → v &&& 0xFFFF ≠ 0 → exec (.uzGlEpoch v) s =
      s.to ((overList (fun m l => m.modLink l (fun k => { k with helloSent := false }))
        { s.m with regs := { s.m.regs with glEpoch := v &&& 0xFFFF } } (List.range 12)).sendHellos)) ∧
    (∀ v : W64, exec (.uzTestCtl v) s = s.to { s.m with regs := { s.m.regs with
      testCtl := v &&& 1
      shedCtl := if v &&& 1 = 0 then s.m.regs.shedCtl &&& ~~~0x7000000 else s.m.regs.shedCtl } })) ∧
  (∀ (s : State) (rd : W16), s.Quiet →
    ((s.m.vlog.wr + 65536 - rd.toNat) % 65536 ≤ 512 →
      exec (.uzVlogPtr rd) s = s.to { s.m with vlog := { s.m.vlog with
        rd := rd.toNat
        markDue := s.m.vlog.markDue || decide (s.m.vlog.mark ≠ 0 ∧ s.m.vlog.unread < s.m.vlog.mark ∧
          s.m.vlog.mark ≤ (s.m.vlog.wr + 65536 - rd.toNat) % 65536) } }) ∧
    (512 < (s.m.vlog.wr + 65536 - rd.toNat) % 65536 → exec (.uzVlogPtr rd) s =
      s.to (s.m.logv { status := .violCfg, src := 8, foff := 0x80, value := rd.toNat })) ∧
    (s.m.vlog.markDue = true → exec .vlogMark s =
      s.to (({ s.m with vlog := { s.m.vlog with markDue := false } }.setIrq 34).raiseVec 30)) ∧
    (s.m.vlog.markDue = false → exec .vlogMark s = .next s)) ∧
  (∀ (s : State) (k : Nat), k < 4 → s.Quiet →
    let clear := fun (m : Mach) => s.to { m with regs := { m.regs with keyData := [] } }
    let equal := s.m.stagedKey.take 32 = s.m.stagedKey.drop 32
    (s.m.keyInUse k = false → ¬ equal → exec (.load k) s = clear { s.m with keys := aset none s.m.keys k (some s.m.stagedKey) }) ∧
    (s.m.keyInUse k = true ∨ equal → exec (.load k) s =
      clear (s.m.logv { status := .violCfg, src := 8, foff := 0xA0, value := k + 256 })) ∧
    (s.m.keyInUse k = false → exec (.clear k) s = clear { s.m with keys := aset none s.m.keys k none }) ∧
    (s.m.keyInUse k = true → exec (.clear k) s =
      clear (s.m.logv { status := .violCfg, src := 8, foff := 0xA0, value := k + 512 })))

/-- An MMIO access of another size than 4 B or 8 B, or not naturally aligned, is logged as VIOL_MMIO; a write of it changes
no register and a read of it answers 0. At an address above every register a write has no effect and a read answers 0, and
nothing is logged. REGISTER_WRITE and REGISTER_READ_LATCH: an 8
B write of a read-write register is what an 8 B read of it then answers, for UZ_CHAN_IEN with its reserved bits 0; a 4
B write leaves the other half. A write of UZ_BW_GRANT in which every RATE is 1 to 16 is taken while no plan has been
armed since reset; a write with another RATE is ignored and logged; once locked a write that changes the fields is
ignored and logged. -/
def Obligations.RegisterAccesses : Prop :=
  (∀ (s : State) (off size : Nat) (v : W64), s.Quiet → ((size ≠ 4 ∧ size ≠ 8) ∨ off % size ≠ 0) →
    exec (.registerWrite off size v) s = s.to (s.m.logv { status := .violMmio, src := 8, foff := off, value := v.toNat }) ∧
    exec (.registerReadLatch off size) s =
      s.to { s.m.logv { status := .violMmio, src := 8, foff := off, value := 0 } with lastRead := 0 }) ∧
  (∀ (s : State) (off : Nat) (v : W64), s.Quiet → 0xE000 ≤ off → off < 0x10000 →
    (∀ size, size = 4 ∨ size = 8 → off % size = 0 → exec (.registerWrite off size v) s = .next s) ∧
    (off % 8 = 0 → ∃ t, exec (.registerReadLatch off 8) s = .next t ∧ t.m.lastRead = 0 ∧
      { t with m := { t.m with latch := s.m.latch, lastRead := s.m.lastRead } } = s)) ∧
  (∀ (s : State) (v : W64), s.Quiet →
    ∃ t u, exec (.registerWrite 0x90 8 v) s = .next t ∧ exec (.registerReadLatch 0x90 8) t = .next u ∧
      u.m.lastRead = v &&& 0xFFFFFFFFFFFF ∧
      { t with m := { t.m with regs := s.m.regs } } = s ∧ { t.m.regs with chanIen := s.m.regs.chanIen } = s.m.regs ∧
      { u with m := { u.m with latch := t.m.latch, lastRead := t.m.lastRead } } = t ∧
    ∃ w, exec (.registerWrite 0x94 4 v) s = .next w ∧
      w.m.regs.chanIen = (s.m.regs.chanIen &&& 0xFFFFFFFF) ||| ((v <<< 32) &&& 0xFFFF00000000) ∧
      { w with m := { w.m with regs := s.m.regs } } = s ∧ { w.m.regs with chanIen := s.m.regs.chanIen } = s.m.regs) ∧
  (∀ (s : State) (v : W64), s.Quiet →
    let new := v &&& 0x1F1F1F1F1F1F
    let log := s.to (s.m.logv { status := .violCfg, src := 8, foff := 0x20, value := v.toNat })
    (s.m.regs.locked = false → grantOk new = true →
      exec (.registerWrite 0x20 8 v) s = s.to { s.m with regs := { s.m.regs with bwGrant := new } }) ∧
    (grantOk new = false → exec (.registerWrite 0x20 8 v) s = log) ∧
    (s.m.regs.locked = true → grantOk new = true → s.m.regs.bwGrant &&& 0x1F1F1F1F1F1F = s.m.regs.bwGrant →
      new ≠ s.m.regs.bwGrant → exec (.registerWrite 0x20 8 v) s = log))

/-- Values of the registers. UZ_BW_SPLIT, UZ_SHED_THR, UZ_GL_CTL, UZ_GL_TMO and UZ_HOST_TMO take a value within their bounds
while not locked, log another, and once locked keep their fields and log a change; so do EN, HYST and HOLD of UZ_SHED_CTL,
whose FORCE is taken in test mode and raises a level below it. UZ_PWR_CTL and UZ_VLOG_CTL keep their fields. The base and
size registers of a DISABLED ring take a value within their bounds, and log any other write. UZ_IRQ_STAT, UZ_HOST_STAT and
PEND of UZ_CHAN_STAT: a 1 clears its cause, but for one set in this aclk. A configuration set: a shadow register takes its
fields while no swap is pending, an active one in IDLE, and then reads as them, UZ_STALL_THR once its first word is read; a
write to a closed set is logged for every register of it. UZ_RPL_CTL that enables capture in the active set makes the
reserve EMPTY. (What "set in this aclk" is: log entry 46.) -/
def Obligations.RegisterValues : Prop :=
  (∀ (s : State) (v : W64), s.Quiet →
    let f := fun (hi lo : Nat) => W64.bits v hi lo
    let bad := fun (off : Nat) => s.to (s.m.logv { status := .violCfg, src := 8, foff := off, value := v.toNat })
    let takes := fun (off : Nat) (mask old : W64) (ok : Bool) (r : Regs) =>
      (ok = false → exec (.registerWrite off 8 v) s = bad off) ∧
      (ok = true → s.m.regs.locked = false → exec (.registerWrite off 8 v) s = s.to { s.m with regs := r }) ∧
      (ok = true → s.m.regs.locked = true → old &&& mask = old →
        exec (.registerWrite off 8 v) s = (if v &&& mask = old then .next s else bad off))
    takes 0x28 0x1F1F1F s.m.regs.bwSplit
      (decide (f 4 0 + f 12 8 + f 20 16 = 16 ∧ f 4 0 ≠ 0 ∧ f 12 8 ≠ 0)) { s.m.regs with bwSplit := v &&& 0x1F1F1F } ∧
    takes 0x40 0xFFFFFFFFFF s.m.regs.shedThr
      (decide (f 15 8 < f 7 0 ∧ f 23 16 < f 15 8 ∧ f 31 24 < f 23 16 ∧ f 39 32 < f 31 24 ∧ 90 < f 39 32))
      { s.m.regs with shedThr := v &&& 0xFFFFFFFFFF } ∧
    takes 0x58 0xFF1F01FF s.m.regs.glCtl (decide (f 20 16 ≠ 0 ∧ f 20 16 ≤ 16)) { s.m.regs with glCtl := v &&& 0xFF1F01FF } ∧
    takes 0x68 0xFFFFFFFF s.m.regs.glTmo (decide (5000 ≤ f 31 0 ∧ f 31 0 ≤ 5000000))
      { s.m.regs with glTmo := v &&& 0xFFFFFFFF } ∧
    takes 0x78 0xFFFFFFFF s.m.regs.hostTmo (decide (50000 ≤ f 31 0 ∧ f 31 0 ≤ 50000000))
      { s.m.regs with hostTmo := v &&& 0xFFFFFFFF } ∧
    (f 61 56 = 0 → exec (.registerWrite 0x30 8 v) s =
      s.to { s.m with regs := { s.m.regs with pwrCtl := v &&& 0xFFFF00FF033F } }) ∧
    (f 25 16 ≤ 512 → exec (.registerWrite 0x88 8 v) s =
      s.to { s.m with vlog := { s.m.vlog with mark := f 25 16, sel := f 8 0 } }) ∧
    (512 < f 25 16 → exec (.registerWrite 0x88 8 v) s = bad 0x88) ∧
    (let ok := f 11 8 ≠ 0 ∧ f 23 16 ≠ 0 ∧ (f 26 24 = 0 ∨ s.m.testMode = true)
     let new := v &&& 0x7FF0F0F
     let old := s.m.regs.shedCtl
     let kept := (old &&& 0xFF0F0F) ||| (new &&& 0x7000000)
     let set := fun (m : Mach) (x : W64) => { m with regs := { m.regs with shedCtl := x } }
     let noRise := s.m.shed.off = true ∨ min 5 (f 26 24) ≤ s.m.shed.level
     (¬ok → exec (.registerWrite 0x48 8 v) s = bad 0x48) ∧
     (ok → s.m.regs.locked = false → new &&& 0xF = old &&& 0xF →
       (noRise → exec (.registerWrite 0x48 8 v) s = s.to (set s.m new)) ∧
       (¬noRise → exec (.registerWrite 0x48 8 v) s = .next (commit s ((set s.m new).setLevel (min 5 (f 26 24)))))) ∧
     (ok → s.m.regs.locked = true → noRise →
       (new &&& 0xFF0F0F = old &&& 0xFF0F0F → exec (.registerWrite 0x48 8 v) s = s.to (set s.m kept)) ∧
       (new &&& 0xFF0F0F ≠ old &&& 0xFF0F0F → exec (.registerWrite 0x48 8 v) s = s.to (set (s.m.logv {
         status := .violCfg, src := 8, foff := 0x48, value := v.toNat }) kept))))) ∧
  (∀ (s : State) (r : Nat) (v : W64), r < 16 → s.Quiet →
    let f := fun (hi lo : Nat) => W64.bits v hi lo
    let x := s.m.ring r
    let takes := fun (o : Nat) (ok : Prop) (y : Ring) =>
      (x.state = .disabled → ok → ∃ t, exec (.registerWrite (0x800 + 64 * r + o) 8 v) s = .next t ∧ RingBecomes s t r y) ∧
      (x.state ≠ .disabled ∨ ¬ok → exec (.registerWrite (0x800 + 64 * r + o) 8 v) s =
        s.to (s.m.logv { status := .violCfg, src := 8, foff := 0x800 + 64 * r + o, value := v.toNat }))
    takes 0x00 (f 11 0 = 0) { x with base := x.base / 2 ^ 32 * 2 ^ 32 + f 31 12 * 4096 } ∧
    takes 0x08 (f 31 25 = 0) { x with base := f 24 0 * 2 ^ 32 + x.base % 2 ^ 32 } ∧
    takes 0x10 (6 ≤ f 4 0 ∧ f 4 0 ≤ 16) { x with log2 := f 4 0 } ∧
    takes 0x18 (f 11 0 = 0) { x with cqBase := x.cqBase / 2 ^ 32 * 2 ^ 32 + f 31 12 * 4096 } ∧
    takes 0x20 (f 31 25 = 0) { x with cqBase := f 24 0 * 2 ^ 32 + x.cqBase % 2 ^ 32 }) ∧
  (∀ (s : State) (c : Nat) (v : W64), c < 4 → s.Quiet →
    let f := fun (hi lo : Nat) => W64.bits v hi lo
    let x := s.m.rpt c
    let takes := fun (o : Nat) (ok : Prop) (y : RptRing) =>
      (x.state = .disabled → ok → exec (.registerWrite (0xC00 + 64 * c + o) 8 v) s = s.to (s.m.modRpt c (fun _ => y))) ∧
      (x.state ≠ .disabled ∨ ¬ok → exec (.registerWrite (0xC00 + 64 * c + o) 8 v) s =
        s.to (s.m.logv { status := .violCfg, src := 8, foff := 0xC00 + 64 * c + o, value := v.toNat }))
    takes 0x00 (f 11 0 = 0) { x with base := x.base / 2 ^ 32 * 2 ^ 32 + f 31 12 * 4096 } ∧
    takes 0x08 (f 31 25 = 0) { x with base := f 24 0 * 2 ^ 32 + x.base % 2 ^ 32 } ∧
    takes 0x10 (6 ≤ f 4 0 ∧ f 4 0 ≤ 16) { x with log2 := f 4 0 }) ∧
  (∀ (s : State) (v : W64), s.Quiet →
    (∃ t, exec (.registerWrite 0x18 8 v) s = .next t ∧
      (∀ k, k < 64 → t.m.regs.irqStat.getLsbD k = (s.m.regs.irqStat.getLsbD k && (!v.getLsbD k || s.m.justSet k))) ∧
      { t.m.regs with irqStat := s.m.regs.irqStat } = s.m.regs ∧ { t with m := { t.m with regs := s.m.regs } } = s) ∧
    (let kept := fun (b : Bool) (k : Nat) => b && (!v.getLsbD k || s.m.justSet (64 + k))
     exec (.registerWrite 0xE0 8 v) s = s.to { s.m with hs := { s.m.hs with
      portChg := kept s.m.hs.portChg 8, hostReset := kept s.m.hs.hostReset 9, reattach := kept s.m.hs.reattach 10 } }) ∧
    (∀ n, n < 48 → ∃ t, exec (.registerWrite (0x400 + 8 * n) 8 v) s = .next t ∧
      t.m.chan n = { s.m.chan n with pend := (s.m.chan n).pend && (!v.getLsbD 63 || s.m.justSet (128 + n)) } ∧
      (∀ k, k ≠ n → t.m.chan k = s.m.chan k) ∧ { t with m := { t.m with chans := s.m.chans } } = s)) ∧
  (∀ (s : State) (c x : Nat) (v : W64) (shadow : Bool), c < 4 → s.Quiet → x % 8 = 0 →
    let off := (if shadow then 0xA000 else 0x2000) + 0x1000 * c + x
    let y := s.m.ctx c
    let k := if shadow then y.shd else y.act
    let reads := fun (first : Nat) (k' : ConfigSet) => ∃ t u w, exec (.registerWrite off 8 v) s = .next t ∧
      ContextBecomes s t c (if shadow then { y with shd := k' } else { y with act := k' }) ∧
      exec (.registerReadLatch first 8) t = .next u ∧ exec (.registerReadLatch off 8) u = .next w ∧ w.m.lastRead = k'.word x
    let put := reads off
    -- offset of the register that holds the word
    let reg := if 0x50 ≤ x ∧ x < 0x60 then off - (x - 0x50) else if 0x80 ≤ x ∧ x < 0xC0 then off - (x - 0x80) else off
    (x < 0x60 ∨ (0x80 ≤ x ∧ x < 0xC0) ∨ (0x800 ≤ x ∧ x < 0x1000) → (if shadow then y.swap ≠ none else y.state ≠ .idle) →
      exec (.registerWrite off 8 v) s =
        s.to (s.m.logv { status := .violCfg, src := 8, ctx := some c, foff := reg, value := v.toNat })) ∧
    ((if shadow then y.swap = none else y.state = .idle) →
      (x = 0x00 → put { k with ctxCtl := v &&& 0x3 }) ∧ (x = 0x08 → put { k with sentCtl := v &&& 0x1F }) ∧
      (x = 0x10 → shadow = true → put { k with rplCtl := v &&& 0x7 }) ∧
      (x = 0x10 → shadow = false →
        let opens := k.rplCtl &&& 1 = 0 ∧ v &&& 1 = 1 ∧ y.reserve.state ≠ .frozen ∧
          ¬(y.reserve.closing = true ∧ y.reserve.freezeReq = true)
        (¬opens → put { k with rplCtl := v &&& 0x7 }) ∧
        (opens → ∃ t, exec (.registerWrite off 8 v) s = .next t ∧ (t.m.ctx c).act = { k with rplCtl := v &&& 0x7 } ∧
          (t.m.ctx c).reserve.state = .empty ∧ (∀ j, j ≠ c → t.m.ctx j = s.m.ctx j))) ∧
      (x = 0x18 → put { k with telCtl := v &&& 0xFF03 }) ∧ (x = 0x20 → put { k with histMask := v }) ∧
      (x = 0x28 → put { k with scaleCtl := v &&& 0x7FF }) ∧
      (x = 0x30 → W64.bits v 11 0 = 0 → put { k with telBase := v &&& 0xFFFFFFFFF000 }) ∧
      (x = 0x38 → W64.bits v 39 0 % 4096 = 0 → put { k with telSize := v &&& 0xFFFFFFFFFF }) ∧
      (x = 0x40 → W64.bits v 11 0 = 0 → put { k with rplBase := v &&& 0xFFFFFFFFF000 }) ∧
      (x = 0x48 → W64.bits v 39 0 % 4096 = 0 → put { k with rplSize := v &&& 0xFFFFFFFFFF }) ∧
      (∀ i, i < 10 → i % 2 = 0 → x = 0x80 + 4 * i → reads (off - 4 * i) { k with
        stallThr := aset 0 (aset 0 k.stallThr i (BitVec.ofNat 32 v.toNat)) (i + 1) (BitVec.ofNat 32 (v.toNat / 2 ^ 32)) }) ∧
      (∀ i, i < 256 → x = 0x800 + 8 * i → put { k with sentTab := aset 0 k.sentTab i (v &&& 0x800FFFF0000FFFFF) }) ∧
      (((x = 0x30 ∨ x = 0x40) ∧ W64.bits v 11 0 ≠ 0) ∨ ((x = 0x38 ∨ x = 0x48) ∧ W64.bits v 39 0 % 4096 ≠ 0) →
        exec (.registerWrite off 8 v) s =
          s.to (s.m.logv { status := .violCfg, src := 8, ctx := some c, foff := off, value := v.toNat }))))

/-! ## Plans -/

/-- INSTALL_VERIFIED, once all of the image is read: the first check that fails refuses the image with its status, offset,
value and order; an image that passes all of them goes into its slot, and its descriptor completes with OK, once the bed
table of a region that it opens is written. (Offsets and values where two fields fail: the model's choice, log entries 28
and 29; the orders of some checks: log entry 110.) -/
def Obligations.InstallsVerified : Prop :=
  ∀ (s : State) (i : Install), s.m.hs.loaderCur = some i → (s.m.st 0).pwr = .active → i.ph = .body →
    s.m.pendingHook (· == .loadRead) = false →
    let x := i.ld s.m
    (∀ st off order, runChecks x loaderChecks = some (st, off, order) → exec .installVerified s = .next (commit s
      (((s.m.refuseInstall i st (some off) (x.fieldAt off) order).modHs (fun h => { h with loaderCur := none })).nextInstall))) ∧
    (runChecks x loaderChecks = none → s.m.installBusy i = true → exec .installVerified s = .next (commit s
      (((s.m.refuseInstall i .ldrBusy none 0 0).modHs (fun h => { h with loaderCur := none })).nextInstall))) ∧
    (runChecks x loaderChecks = none → s.m.installBusy i = false →
      let m := s.m.placePlan i x.plan
      ((i.shadow = true ∨ (m.ctx i.ctx).opening = false) → exec .installVerified s = .next (commit s
        (((m.modHs (fun h => { h with loaderCur := none })).complete 52 i.desc .ok 0 0).nextInstall))) ∧
      (i.shadow = false → (m.ctx i.ctx).opening = true → exec .installVerified s =
        .next (commit s (m.modHs (fun h => { h with loaderCur := some { i with ph := .beds, image := [] } })))) ∧
      ∃ t, exec .installVerified s = .next t ∧
        (if i.shadow then (t.m.ctx i.ctx).shd.plan else (t.m.ctx i.ctx).act.plan) = some x.plan)

/-! ## Lodging -/

/-- LINK_UP and LINK_DOWN: a link leaves UP without a credit, and no message waits and no PUT or GET is open on it;
what was sent on it goes again. LODGING_TIMEOUT, PEER_LINK_TIMEOUT and VLIMIT_REACHED lose the peer to this device as
requester. (When the link timer starts: the model's choice, log entry 68.) -/
def Obligations.LinksAndPeers : Prop :=
  (∀ (s : State) (l dev : Nat), l < 12 → dev < 8 →
    ((s.m.link l).st ≠ 2 → exec (.linkUp l dev) s = .next (commit s ((((s.m.modLink l (fun k => { k with
      st := 2, dev, helloSent := false, helloSeen := false
      epoch := if k.dev = dev then k.epoch else none, credits := 0, tx := [], rx := [] })).wakeStation
        (agentOf l)).modPeer dev (fun p => { p with down := false, downAge := 0 })).sendHello l |>.placeReqs dev))) ∧
    (s.Quiet → (s.m.link l).st ≠ 2 → ∀ tr, exec (.linkDown l tr) s =
      s.to (s.m.modLink l (fun k => { k with st := if tr then 1 else 0 }))) ∧
    ((s.m.link l).st = 2 → ∀ tr, let m := s.m.linkCut l (if tr then 1 else 0)
      exec (.linkDown l tr) s = .next (commit s (m.sendAgain l (s.m.link l).dev)) ∧
      (m.link l).st = (if tr then 1 else 0) ∧ (m.link l).credits = 0 ∧ (m.link l).tx = [] ∧
      (∀ p ∈ m.lodge.puts, p.link ≠ l) ∧ (∀ g ∈ m.lodge.gets, g.link ≠ l))) ∧
  (∀ (s : State) (d : Nat), d < 8 →
    (∀ id r, s.m.lodge.reqs.find? (fun r => r.id == id) = some r → s.m.glTmo ≤ r.age →
      exec (.lodgingTimeout id) s = .next (commit s (s.m.losePeer s.mem r.dev 2))) ∧
    ((s.m.peer d).down = true → s.m.upLinks d = [] → s.m.glTmo ≤ (s.m.peer d).downAge →
      exec (.peerLinkTimeout d) s = .next (commit s (s.m.losePeer s.mem d 1))) ∧
    ((s.m.peer d).violDue = true → exec (.vlimitReached d) s =
      .next (commit s ((s.m.modPeer d (fun p => { p with violDue := false, haltd := true })).losePeer s.mem d 4))))

/-- LODGING_SEND: the next message of an UP link goes out with the receiver's epoch, takes its tokens and, a PUT, one
of the link's credits; the link never spends a credit it does not have. A request that goes out waits for its answer from
then; a task whose PUT goes out has begun to send, and a MORE that goes out grants its room. The agent is not idle; nothing
else changes. (Classes and order of messages: the model's choice, log entry 66.) -/
def Obligations.MessagesSent : Prop :=
  ∀ (s : State) (l i : Nat) (x : TxMsg), l < 12 → s.Quiet → (s.m.link l).st = 2 → s.m.epoch ≠ 0 →
    (s.m.st (agentOf l)).pwr = .active → s.m.nextTx l = some (i, x) → 3 * x.msg.len ≤ (s.m.link l).tokens →
    let req := x.req.bind (fun id => s.m.lodge.reqs.find? (fun r => r.id == id))
    let put := req.bind (fun r => match r.use with
      | .put n k _ => some (n, k)
      | _ => none)
    ∃ t, exec (.lodgingSend l) s = .next t ∧ t.m.link l = { s.m.link l with
        tx := (s.m.link l).tx.eraseIdx i, tokens := (s.m.link l).tokens - 3 * x.msg.len
        lastSent := some (if x.msg.op = 1 then x.msg else x.msg.withEpoch ((s.m.peer (s.m.link l).dev).epoch.getD 0))
        credits := if x.isPut then (s.m.link l).credits - 1 else (s.m.link l).credits } ∧
      (x.isPut = true → 0 < (s.m.link l).credits) ∧ (∀ k, k ≠ l → t.m.link k = s.m.link k) ∧
      t.m.lodge.reqs = s.m.lodge.reqs.map (fun r =>
        if x.req = some r.id then { r with sent := true, age := 0 } else r) ∧
      (∀ n, t.m.st n = { s.m.st n with
        idleSclk := if n = agentOf l then 0 else (s.m.st n).idleSclk
        pgAclk := if n = agentOf l then 0 else (s.m.st n).pgAclk
        tasks := (s.m.st n).tasks.map (fun k => { k with
          started := k.started || put == some (n, k.id)
          mores := if x.more = some (n, k.id) then markMore l k.mores else k.mores }) }) ∧
      { t with m := { t.m with
        sts := s.m.sts, lodge := { t.m.lodge with links := s.m.lodge.links, reqs := s.m.lodge.reqs } } } = s

/-- A lodging message of a valid OP on an UP link is taken by an ACTIVE agent, which is then not idle, waits for and wakes
one that sleeps, waits behind those that wait, and is left by one that is OFF. (A message held for a sleeping agent: log
entry 71.) -/
def Obligations.MessagesReceived : Prop :=
  ∀ (s : State) (l op : Nat) (m : LMsg) (c : Instr), l < 12 → m.payload.length % 16 = 0 → (s.m.link l).st = 2 → m.op = op →
    (c, op) ∈ [(Instr.hello l m, 1), (.claim l m, 2), (.unclaim l m, 3), (.put l m, 4), (.putAck l m, 5), (.get l m, 6),
      (.more l m, 7), (.data l m, 8), (.free l m, 9), (.release l m, 10), (.ack l m, 11), (.nak l m, 12), (.evict l m, 13)] →
    let w := s.m.wakeStation (agentOf l)
    ((s.m.st (agentOf l)).pwr = .active → (s.m.link l).rx = [] →
      (op = 2 ∨ op = 3 ∨ op = 4 ∨ op = 6 ∨ op = 7 ∨ op = 9 ∨ op = 10 → exec c s = .next (commit s (w.innRequest l m))) ∧
      (op = 1 ∨ op = 5 ∨ op = 8 ∨ op = 11 ∨ op = 12 ∨ op = 13 → exec c s = .next (commit s (w.answer s.mem l m)))) ∧
    (s.Quiet → (s.m.st (agentOf l)).pwr ≠ .off → ((s.m.st (agentOf l)).pwr ≠ .active ∨ (s.m.link l).rx ≠ []) →
      exec c s = s.to (w.modLink l (fun k => { k with rx := k.rx ++ [m] }))) ∧
    ((s.m.st (agentOf l)).pwr = .clockGated ∨ (s.m.st (agentOf l)).pwr = .powerGated →
      (w.st (agentOf l)).pwr = .waking) ∧
    (s.Quiet → (s.m.st (agentOf l)).pwr = .off → exec c s = .next s)

/-- What lodging messages leave. A request that fails a check of every request is answered with NAK. CLAIM: the lowest free
claim index holds the window, and ACK. UNCLAIM: the claim is gone, and ACK. A record's first PUT opens the record in the
lowest free bed and queues the write of its block and of its bed's entry. GET: an open GET whose block is read. MORE: its
rooms grow. FREE and RELEASE: the records are gone, ACK with their beds. HELLO of the same epoch: 32 credits, the peer's
violations are forgotten. PUT_ACK, ACK and DATA without a request are violations. EVICT: the tier is lost. (The stale
PUT_ACK that returns a credit: log entry 69; one block read at a time of a GET and an innkeeper's other choices: log entry
70; what a violation's log entry holds: log entry 86; bed entries as accesses: log entry 117.) -/
def Obligations.LodgingEffects : Prop :=
  ∀ (s : State) (l : Nat) (m : LMsg), l < 12 → m.payload.length % 16 = 0 → s.Quiet → (s.m.link l).st = 2 →
    (s.m.st (agentOf l)).pwr = .active → (s.m.link l).rx = [] →
    let d := (s.m.link l).dev
    let n := agentOf l
    let w := s.m.wakeStation n
    let id := (s.m.st n).nextId
    let len := m.payload.length
    let answered := fun (u : State) (op : Nat) (a1 : W64) (v : Nat) => (u.m.link l).tx = (s.m.link l).tx ++ [{
      msg := mkMsg op (replyCls m) s.m.devid d m.ctx m.claim m.a0 a1 (BitVec.ofNat 64 v) [], cls := replyCls m }]
    let acked := fun (u : State) (v : Nat) => answered u 11 (word [(m.op, 0)]) v
    (∀ c k f, (c, k) ∈ [(Instr.claim l m, 2), (.unclaim l m, 3), (.put l m, 4), (.get l m, 6), (.more l m, 7), (.free l m, 9),
        (.release l m, 10)] → m.op = k ∨ m.op = 0 ∨ 13 < m.op → s.m.headFault l m = some f → s.m.epoch ≠ 0 →
      ∃ u, exec c s = .next u ∧
        answered u 12 (word [(if 13 < m.op then 0 else m.op, 0), (f.1, 8), (f.2.1, 16)]) f.2.2 ∧
        (u.m.peer d).viol = (s.m.peer d).viol + 1 ∧ u.m.lodge.claims = s.m.lodge.claims ∧ u.m.lodge.recs = s.m.lodge.recs ∧
        u.m.lodge.puts = s.m.lodge.puts ∧ u.m.lodge.gets = s.m.lodge.gets ∧ u.m.sts = w.sts) ∧
    (s.m.headFault l m = none →
      (∀ g i, m.op = 2 → s.m.claimFault m = none → s.m.regionOf m.a0.toNat (rdNat m.payload 0 8) = some g →
        s.m.freeClaim = some i → ∃ u, exec (.claim l m) s = .next u ∧ acked u i ∧
          u.m.innClaim i = some { dev := m.src, ctx := m.ctx, base := m.a0.toNat, size := rdNat m.payload 0 8, owner := g.1
                                  region := g.2.1 } ∧
          (∀ j, j ≠ i → u.m.innClaim j = s.m.innClaim j) ∧ u.m.lodge.recs = s.m.lodge.recs ∧ u.m.sts = w.sts) ∧
      (∀ k, s.m.claimOf m = some k →
        (m.op = 3 → m.a0.toNat = k.base → ∃ u, exec (.unclaim l m) s = .next u ∧ acked u 0 ∧ u.m.innClaim m.claim = none ∧
          (∀ j, j ≠ m.claim → u.m.innClaim j = s.m.innClaim j) ∧ (∀ q ∈ u.m.lodge.recs, q.claim ≠ m.claim)) ∧
        (∀ b, m.op = 4 → putFirst m = true → s.m.innRec m.src m.a0.toNat = none → s.m.putFault l m k none = none →
          s.m.freeBed k [] = some b → ∃ u e, exec (.put l m) s = .next u ∧
            u.m.lodge.recs = s.m.lodge.recs ++ [{
              dev := m.src, ledger := m.a0.toNat, ctx := m.ctx, claim := m.claim, step := W64.bits m.a2 7 0, beds := [b]
              used := [len], lens := [len], link := some l }] ∧
            u.m.lodge.puts = s.m.lodge.puts ++ [{
              id, link := l, dev := m.src, ctx := m.ctx, cls := replyCls m, claim := m.claim, ledger := m.a0.toNat
              blk := msgBlk m, fin := putLast m, loc := b }] ∧
            (u.m.st n).acc = (s.m.st n).acc ++ [{
              id := id + 1, share := 2, cls := replyCls m, ctx := m.ctx, chan := 8, cost := roundUp len 4096, addr := b, len
              data := placed b m.payload, write := true, hook := .guestWrite id }, e] ∧
            e.hook = .guestWrite id ∧ e.addr = k.region + 8 * ((b - k.region) / 65536) ∧ e.len = 8 ∧ e.share = 2 ∧
            u.m.lodge.claims = s.m.lodge.claims ∧ (∀ j, u.m.link j = s.m.link j)) ∧
        (∀ q, m.op = 6 → s.m.recAt m.claim m.a0.toNat = some q →
          (s.m.lodge.gets.filter (fun g => g.link == l)).length < 16 → msgBlk m < q.lens.length →
          W64.bits m.a1 63 32 = sumNat q.lens →
          let gid := 16 * id + n
          (∀ g ∈ s.m.lodge.gets, g.id ≠ gid) → (∀ a ∈ (s.m.st n).acc ++ (s.m.st n).outst, a.hook ≠ .guestRead gid) →
          ∃ u a, exec (.get l m) s = .next u ∧
            u.m.lodge.gets = s.m.lodge.gets ++ [{
              id := gid, link := l, dev := m.src, ctx := m.ctx, cls := replyCls m, claim := m.claim, loc := m.a0.toNat
              ledger := m.a2.toNat, nextBlk := msgBlk m, rooms := W64.bits m.a1 31 24 - 1, inBed := true }] ∧
            (u.m.st n).acc = (s.m.st n).acc ++ [a] ∧ a.hook = .guestRead gid ∧ a.write = false ∧ a.share = 2 ∧
            a.len = (q.lens[msgBlk m]?).getD 0 ∧ u.m.lodge.recs = s.m.lodge.recs ∧ (∀ j, u.m.link j = s.m.link j)) ∧
        (∀ g, m.op = 7 → s.m.lodge.gets.find? (fun g => g.dev == m.src && g.ctx == m.ctx && g.claim == m.claim &&
            g.loc == m.a0.toNat && g.ledger == m.a2.toNat) = some g → W64.bits m.a1 7 0 ≠ 0 → W64.bits m.a1 7 0 ≤ 64 →
          let grown := modWhere (fun (q : InnGet) => q.id == g.id) (fun q => { q with rooms := q.rooms + W64.bits m.a1 7 0 })
          exec (.more l m) s = s.to ((w.modLodge (fun x => { x with gets := grown x.gets })).pumpGet g.id)) ∧
        (∀ q, m.op = 9 → s.m.recAt m.claim m.a0.toNat = some q → ∃ u, exec (.free l m) s = .next u ∧
          acked u q.beds.length ∧
          u.m.lodge.recs = s.m.lodge.recs.filter (fun x => !(x.dev == q.dev && x.ledger == q.ledger)) ∧
          u.m.lodge.claims = s.m.lodge.claims) ∧
        (m.op = 10 → let mine := fun (q : InnRec) => q.claim == m.claim && q.step == W64.bits m.a1 7 0
          ∃ u, exec (.release l m) s = .next u ∧ acked u (sumNat ((s.m.lodge.recs.filter mine).map (fun q => q.beds.length))) ∧
            (∀ q ∈ u.m.lodge.recs, mine q = false) ∧ u.m.lodge.claims = s.m.lodge.claims))) ∧
    (m.src = d → m.dst = s.m.devid → msgRsvd m = none →
      (m.op = 1 → (s.m.peer d).epoch = none ∨ (s.m.peer d).epoch = some (W64.bits m.a0 15 0) →
        ∃ u, exec (.hello l m) s = .next u ∧ (u.m.link l).credits = 32 ∧ (u.m.link l).helloSeen = true ∧
          (u.m.link l).epoch = some (W64.bits m.a0 15 0) ∧
          { u.m.peer d with down := false, downAge := 0 } =
            { s.m.peer d with epoch := some (W64.bits m.a0 15 0), viol := 0, violDue := false, haltd := false, down := false
                              downAge := 0 }) ∧
      (m.epoch = s.m.epoch → s.m.epoch ≠ 0 →
        (∀ q c b, m.op = 5 → s.m.putReq l m.a0.toNat (msgBlk m) (putLast m) = some q → (∃ n t k, q.use = .putOld c b n t k) →
          (b = false ∨ putLast m = false) →
          exec (.putAck l m) s = s.to ((w.dropReq q.id).modLink l (fun k => { k with credits := min 32 (k.credits + 1) }))) ∧
        (m.op = 5 → s.m.putReq l m.a0.toNat (msgBlk m) (putLast m) = none →
          exec (.putAck l m) s = s.to (w.violate l 5 0 8 m.a0.toNat)) ∧
        (m.op = 8 → s.m.getReq l m.a0.toNat m.a2.toNat = none →
          exec (.data l m) s = s.to (w.violate l 8 0 8 m.a0.toNat)) ∧
        (m.op = 11 → (∀ q ∈ s.m.lodge.reqs, q.sent = true → q.link = some l → q.msg.op ≠ W64.bits m.a1 7 0) →
          exec (.ack l m) s = s.to (w.violate l 11 0 8 m.a0.toNat)) ∧
        (m.op = 12 → W64.bits m.a1 7 0 = 4 →
          (∀ q ∈ s.m.lodge.reqs, q.sent = true → q.link = some l → q.use.isPut = false) →
          exec (.nak l m) s = s.to (w.violate l 4 (W64.bits m.a1 15 8) (W64.bits m.a1 31 16) m.a2.toNat)) ∧
        (∀ k ∈ (s.m.ctx m.ctx).claims, m.op = 13 → k.dev = d → k.base = m.a0.toNat → (s.m.ctx m.ctx).claiming = none →
          (s.m.ctx m.ctx).swapClaiming = none →
          ∃ u, exec (.evict l m) s = .next u ∧ k.tier ∈ (u.m.ctx m.ctx).lostTiers ∧
            (∀ q ∈ (u.m.ctx m.ctx).claims, q.tier ≠ k.tier))))

/-! ## Power -/

/-- SUPPLY_SAMPLE: below 690 mV the stations turn off; two samples in a row below the threshold of an enabled higher
level raise the level to the highest such; every other sample, a single low one too, leaves the level and counts toward a
fall, at or above the level's threshold with its hysteresis, or starts that count again; with the stations OFF it counts
toward their return. SHED_LEVEL_FALL: after the hold the level falls to the next enabled one, FORCE below which it never
falls. (What a loss of supply leaves: log entry 74.) -/
def Obligations.SheddingLevels : Prop :=
  (∀ (s : State) (mv : Nat),
    let h := s.m.shed
    let sampled : Shed := { h with sample := min 255 (mv - 600), prevMv := some mv }
    let low := fun (k : Nat) (u : Nat) => u < 600 + s.m.shedT k
    (mv < 690 → h.off = false → exec (.supplySample mv) s = .next (commit s { s.m with shed := sampled }.goOff)) ∧
    (690 ≤ mv → h.off = false →
      (∀ k p, h.prevMv = some p → h.level < k → k ≤ 5 → s.m.shedEn k = true → low k mv → low k p →
        (∀ j, k < j → j ≤ 5 → s.m.shedEn j = true → ¬ (low j mv ∧ low j p)) →
        exec (.supplySample mv) s = .next (commit s ({ s.m with shed := sampled }.setLevel k))) ∧
      ((∀ k p, h.prevMv = some p → h.level < k → k ≤ 5 → s.m.shedEn k = true → ¬ (low k mv ∧ low k p)) → s.Quiet →
        exec (.supplySample mv) s = s.to { s.m with shed := { sampled with
          span := if h.level ≠ 0 ∧ 600 + s.m.shedT h.level + s.m.shedHyst ≤ mv then h.span + 1 else 0 } })) ∧
    (h.off = true → s.Quiet → exec (.supplySample mv) s = s.to { s.m with shed := { sampled with
      offSpan := if 600 + s.m.shedT 5 + s.m.shedHyst ≤ mv then h.offSpan + 1 else 0 } })) ∧
  (∀ (s : State), s.m.shed.off = false → s.m.shed.level ≠ 0 →
    (s.m.shed.span < s.m.shedHold → s.Quiet → exec .shedLevelFall s = .next s) ∧
    (s.m.shedHold ≤ s.m.shed.span →
      ∃ k, k < s.m.shed.level ∧ (k = 0 ∨ s.m.shedEn k = true) ∧
        (∀ j, k < j → j < s.m.shed.level → s.m.shedEn j = false) ∧
        exec .shedLevelFall s = .next (commit s (s.m.setLevel (max s.m.shedForce k)))))

/-- CLOCK_GATE, POWER_GATE and STATION_WAKE, and STATIONS_RETURN: after the hold the stations are ACTIVE; then every plan is
loaded again or its context withdrawn, then every step under way ends as an abort, then headers of a reserve, reads, HELLOs
and requests go out again. (That the loader's and the sequencer's reads go out again at the return: log entry 108.) -/
def Obligations.StationsSleepAndWake : Prop :=
  ∀ (s : State) (n : Nat), n < 6 →
    (s.Quiet → (s.m.st n).pwr = .active → s.m.cgIdle ≠ 0 → s.m.stayOn n = false → s.m.stationIdle n = true →
      16 * s.m.cgIdle ≤ (s.m.st n).idleSclk → ∃ t, exec (.clockGate n) s = .next t ∧
        StationBecomes s t n { s.m.st n with pwr := .clockGated, idleSclk := 0 }) ∧
    (s.Quiet → s.m.mayPowerGate n = true → s.m.pgIdle ≤ (s.m.st n).pgAclk → ∃ t, exec (.powerGate n) s = .next t ∧
      StationBecomes s t n { s.m.st n with pwr := .powerGated }) ∧
    ((s.m.st n).pwr = .waking → exec (.stationWake n) s = .next (commit s (((((s.m.modSt n (fun x => { x with
      pwr := .active, idleSclk := 0 })).discardHeld n).releaseAll).letIn n).takeHeld s.mem n))) ∧
    (s.m.shed.off = true → s.m.shedHold ≤ s.m.shed.offSpan →
      let active := overList (fun m k => m.modSt k (fun x => { x with pwr := .active })) { s.m with shed := { s.m.shed with
        off := false, span := s.m.shed.offSpan, offSpan := 0 } } (List.range 6)
      let plans := overList (fun m c => m.returnPlan s.mem c) active (List.range 4)
      let aborted := overList (fun m c => m.returnAbort s.mem c) plans (List.range 4)
      let heads := overList Mach.returnHeads aborted (List.range 4)
      exec .stationsReturn s =
        .next (commit s (overList (fun m d => m.placeReqs d) heads.returnReads.sendHellos (List.range 16)))) ∧
    (s.Quiet → (s.m.shed.off = false ∨ s.m.shed.offSpan < s.m.shedHold) → exec .stationsReturn s = .next s)
end

