-- ==== Sys2Proof/Laws/Assoc.lean ====
section
/-!
SUPPORT. Laws of the sparse tables: reading after setting, and the canonical form.
-/
namespace Sys2Proof.Machine

variable {α : Type}

theorem aget_adel_same (d : α) (m : Assoc α) (k : Nat) : aget d (adel m k) k = d := by
  induction m with
  | nil => rfl
  | cons p m ih =>
    obtain ⟨k', v⟩ := p
    by_cases h : k' = k
    · subst h; simpa [adel] using ih
    · have : adel ((k', v) :: m) k = (k', v) :: adel m k := by simp [adel, h]
      rw [this]; simpa [aget, h] using ih

theorem aget_adel_ne (d : α) (m : Assoc α) {k j : Nat} (h : j ≠ k) : aget d (adel m k) j = aget d m j := by
  induction m with
  | nil => rfl
  | cons p m ih =>
    obtain ⟨k', v⟩ := p
    by_cases hk : k' = k
    · subst hk
      have : adel ((k', v) :: m) k' = adel m k' := by simp [adel]
      rw [this, ih]; simp [aget, Ne.symm h]
    · have : adel ((k', v) :: m) k = (k', v) :: adel m k := by simp [adel, hk]
      rw [this]; simp only [aget]; split
      · rfl
      · exact ih

theorem aget_ains_same (d : α) (m : Assoc α) (k : Nat) (v : α) (h : aget none (m.map (fun p => (p.1, some p.2))) k = none) :
    aget d (ains k v m) k = v := by
  induction m with
  | nil => simp [ains, aget]
  | cons p m ih =>
    obtain ⟨k', v'⟩ := p
    simp only [List.map_cons, aget] at h
    by_cases hk : k' = k
    · simp [hk] at h
    · simp only [hk, if_false] at h
      simp only [ains]
      split
      · simp [aget]
      · simp only [aget, hk, if_false]; exact ih h

theorem aget_ains_ne (d : α) (m : Assoc α) {k j : Nat} (v : α) (h : j ≠ k) : aget d (ains k v m) j = aget d m j := by
  induction m with
  | nil => simp [ains, aget, Ne.symm h]
  | cons p m ih =>
    obtain ⟨k', v'⟩ := p
    simp only [ains]
    split
    · simp [aget, Ne.symm h]
    · simp only [aget]; split
      · rfl
      · exact ih

theorem adel_map_some (m : Assoc α) (k : Nat) :
    (adel m k).map (fun p => (p.1, some p.2)) = adel (m.map (fun p => (p.1, some p.2))) k := by
  simp [adel, List.filter_map, Function.comp_def]

theorem adel_adel (m : Assoc α) (k : Nat) : adel (adel m k) k = adel m k := by simp [adel]

theorem adel_ains (m : Assoc α) (k : Nat) (v : α) (h : ∀ p ∈ m, p.1 ≠ k) : adel (ains k v m) k = m := by
  induction m with
  | nil => simp [ains, adel]
  | cons p m ih =>
    obtain ⟨k', v'⟩ := p
    have hk : k' ≠ k := h (k', v') (by simp)
    have hm : ∀ p ∈ m, p.1 ≠ k := fun p hp => h p (by simp [hp])
    have hd : adel m k = m := by simpa [adel] using hm
    simp only [ains]
    split
    · have : adel ((k, v) :: (k', v') :: m) k = (k', v') :: adel m k := by simp [adel, hk]
      rw [this, hd]
    · have : adel ((k', v') :: ains k v m) k = (k', v') :: adel (ains k v m) k := by simp [adel, hk]
      rw [this, ih hm]

variable [DecidableEq α]

/-- What was set is read. -/
@[simp] theorem aget_aset_same (d : α) (m : Assoc α) (k : Nat) (v : α) : aget d (aset d m k v) k = v := by
  unfold aset
  split
  · next h => rw [h]; exact aget_adel_same d m k
  · exact aget_ains_same d _ k v (by rw [adel_map_some]; exact aget_adel_same none _ k)

/-- Every other key reads as before. -/
theorem aget_aset_ne (d : α) (m : Assoc α) {k j : Nat} (v : α) (h : j ≠ k) : aget d (aset d m k v) j = aget d m j := by
  unfold aset
  split
  · exact aget_adel_ne d m h
  · rw [aget_ains_ne d _ v h]; exact aget_adel_ne d m h

@[simp] theorem aget_amod_same (d : α) (m : Assoc α) (k : Nat) (f : α → α) : aget d (amod d m k f) k = f (aget d m k) := by
  simp [amod]

theorem aget_amod_ne (d : α) (m : Assoc α) {k j : Nat} (f : α → α) (h : j ≠ k) : aget d (amod d m k f) j = aget d m j := by
  unfold amod; exact aget_aset_ne d m _ h

/-- The later of two settings of a key stands. -/
theorem aset_aset (d : α) (m : Assoc α) (k : Nat) (v w : α) : aset d (aset d m k v) k w = aset d m k w := by
  have h : adel (aset d m k v) k = adel m k := by
    unfold aset
    split
    · exact adel_adel m k
    · exact adel_ains _ _ _ (by intro p hp; simp [adel] at hp; exact hp.2)
  simp only [aset] at h ⊢
  split <;> simp_all

theorem amod_amod (d : α) (m : Assoc α) (k : Nat) (f g : α → α) :
    amod d (amod d m k f) k g = amod d m k (fun x => g (f x)) := by
  simp [amod, aset_aset]

/-! ## The canonical form -/

theorem acanonFrom_mono (d : α) {a b : Nat} (h : a ≤ b) : ∀ m : Assoc α, acanonFrom d b m = true → acanonFrom d a m = true
  | [], _ => rfl
  | (k, v) :: m, hm => by
    simp only [acanonFrom, Bool.and_eq_true, decide_eq_true_eq] at hm ⊢
    exact ⟨⟨by omega, hm.1.2⟩, hm.2⟩

theorem acanonFrom_adel (d : α) (k : Nat) : ∀ (b : Nat) (m : Assoc α), acanonFrom d b m = true → acanonFrom d b (adel m k) = true
  | _, [], _ => rfl
  | b, (k', v) :: m, hm => by
    simp only [acanonFrom, Bool.and_eq_true, decide_eq_true_eq] at hm
    have ih := acanonFrom_adel d k (k' + 1) m hm.2
    by_cases h : k' = k
    · subst h
      have : adel ((k', v) :: m) k' = adel m k' := by simp [adel]
      rw [this]; exact acanonFrom_mono d (by omega) _ ih
    · have : adel ((k', v) :: m) k = (k', v) :: adel m k := by simp [adel, h]
      rw [this]; simp [acanonFrom, hm.1.1, hm.1.2, ih]

theorem aget_none_of_acanonFrom (d : α) (k : Nat) : ∀ (b : Nat) (m : Assoc α), acanonFrom d b m = true → k < b → aget d m k = d
  | _, [], _, _ => rfl
  | b, (k', v) :: m, hm, hk => by
    simp only [acanonFrom, Bool.and_eq_true, decide_eq_true_eq] at hm
    have : k' ≠ k := by omega
    simp only [aget, this, if_false]
    exact aget_none_of_acanonFrom d k (k' + 1) m hm.2 (by omega)

theorem acanonFrom_ains (d : α) (k : Nat) (v : α) (hv : v ≠ d) : ∀ (b : Nat) (m : Assoc α), b ≤ k → acanonFrom d b m = true →
    (∀ p ∈ m, p.1 ≠ k) → acanonFrom d b (ains k v m) = true
  | b, [], hb, _, _ => by simp [ains, acanonFrom, hb, hv]
  | b, (k', v') :: m, hb, hm, hne => by
    simp only [acanonFrom, Bool.and_eq_true, decide_eq_true_eq] at hm
    have hk : k' ≠ k := hne (k', v') (by simp)
    simp only [ains]
    split
    · next h => simp [acanonFrom, hb, hv, hm.1.2, hm.2, Nat.succ_le_of_lt h]
    · next h =>
      have := acanonFrom_ains d k v hv (k' + 1) m (by omega) hm.2 (fun p hp => hne p (by simp [hp]))
      simp [acanonFrom, hm.1.1, hm.1.2, this]

/-- Setting an entry keeps the canonical form. -/
theorem acanon_aset (d : α) (m : Assoc α) (k : Nat) (v : α) (h : acanon d m = true) : acanon d (aset d m k v) = true := by
  unfold aset acanon at *
  split
  · exact acanonFrom_adel d k 0 m h
  · next hv =>
    exact acanonFrom_ains d k v hv 0 _ (by omega) (acanonFrom_adel d k 0 m h) (by intro p hp; simp [adel] at hp; exact hp.2)

theorem acanon_amod (d : α) (m : Assoc α) (k : Nat) (f : α → α) (h : acanon d m = true) : acanon d (amod d m k f) = true :=
  acanon_aset d m k _ h

end Sys2Proof.Machine
end

