-- ==== Sys2Proof/Laws/State.lean ====
section
/-!
SUPPORT. The laws of a record update, once: one lemma per field of Mach per updating operation, true by definition, and
what each accessor reads after its own updater.
-/
namespace Sys2Proof.Machine

/-! ## commit -/

@[simp] theorem commit_pending (s : State) (m : Mach) : (commit s m).pending = s.pending := rfl
@[simp] theorem commit_mem (s : State) (m : Mach) : (commit s m).mem = applyWrites s.mem m.out := rfl
@[simp] theorem commit_m (s : State) (m : Mach) : (commit s m).m = { m with out := [] } := rfl

/-! ## modCtx -/

@[simp] theorem Mach.modCtx_devid (s : Mach) (c : Nat) (f : Ctx → Ctx) : (s.modCtx c f).devid = s.devid := rfl
@[simp] theorem Mach.modCtx_aclk (s : Mach) (c : Nat) (f : Ctx → Ctx) : (s.modCtx c f).aclk = s.aclk := rfl
@[simp] theorem Mach.modCtx_freeNo (s : Mach) (c : Nat) (f : Ctx → Ctx) : (s.modCtx c f).freeNo = s.freeNo := rfl
@[simp] theorem Mach.modCtx_regs (s : Mach) (c : Nat) (f : Ctx → Ctx) : (s.modCtx c f).regs = s.regs := rfl
@[simp] theorem Mach.modCtx_keys (s : Mach) (c : Nat) (f : Ctx → Ctx) : (s.modCtx c f).keys = s.keys := rfl
@[simp] theorem Mach.modCtx_shed (s : Mach) (c : Nat) (f : Ctx → Ctx) : (s.modCtx c f).shed = s.shed := rfl
@[simp] theorem Mach.modCtx_sts (s : Mach) (c : Nat) (f : Ctx → Ctx) : (s.modCtx c f).sts = s.sts := rfl
@[simp] theorem Mach.modCtx_chans (s : Mach) (c : Nat) (f : Ctx → Ctx) : (s.modCtx c f).chans = s.chans := rfl
@[simp] theorem Mach.modCtx_hs (s : Mach) (c : Nat) (f : Ctx → Ctx) : (s.modCtx c f).hs = s.hs := rfl
@[simp] theorem Mach.modCtx_msix (s : Mach) (c : Nat) (f : Ctx → Ctx) : (s.modCtx c f).msix = s.msix := rfl
@[simp] theorem Mach.modCtx_vlog (s : Mach) (c : Nat) (f : Ctx → Ctx) : (s.modCtx c f).vlog = s.vlog := rfl
@[simp] theorem Mach.modCtx_lodge (s : Mach) (c : Nat) (f : Ctx → Ctx) : (s.modCtx c f).lodge = s.lodge := rfl
@[simp] theorem Mach.modCtx_exps (s : Mach) (c : Nat) (f : Ctx → Ctx) : (s.modCtx c f).exps = s.exps := rfl
@[simp] theorem Mach.modCtx_notes (s : Mach) (c : Nat) (f : Ctx → Ctx) : (s.modCtx c f).notes = s.notes := rfl
@[simp] theorem Mach.modCtx_seeds (s : Mach) (c : Nat) (f : Ctx → Ctx) : (s.modCtx c f).seeds = s.seeds := rfl
@[simp] theorem Mach.modCtx_cells (s : Mach) (c : Nat) (f : Ctx → Ctx) : (s.modCtx c f).cells = s.cells := rfl
@[simp] theorem Mach.modCtx_sems (s : Mach) (c : Nat) (f : Ctx → Ctx) : (s.modCtx c f).sems = s.sems := rfl
@[simp] theorem Mach.modCtx_waitDone (s : Mach) (c : Nat) (f : Ctx → Ctx) : (s.modCtx c f).waitDone = s.waitDone := rfl
@[simp] theorem Mach.modCtx_widthPin (s : Mach) (c : Nat) (f : Ctx → Ctx) : (s.modCtx c f).widthPin = s.widthPin := rfl
@[simp] theorem Mach.modCtx_latch (s : Mach) (c : Nat) (f : Ctx → Ctx) : (s.modCtx c f).latch = s.latch := rfl
@[simp] theorem Mach.modCtx_w1cAt (s : Mach) (c : Nat) (f : Ctx → Ctx) : (s.modCtx c f).w1cAt = s.w1cAt := rfl
@[simp] theorem Mach.modCtx_lastRead (s : Mach) (c : Nat) (f : Ctx → Ctx) : (s.modCtx c f).lastRead = s.lastRead := rfl
@[simp] theorem Mach.modCtx_ticketsOut (s : Mach) (c : Nat) (f : Ctx → Ctx) : (s.modCtx c f).ticketsOut = s.ticketsOut := rfl
@[simp] theorem Mach.modCtx_out (s : Mach) (c : Nat) (f : Ctx → Ctx) : (s.modCtx c f).out = s.out := rfl

/-! ## modSt -/

@[simp] theorem Mach.modSt_devid (s : Mach) (n : Nat) (f : Station → Station) : (s.modSt n f).devid = s.devid := rfl
@[simp] theorem Mach.modSt_aclk (s : Mach) (n : Nat) (f : Station → Station) : (s.modSt n f).aclk = s.aclk := rfl
@[simp] theorem Mach.modSt_freeNo (s : Mach) (n : Nat) (f : Station → Station) : (s.modSt n f).freeNo = s.freeNo := rfl
@[simp] theorem Mach.modSt_regs (s : Mach) (n : Nat) (f : Station → Station) : (s.modSt n f).regs = s.regs := rfl
@[simp] theorem Mach.modSt_keys (s : Mach) (n : Nat) (f : Station → Station) : (s.modSt n f).keys = s.keys := rfl
@[simp] theorem Mach.modSt_shed (s : Mach) (n : Nat) (f : Station → Station) : (s.modSt n f).shed = s.shed := rfl
@[simp] theorem Mach.modSt_ctxs (s : Mach) (n : Nat) (f : Station → Station) : (s.modSt n f).ctxs = s.ctxs := rfl
@[simp] theorem Mach.modSt_chans (s : Mach) (n : Nat) (f : Station → Station) : (s.modSt n f).chans = s.chans := rfl
@[simp] theorem Mach.modSt_hs (s : Mach) (n : Nat) (f : Station → Station) : (s.modSt n f).hs = s.hs := rfl
@[simp] theorem Mach.modSt_msix (s : Mach) (n : Nat) (f : Station → Station) : (s.modSt n f).msix = s.msix := rfl
@[simp] theorem Mach.modSt_vlog (s : Mach) (n : Nat) (f : Station → Station) : (s.modSt n f).vlog = s.vlog := rfl
@[simp] theorem Mach.modSt_lodge (s : Mach) (n : Nat) (f : Station → Station) : (s.modSt n f).lodge = s.lodge := rfl
@[simp] theorem Mach.modSt_exps (s : Mach) (n : Nat) (f : Station → Station) : (s.modSt n f).exps = s.exps := rfl
@[simp] theorem Mach.modSt_notes (s : Mach) (n : Nat) (f : Station → Station) : (s.modSt n f).notes = s.notes := rfl
@[simp] theorem Mach.modSt_seeds (s : Mach) (n : Nat) (f : Station → Station) : (s.modSt n f).seeds = s.seeds := rfl
@[simp] theorem Mach.modSt_cells (s : Mach) (n : Nat) (f : Station → Station) : (s.modSt n f).cells = s.cells := rfl
@[simp] theorem Mach.modSt_sems (s : Mach) (n : Nat) (f : Station → Station) : (s.modSt n f).sems = s.sems := rfl
@[simp] theorem Mach.modSt_waitDone (s : Mach) (n : Nat) (f : Station → Station) : (s.modSt n f).waitDone = s.waitDone := rfl
@[simp] theorem Mach.modSt_widthPin (s : Mach) (n : Nat) (f : Station → Station) : (s.modSt n f).widthPin = s.widthPin := rfl
@[simp] theorem Mach.modSt_latch (s : Mach) (n : Nat) (f : Station → Station) : (s.modSt n f).latch = s.latch := rfl
@[simp] theorem Mach.modSt_w1cAt (s : Mach) (n : Nat) (f : Station → Station) : (s.modSt n f).w1cAt = s.w1cAt := rfl
@[simp] theorem Mach.modSt_lastRead (s : Mach) (n : Nat) (f : Station → Station) : (s.modSt n f).lastRead = s.lastRead := rfl
@[simp] theorem Mach.modSt_ticketsOut (s : Mach) (n : Nat) (f : Station → Station) : (s.modSt n f).ticketsOut = s.ticketsOut := rfl
@[simp] theorem Mach.modSt_out (s : Mach) (n : Nat) (f : Station → Station) : (s.modSt n f).out = s.out := rfl

/-! ## modChan -/

@[simp] theorem Mach.modChan_devid (s : Mach) (n : Nat) (f : Chan → Chan) : (s.modChan n f).devid = s.devid := rfl
@[simp] theorem Mach.modChan_aclk (s : Mach) (n : Nat) (f : Chan → Chan) : (s.modChan n f).aclk = s.aclk := rfl
@[simp] theorem Mach.modChan_freeNo (s : Mach) (n : Nat) (f : Chan → Chan) : (s.modChan n f).freeNo = s.freeNo := rfl
@[simp] theorem Mach.modChan_regs (s : Mach) (n : Nat) (f : Chan → Chan) : (s.modChan n f).regs = s.regs := rfl
@[simp] theorem Mach.modChan_keys (s : Mach) (n : Nat) (f : Chan → Chan) : (s.modChan n f).keys = s.keys := rfl
@[simp] theorem Mach.modChan_shed (s : Mach) (n : Nat) (f : Chan → Chan) : (s.modChan n f).shed = s.shed := rfl
@[simp] theorem Mach.modChan_ctxs (s : Mach) (n : Nat) (f : Chan → Chan) : (s.modChan n f).ctxs = s.ctxs := rfl
@[simp] theorem Mach.modChan_sts (s : Mach) (n : Nat) (f : Chan → Chan) : (s.modChan n f).sts = s.sts := rfl
@[simp] theorem Mach.modChan_hs (s : Mach) (n : Nat) (f : Chan → Chan) : (s.modChan n f).hs = s.hs := rfl
@[simp] theorem Mach.modChan_msix (s : Mach) (n : Nat) (f : Chan → Chan) : (s.modChan n f).msix = s.msix := rfl
@[simp] theorem Mach.modChan_vlog (s : Mach) (n : Nat) (f : Chan → Chan) : (s.modChan n f).vlog = s.vlog := rfl
@[simp] theorem Mach.modChan_lodge (s : Mach) (n : Nat) (f : Chan → Chan) : (s.modChan n f).lodge = s.lodge := rfl
@[simp] theorem Mach.modChan_exps (s : Mach) (n : Nat) (f : Chan → Chan) : (s.modChan n f).exps = s.exps := rfl
@[simp] theorem Mach.modChan_notes (s : Mach) (n : Nat) (f : Chan → Chan) : (s.modChan n f).notes = s.notes := rfl
@[simp] theorem Mach.modChan_seeds (s : Mach) (n : Nat) (f : Chan → Chan) : (s.modChan n f).seeds = s.seeds := rfl
@[simp] theorem Mach.modChan_cells (s : Mach) (n : Nat) (f : Chan → Chan) : (s.modChan n f).cells = s.cells := rfl
@[simp] theorem Mach.modChan_sems (s : Mach) (n : Nat) (f : Chan → Chan) : (s.modChan n f).sems = s.sems := rfl
@[simp] theorem Mach.modChan_waitDone (s : Mach) (n : Nat) (f : Chan → Chan) : (s.modChan n f).waitDone = s.waitDone := rfl
@[simp] theorem Mach.modChan_widthPin (s : Mach) (n : Nat) (f : Chan → Chan) : (s.modChan n f).widthPin = s.widthPin := rfl
@[simp] theorem Mach.modChan_latch (s : Mach) (n : Nat) (f : Chan → Chan) : (s.modChan n f).latch = s.latch := rfl
@[simp] theorem Mach.modChan_w1cAt (s : Mach) (n : Nat) (f : Chan → Chan) : (s.modChan n f).w1cAt = s.w1cAt := rfl
@[simp] theorem Mach.modChan_lastRead (s : Mach) (n : Nat) (f : Chan → Chan) : (s.modChan n f).lastRead = s.lastRead := rfl
@[simp] theorem Mach.modChan_ticketsOut (s : Mach) (n : Nat) (f : Chan → Chan) : (s.modChan n f).ticketsOut = s.ticketsOut := rfl
@[simp] theorem Mach.modChan_out (s : Mach) (n : Nat) (f : Chan → Chan) : (s.modChan n f).out = s.out := rfl

/-! ## modHs -/

@[simp] theorem Mach.modHs_devid (s : Mach) (f : HostSide → HostSide) : (s.modHs f).devid = s.devid := rfl
@[simp] theorem Mach.modHs_aclk (s : Mach) (f : HostSide → HostSide) : (s.modHs f).aclk = s.aclk := rfl
@[simp] theorem Mach.modHs_freeNo (s : Mach) (f : HostSide → HostSide) : (s.modHs f).freeNo = s.freeNo := rfl
@[simp] theorem Mach.modHs_regs (s : Mach) (f : HostSide → HostSide) : (s.modHs f).regs = s.regs := rfl
@[simp] theorem Mach.modHs_keys (s : Mach) (f : HostSide → HostSide) : (s.modHs f).keys = s.keys := rfl
@[simp] theorem Mach.modHs_shed (s : Mach) (f : HostSide → HostSide) : (s.modHs f).shed = s.shed := rfl
@[simp] theorem Mach.modHs_ctxs (s : Mach) (f : HostSide → HostSide) : (s.modHs f).ctxs = s.ctxs := rfl
@[simp] theorem Mach.modHs_sts (s : Mach) (f : HostSide → HostSide) : (s.modHs f).sts = s.sts := rfl
@[simp] theorem Mach.modHs_chans (s : Mach) (f : HostSide → HostSide) : (s.modHs f).chans = s.chans := rfl
@[simp] theorem Mach.modHs_msix (s : Mach) (f : HostSide → HostSide) : (s.modHs f).msix = s.msix := rfl
@[simp] theorem Mach.modHs_vlog (s : Mach) (f : HostSide → HostSide) : (s.modHs f).vlog = s.vlog := rfl
@[simp] theorem Mach.modHs_lodge (s : Mach) (f : HostSide → HostSide) : (s.modHs f).lodge = s.lodge := rfl
@[simp] theorem Mach.modHs_exps (s : Mach) (f : HostSide → HostSide) : (s.modHs f).exps = s.exps := rfl
@[simp] theorem Mach.modHs_notes (s : Mach) (f : HostSide → HostSide) : (s.modHs f).notes = s.notes := rfl
@[simp] theorem Mach.modHs_seeds (s : Mach) (f : HostSide → HostSide) : (s.modHs f).seeds = s.seeds := rfl
@[simp] theorem Mach.modHs_cells (s : Mach) (f : HostSide → HostSide) : (s.modHs f).cells = s.cells := rfl
@[simp] theorem Mach.modHs_sems (s : Mach) (f : HostSide → HostSide) : (s.modHs f).sems = s.sems := rfl
@[simp] theorem Mach.modHs_waitDone (s : Mach) (f : HostSide → HostSide) : (s.modHs f).waitDone = s.waitDone := rfl
@[simp] theorem Mach.modHs_widthPin (s : Mach) (f : HostSide → HostSide) : (s.modHs f).widthPin = s.widthPin := rfl
@[simp] theorem Mach.modHs_latch (s : Mach) (f : HostSide → HostSide) : (s.modHs f).latch = s.latch := rfl
@[simp] theorem Mach.modHs_w1cAt (s : Mach) (f : HostSide → HostSide) : (s.modHs f).w1cAt = s.w1cAt := rfl
@[simp] theorem Mach.modHs_lastRead (s : Mach) (f : HostSide → HostSide) : (s.modHs f).lastRead = s.lastRead := rfl
@[simp] theorem Mach.modHs_ticketsOut (s : Mach) (f : HostSide → HostSide) : (s.modHs f).ticketsOut = s.ticketsOut := rfl
@[simp] theorem Mach.modHs_out (s : Mach) (f : HostSide → HostSide) : (s.modHs f).out = s.out := rfl

/-! ## modRing -/

@[simp] theorem Mach.modRing_devid (s : Mach) (n : Nat) (f : Ring → Ring) : (s.modRing n f).devid = s.devid := rfl
@[simp] theorem Mach.modRing_aclk (s : Mach) (n : Nat) (f : Ring → Ring) : (s.modRing n f).aclk = s.aclk := rfl
@[simp] theorem Mach.modRing_freeNo (s : Mach) (n : Nat) (f : Ring → Ring) : (s.modRing n f).freeNo = s.freeNo := rfl
@[simp] theorem Mach.modRing_regs (s : Mach) (n : Nat) (f : Ring → Ring) : (s.modRing n f).regs = s.regs := rfl
@[simp] theorem Mach.modRing_keys (s : Mach) (n : Nat) (f : Ring → Ring) : (s.modRing n f).keys = s.keys := rfl
@[simp] theorem Mach.modRing_shed (s : Mach) (n : Nat) (f : Ring → Ring) : (s.modRing n f).shed = s.shed := rfl
@[simp] theorem Mach.modRing_ctxs (s : Mach) (n : Nat) (f : Ring → Ring) : (s.modRing n f).ctxs = s.ctxs := rfl
@[simp] theorem Mach.modRing_sts (s : Mach) (n : Nat) (f : Ring → Ring) : (s.modRing n f).sts = s.sts := rfl
@[simp] theorem Mach.modRing_chans (s : Mach) (n : Nat) (f : Ring → Ring) : (s.modRing n f).chans = s.chans := rfl
@[simp] theorem Mach.modRing_msix (s : Mach) (n : Nat) (f : Ring → Ring) : (s.modRing n f).msix = s.msix := rfl
@[simp] theorem Mach.modRing_vlog (s : Mach) (n : Nat) (f : Ring → Ring) : (s.modRing n f).vlog = s.vlog := rfl
@[simp] theorem Mach.modRing_lodge (s : Mach) (n : Nat) (f : Ring → Ring) : (s.modRing n f).lodge = s.lodge := rfl
@[simp] theorem Mach.modRing_exps (s : Mach) (n : Nat) (f : Ring → Ring) : (s.modRing n f).exps = s.exps := rfl
@[simp] theorem Mach.modRing_notes (s : Mach) (n : Nat) (f : Ring → Ring) : (s.modRing n f).notes = s.notes := rfl
@[simp] theorem Mach.modRing_seeds (s : Mach) (n : Nat) (f : Ring → Ring) : (s.modRing n f).seeds = s.seeds := rfl
@[simp] theorem Mach.modRing_cells (s : Mach) (n : Nat) (f : Ring → Ring) : (s.modRing n f).cells = s.cells := rfl
@[simp] theorem Mach.modRing_sems (s : Mach) (n : Nat) (f : Ring → Ring) : (s.modRing n f).sems = s.sems := rfl
@[simp] theorem Mach.modRing_waitDone (s : Mach) (n : Nat) (f : Ring → Ring) : (s.modRing n f).waitDone = s.waitDone := rfl
@[simp] theorem Mach.modRing_widthPin (s : Mach) (n : Nat) (f : Ring → Ring) : (s.modRing n f).widthPin = s.widthPin := rfl
@[simp] theorem Mach.modRing_latch (s : Mach) (n : Nat) (f : Ring → Ring) : (s.modRing n f).latch = s.latch := rfl
@[simp] theorem Mach.modRing_w1cAt (s : Mach) (n : Nat) (f : Ring → Ring) : (s.modRing n f).w1cAt = s.w1cAt := rfl
@[simp] theorem Mach.modRing_lastRead (s : Mach) (n : Nat) (f : Ring → Ring) : (s.modRing n f).lastRead = s.lastRead := rfl
@[simp] theorem Mach.modRing_ticketsOut (s : Mach) (n : Nat) (f : Ring → Ring) : (s.modRing n f).ticketsOut = s.ticketsOut := rfl
@[simp] theorem Mach.modRing_out (s : Mach) (n : Nat) (f : Ring → Ring) : (s.modRing n f).out = s.out := rfl

/-! ## modRpt -/

@[simp] theorem Mach.modRpt_devid (s : Mach) (c : Nat) (f : RptRing → RptRing) : (s.modRpt c f).devid = s.devid := rfl
@[simp] theorem Mach.modRpt_aclk (s : Mach) (c : Nat) (f : RptRing → RptRing) : (s.modRpt c f).aclk = s.aclk := rfl
@[simp] theorem Mach.modRpt_freeNo (s : Mach) (c : Nat) (f : RptRing → RptRing) : (s.modRpt c f).freeNo = s.freeNo := rfl
@[simp] theorem Mach.modRpt_regs (s : Mach) (c : Nat) (f : RptRing → RptRing) : (s.modRpt c f).regs = s.regs := rfl
@[simp] theorem Mach.modRpt_keys (s : Mach) (c : Nat) (f : RptRing → RptRing) : (s.modRpt c f).keys = s.keys := rfl
@[simp] theorem Mach.modRpt_shed (s : Mach) (c : Nat) (f : RptRing → RptRing) : (s.modRpt c f).shed = s.shed := rfl
@[simp] theorem Mach.modRpt_ctxs (s : Mach) (c : Nat) (f : RptRing → RptRing) : (s.modRpt c f).ctxs = s.ctxs := rfl
@[simp] theorem Mach.modRpt_sts (s : Mach) (c : Nat) (f : RptRing → RptRing) : (s.modRpt c f).sts = s.sts := rfl
@[simp] theorem Mach.modRpt_chans (s : Mach) (c : Nat) (f : RptRing → RptRing) : (s.modRpt c f).chans = s.chans := rfl
@[simp] theorem Mach.modRpt_msix (s : Mach) (c : Nat) (f : RptRing → RptRing) : (s.modRpt c f).msix = s.msix := rfl
@[simp] theorem Mach.modRpt_vlog (s : Mach) (c : Nat) (f : RptRing → RptRing) : (s.modRpt c f).vlog = s.vlog := rfl
@[simp] theorem Mach.modRpt_lodge (s : Mach) (c : Nat) (f : RptRing → RptRing) : (s.modRpt c f).lodge = s.lodge := rfl
@[simp] theorem Mach.modRpt_exps (s : Mach) (c : Nat) (f : RptRing → RptRing) : (s.modRpt c f).exps = s.exps := rfl
@[simp] theorem Mach.modRpt_notes (s : Mach) (c : Nat) (f : RptRing → RptRing) : (s.modRpt c f).notes = s.notes := rfl
@[simp] theorem Mach.modRpt_seeds (s : Mach) (c : Nat) (f : RptRing → RptRing) : (s.modRpt c f).seeds = s.seeds := rfl
@[simp] theorem Mach.modRpt_cells (s : Mach) (c : Nat) (f : RptRing → RptRing) : (s.modRpt c f).cells = s.cells := rfl
@[simp] theorem Mach.modRpt_sems (s : Mach) (c : Nat) (f : RptRing → RptRing) : (s.modRpt c f).sems = s.sems := rfl
@[simp] theorem Mach.modRpt_waitDone (s : Mach) (c : Nat) (f : RptRing → RptRing) : (s.modRpt c f).waitDone = s.waitDone := rfl
@[simp] theorem Mach.modRpt_widthPin (s : Mach) (c : Nat) (f : RptRing → RptRing) : (s.modRpt c f).widthPin = s.widthPin := rfl
@[simp] theorem Mach.modRpt_latch (s : Mach) (c : Nat) (f : RptRing → RptRing) : (s.modRpt c f).latch = s.latch := rfl
@[simp] theorem Mach.modRpt_w1cAt (s : Mach) (c : Nat) (f : RptRing → RptRing) : (s.modRpt c f).w1cAt = s.w1cAt := rfl
@[simp] theorem Mach.modRpt_lastRead (s : Mach) (c : Nat) (f : RptRing → RptRing) : (s.modRpt c f).lastRead = s.lastRead := rfl
@[simp] theorem Mach.modRpt_ticketsOut (s : Mach) (c : Nat) (f : RptRing → RptRing) : (s.modRpt c f).ticketsOut = s.ticketsOut := rfl
@[simp] theorem Mach.modRpt_out (s : Mach) (c : Nat) (f : RptRing → RptRing) : (s.modRpt c f).out = s.out := rfl

/-! ## modLodge -/

@[simp] theorem Mach.modLodge_devid (s : Mach) (f : Lodge → Lodge) : (s.modLodge f).devid = s.devid := rfl
@[simp] theorem Mach.modLodge_aclk (s : Mach) (f : Lodge → Lodge) : (s.modLodge f).aclk = s.aclk := rfl
@[simp] theorem Mach.modLodge_freeNo (s : Mach) (f : Lodge → Lodge) : (s.modLodge f).freeNo = s.freeNo := rfl
@[simp] theorem Mach.modLodge_regs (s : Mach) (f : Lodge → Lodge) : (s.modLodge f).regs = s.regs := rfl
@[simp] theorem Mach.modLodge_keys (s : Mach) (f : Lodge → Lodge) : (s.modLodge f).keys = s.keys := rfl
@[simp] theorem Mach.modLodge_shed (s : Mach) (f : Lodge → Lodge) : (s.modLodge f).shed = s.shed := rfl
@[simp] theorem Mach.modLodge_ctxs (s : Mach) (f : Lodge → Lodge) : (s.modLodge f).ctxs = s.ctxs := rfl
@[simp] theorem Mach.modLodge_sts (s : Mach) (f : Lodge → Lodge) : (s.modLodge f).sts = s.sts := rfl
@[simp] theorem Mach.modLodge_chans (s : Mach) (f : Lodge → Lodge) : (s.modLodge f).chans = s.chans := rfl
@[simp] theorem Mach.modLodge_hs (s : Mach) (f : Lodge → Lodge) : (s.modLodge f).hs = s.hs := rfl
@[simp] theorem Mach.modLodge_msix (s : Mach) (f : Lodge → Lodge) : (s.modLodge f).msix = s.msix := rfl
@[simp] theorem Mach.modLodge_vlog (s : Mach) (f : Lodge → Lodge) : (s.modLodge f).vlog = s.vlog := rfl
@[simp] theorem Mach.modLodge_exps (s : Mach) (f : Lodge → Lodge) : (s.modLodge f).exps = s.exps := rfl
@[simp] theorem Mach.modLodge_notes (s : Mach) (f : Lodge → Lodge) : (s.modLodge f).notes = s.notes := rfl
@[simp] theorem Mach.modLodge_seeds (s : Mach) (f : Lodge → Lodge) : (s.modLodge f).seeds = s.seeds := rfl
@[simp] theorem Mach.modLodge_cells (s : Mach) (f : Lodge → Lodge) : (s.modLodge f).cells = s.cells := rfl
@[simp] theorem Mach.modLodge_sems (s : Mach) (f : Lodge → Lodge) : (s.modLodge f).sems = s.sems := rfl
@[simp] theorem Mach.modLodge_waitDone (s : Mach) (f : Lodge → Lodge) : (s.modLodge f).waitDone = s.waitDone := rfl
@[simp] theorem Mach.modLodge_widthPin (s : Mach) (f : Lodge → Lodge) : (s.modLodge f).widthPin = s.widthPin := rfl
@[simp] theorem Mach.modLodge_latch (s : Mach) (f : Lodge → Lodge) : (s.modLodge f).latch = s.latch := rfl
@[simp] theorem Mach.modLodge_w1cAt (s : Mach) (f : Lodge → Lodge) : (s.modLodge f).w1cAt = s.w1cAt := rfl
@[simp] theorem Mach.modLodge_lastRead (s : Mach) (f : Lodge → Lodge) : (s.modLodge f).lastRead = s.lastRead := rfl
@[simp] theorem Mach.modLodge_ticketsOut (s : Mach) (f : Lodge → Lodge) : (s.modLodge f).ticketsOut = s.ticketsOut := rfl
@[simp] theorem Mach.modLodge_out (s : Mach) (f : Lodge → Lodge) : (s.modLodge f).out = s.out := rfl

/-! ## modLink -/

@[simp] theorem Mach.modLink_devid (s : Mach) (l : Nat) (f : Link → Link) : (s.modLink l f).devid = s.devid := rfl
@[simp] theorem Mach.modLink_aclk (s : Mach) (l : Nat) (f : Link → Link) : (s.modLink l f).aclk = s.aclk := rfl
@[simp] theorem Mach.modLink_freeNo (s : Mach) (l : Nat) (f : Link → Link) : (s.modLink l f).freeNo = s.freeNo := rfl
@[simp] theorem Mach.modLink_regs (s : Mach) (l : Nat) (f : Link → Link) : (s.modLink l f).regs = s.regs := rfl
@[simp] theorem Mach.modLink_keys (s : Mach) (l : Nat) (f : Link → Link) : (s.modLink l f).keys = s.keys := rfl
@[simp] theorem Mach.modLink_shed (s : Mach) (l : Nat) (f : Link → Link) : (s.modLink l f).shed = s.shed := rfl
@[simp] theorem Mach.modLink_ctxs (s : Mach) (l : Nat) (f : Link → Link) : (s.modLink l f).ctxs = s.ctxs := rfl
@[simp] theorem Mach.modLink_sts (s : Mach) (l : Nat) (f : Link → Link) : (s.modLink l f).sts = s.sts := rfl
@[simp] theorem Mach.modLink_chans (s : Mach) (l : Nat) (f : Link → Link) : (s.modLink l f).chans = s.chans := rfl
@[simp] theorem Mach.modLink_hs (s : Mach) (l : Nat) (f : Link → Link) : (s.modLink l f).hs = s.hs := rfl
@[simp] theorem Mach.modLink_msix (s : Mach) (l : Nat) (f : Link → Link) : (s.modLink l f).msix = s.msix := rfl
@[simp] theorem Mach.modLink_vlog (s : Mach) (l : Nat) (f : Link → Link) : (s.modLink l f).vlog = s.vlog := rfl
@[simp] theorem Mach.modLink_exps (s : Mach) (l : Nat) (f : Link → Link) : (s.modLink l f).exps = s.exps := rfl
@[simp] theorem Mach.modLink_notes (s : Mach) (l : Nat) (f : Link → Link) : (s.modLink l f).notes = s.notes := rfl
@[simp] theorem Mach.modLink_seeds (s : Mach) (l : Nat) (f : Link → Link) : (s.modLink l f).seeds = s.seeds := rfl
@[simp] theorem Mach.modLink_cells (s : Mach) (l : Nat) (f : Link → Link) : (s.modLink l f).cells = s.cells := rfl
@[simp] theorem Mach.modLink_sems (s : Mach) (l : Nat) (f : Link → Link) : (s.modLink l f).sems = s.sems := rfl
@[simp] theorem Mach.modLink_waitDone (s : Mach) (l : Nat) (f : Link → Link) : (s.modLink l f).waitDone = s.waitDone := rfl
@[simp] theorem Mach.modLink_widthPin (s : Mach) (l : Nat) (f : Link → Link) : (s.modLink l f).widthPin = s.widthPin := rfl
@[simp] theorem Mach.modLink_latch (s : Mach) (l : Nat) (f : Link → Link) : (s.modLink l f).latch = s.latch := rfl
@[simp] theorem Mach.modLink_w1cAt (s : Mach) (l : Nat) (f : Link → Link) : (s.modLink l f).w1cAt = s.w1cAt := rfl
@[simp] theorem Mach.modLink_lastRead (s : Mach) (l : Nat) (f : Link → Link) : (s.modLink l f).lastRead = s.lastRead := rfl
@[simp] theorem Mach.modLink_ticketsOut (s : Mach) (l : Nat) (f : Link → Link) : (s.modLink l f).ticketsOut = s.ticketsOut := rfl
@[simp] theorem Mach.modLink_out (s : Mach) (l : Nat) (f : Link → Link) : (s.modLink l f).out = s.out := rfl

/-! ## modPeer -/

@[simp] theorem Mach.modPeer_devid (s : Mach) (d : Nat) (f : Peer → Peer) : (s.modPeer d f).devid = s.devid := rfl
@[simp] theorem Mach.modPeer_aclk (s : Mach) (d : Nat) (f : Peer → Peer) : (s.modPeer d f).aclk = s.aclk := rfl
@[simp] theorem Mach.modPeer_freeNo (s : Mach) (d : Nat) (f : Peer → Peer) : (s.modPeer d f).freeNo = s.freeNo := rfl
@[simp] theorem Mach.modPeer_regs (s : Mach) (d : Nat) (f : Peer → Peer) : (s.modPeer d f).regs = s.regs := rfl
@[simp] theorem Mach.modPeer_keys (s : Mach) (d : Nat) (f : Peer → Peer) : (s.modPeer d f).keys = s.keys := rfl
@[simp] theorem Mach.modPeer_shed (s : Mach) (d : Nat) (f : Peer → Peer) : (s.modPeer d f).shed = s.shed := rfl
@[simp] theorem Mach.modPeer_ctxs (s : Mach) (d : Nat) (f : Peer → Peer) : (s.modPeer d f).ctxs = s.ctxs := rfl
@[simp] theorem Mach.modPeer_sts (s : Mach) (d : Nat) (f : Peer → Peer) : (s.modPeer d f).sts = s.sts := rfl
@[simp] theorem Mach.modPeer_chans (s : Mach) (d : Nat) (f : Peer → Peer) : (s.modPeer d f).chans = s.chans := rfl
@[simp] theorem Mach.modPeer_hs (s : Mach) (d : Nat) (f : Peer → Peer) : (s.modPeer d f).hs = s.hs := rfl
@[simp] theorem Mach.modPeer_msix (s : Mach) (d : Nat) (f : Peer → Peer) : (s.modPeer d f).msix = s.msix := rfl
@[simp] theorem Mach.modPeer_vlog (s : Mach) (d : Nat) (f : Peer → Peer) : (s.modPeer d f).vlog = s.vlog := rfl
@[simp] theorem Mach.modPeer_exps (s : Mach) (d : Nat) (f : Peer → Peer) : (s.modPeer d f).exps = s.exps := rfl
@[simp] theorem Mach.modPeer_notes (s : Mach) (d : Nat) (f : Peer → Peer) : (s.modPeer d f).notes = s.notes := rfl
@[simp] theorem Mach.modPeer_seeds (s : Mach) (d : Nat) (f : Peer → Peer) : (s.modPeer d f).seeds = s.seeds := rfl
@[simp] theorem Mach.modPeer_cells (s : Mach) (d : Nat) (f : Peer → Peer) : (s.modPeer d f).cells = s.cells := rfl
@[simp] theorem Mach.modPeer_sems (s : Mach) (d : Nat) (f : Peer → Peer) : (s.modPeer d f).sems = s.sems := rfl
@[simp] theorem Mach.modPeer_waitDone (s : Mach) (d : Nat) (f : Peer → Peer) : (s.modPeer d f).waitDone = s.waitDone := rfl
@[simp] theorem Mach.modPeer_widthPin (s : Mach) (d : Nat) (f : Peer → Peer) : (s.modPeer d f).widthPin = s.widthPin := rfl
@[simp] theorem Mach.modPeer_latch (s : Mach) (d : Nat) (f : Peer → Peer) : (s.modPeer d f).latch = s.latch := rfl
@[simp] theorem Mach.modPeer_w1cAt (s : Mach) (d : Nat) (f : Peer → Peer) : (s.modPeer d f).w1cAt = s.w1cAt := rfl
@[simp] theorem Mach.modPeer_lastRead (s : Mach) (d : Nat) (f : Peer → Peer) : (s.modPeer d f).lastRead = s.lastRead := rfl
@[simp] theorem Mach.modPeer_ticketsOut (s : Mach) (d : Nat) (f : Peer → Peer) : (s.modPeer d f).ticketsOut = s.ticketsOut := rfl
@[simp] theorem Mach.modPeer_out (s : Mach) (d : Nat) (f : Peer → Peer) : (s.modPeer d f).out = s.out := rfl

/-! ## modStage -/

@[simp] theorem Mach.modStage_devid (s : Mach) (c g : Nat) (f : StageRun → StageRun) : (s.modStage c g f).devid = s.devid := rfl
@[simp] theorem Mach.modStage_aclk (s : Mach) (c g : Nat) (f : StageRun → StageRun) : (s.modStage c g f).aclk = s.aclk := rfl
@[simp] theorem Mach.modStage_freeNo (s : Mach) (c g : Nat) (f : StageRun → StageRun) : (s.modStage c g f).freeNo = s.freeNo := rfl
@[simp] theorem Mach.modStage_regs (s : Mach) (c g : Nat) (f : StageRun → StageRun) : (s.modStage c g f).regs = s.regs := rfl
@[simp] theorem Mach.modStage_keys (s : Mach) (c g : Nat) (f : StageRun → StageRun) : (s.modStage c g f).keys = s.keys := rfl
@[simp] theorem Mach.modStage_shed (s : Mach) (c g : Nat) (f : StageRun → StageRun) : (s.modStage c g f).shed = s.shed := rfl
@[simp] theorem Mach.modStage_sts (s : Mach) (c g : Nat) (f : StageRun → StageRun) : (s.modStage c g f).sts = s.sts := rfl
@[simp] theorem Mach.modStage_chans (s : Mach) (c g : Nat) (f : StageRun → StageRun) : (s.modStage c g f).chans = s.chans := rfl
@[simp] theorem Mach.modStage_hs (s : Mach) (c g : Nat) (f : StageRun → StageRun) : (s.modStage c g f).hs = s.hs := rfl
@[simp] theorem Mach.modStage_msix (s : Mach) (c g : Nat) (f : StageRun → StageRun) : (s.modStage c g f).msix = s.msix := rfl
@[simp] theorem Mach.modStage_vlog (s : Mach) (c g : Nat) (f : StageRun → StageRun) : (s.modStage c g f).vlog = s.vlog := rfl
@[simp] theorem Mach.modStage_lodge (s : Mach) (c g : Nat) (f : StageRun → StageRun) : (s.modStage c g f).lodge = s.lodge := rfl
@[simp] theorem Mach.modStage_exps (s : Mach) (c g : Nat) (f : StageRun → StageRun) : (s.modStage c g f).exps = s.exps := rfl
@[simp] theorem Mach.modStage_notes (s : Mach) (c g : Nat) (f : StageRun → StageRun) : (s.modStage c g f).notes = s.notes := rfl
@[simp] theorem Mach.modStage_seeds (s : Mach) (c g : Nat) (f : StageRun → StageRun) : (s.modStage c g f).seeds = s.seeds := rfl
@[simp] theorem Mach.modStage_cells (s : Mach) (c g : Nat) (f : StageRun → StageRun) : (s.modStage c g f).cells = s.cells := rfl
@[simp] theorem Mach.modStage_sems (s : Mach) (c g : Nat) (f : StageRun → StageRun) : (s.modStage c g f).sems = s.sems := rfl
@[simp] theorem Mach.modStage_waitDone (s : Mach) (c g : Nat) (f : StageRun → StageRun) : (s.modStage c g f).waitDone = s.waitDone := rfl
@[simp] theorem Mach.modStage_widthPin (s : Mach) (c g : Nat) (f : StageRun → StageRun) : (s.modStage c g f).widthPin = s.widthPin := rfl
@[simp] theorem Mach.modStage_latch (s : Mach) (c g : Nat) (f : StageRun → StageRun) : (s.modStage c g f).latch = s.latch := rfl
@[simp] theorem Mach.modStage_w1cAt (s : Mach) (c g : Nat) (f : StageRun → StageRun) : (s.modStage c g f).w1cAt = s.w1cAt := rfl
@[simp] theorem Mach.modStage_lastRead (s : Mach) (c g : Nat) (f : StageRun → StageRun) : (s.modStage c g f).lastRead = s.lastRead := rfl
@[simp] theorem Mach.modStage_ticketsOut (s : Mach) (c g : Nat) (f : StageRun → StageRun) : (s.modStage c g f).ticketsOut = s.ticketsOut := rfl
@[simp] theorem Mach.modStage_out (s : Mach) (c g : Nat) (f : StageRun → StageRun) : (s.modStage c g f).out = s.out := rfl

/-! ## modStats -/

@[simp] theorem Mach.modStats_devid (s : Mach) (c g : Nat) (f : StageStats → StageStats) : (s.modStats c g f).devid = s.devid := rfl
@[simp] theorem Mach.modStats_aclk (s : Mach) (c g : Nat) (f : StageStats → StageStats) : (s.modStats c g f).aclk = s.aclk := rfl
@[simp] theorem Mach.modStats_freeNo (s : Mach) (c g : Nat) (f : StageStats → StageStats) : (s.modStats c g f).freeNo = s.freeNo := rfl
@[simp] theorem Mach.modStats_regs (s : Mach) (c g : Nat) (f : StageStats → StageStats) : (s.modStats c g f).regs = s.regs := rfl
@[simp] theorem Mach.modStats_keys (s : Mach) (c g : Nat) (f : StageStats → StageStats) : (s.modStats c g f).keys = s.keys := rfl
@[simp] theorem Mach.modStats_shed (s : Mach) (c g : Nat) (f : StageStats → StageStats) : (s.modStats c g f).shed = s.shed := rfl
@[simp] theorem Mach.modStats_sts (s : Mach) (c g : Nat) (f : StageStats → StageStats) : (s.modStats c g f).sts = s.sts := rfl
@[simp] theorem Mach.modStats_chans (s : Mach) (c g : Nat) (f : StageStats → StageStats) : (s.modStats c g f).chans = s.chans := rfl
@[simp] theorem Mach.modStats_hs (s : Mach) (c g : Nat) (f : StageStats → StageStats) : (s.modStats c g f).hs = s.hs := rfl
@[simp] theorem Mach.modStats_msix (s : Mach) (c g : Nat) (f : StageStats → StageStats) : (s.modStats c g f).msix = s.msix := rfl
@[simp] theorem Mach.modStats_vlog (s : Mach) (c g : Nat) (f : StageStats → StageStats) : (s.modStats c g f).vlog = s.vlog := rfl
@[simp] theorem Mach.modStats_lodge (s : Mach) (c g : Nat) (f : StageStats → StageStats) : (s.modStats c g f).lodge = s.lodge := rfl
@[simp] theorem Mach.modStats_exps (s : Mach) (c g : Nat) (f : StageStats → StageStats) : (s.modStats c g f).exps = s.exps := rfl
@[simp] theorem Mach.modStats_notes (s : Mach) (c g : Nat) (f : StageStats → StageStats) : (s.modStats c g f).notes = s.notes := rfl
@[simp] theorem Mach.modStats_seeds (s : Mach) (c g : Nat) (f : StageStats → StageStats) : (s.modStats c g f).seeds = s.seeds := rfl
@[simp] theorem Mach.modStats_cells (s : Mach) (c g : Nat) (f : StageStats → StageStats) : (s.modStats c g f).cells = s.cells := rfl
@[simp] theorem Mach.modStats_sems (s : Mach) (c g : Nat) (f : StageStats → StageStats) : (s.modStats c g f).sems = s.sems := rfl
@[simp] theorem Mach.modStats_waitDone (s : Mach) (c g : Nat) (f : StageStats → StageStats) : (s.modStats c g f).waitDone = s.waitDone := rfl
@[simp] theorem Mach.modStats_widthPin (s : Mach) (c g : Nat) (f : StageStats → StageStats) : (s.modStats c g f).widthPin = s.widthPin := rfl
@[simp] theorem Mach.modStats_latch (s : Mach) (c g : Nat) (f : StageStats → StageStats) : (s.modStats c g f).latch = s.latch := rfl
@[simp] theorem Mach.modStats_w1cAt (s : Mach) (c g : Nat) (f : StageStats → StageStats) : (s.modStats c g f).w1cAt = s.w1cAt := rfl
@[simp] theorem Mach.modStats_lastRead (s : Mach) (c g : Nat) (f : StageStats → StageStats) : (s.modStats c g f).lastRead = s.lastRead := rfl
@[simp] theorem Mach.modStats_ticketsOut (s : Mach) (c g : Nat) (f : StageStats → StageStats) : (s.modStats c g f).ticketsOut = s.ticketsOut := rfl
@[simp] theorem Mach.modStats_out (s : Mach) (c g : Nat) (f : StageStats → StageStats) : (s.modStats c g f).out = s.out := rfl

/-! ## modEng -/

@[simp] theorem Mach.modEng_devid (s : Mach) (n e : Nat) (f : Engine → Engine) : (s.modEng n e f).devid = s.devid := rfl
@[simp] theorem Mach.modEng_aclk (s : Mach) (n e : Nat) (f : Engine → Engine) : (s.modEng n e f).aclk = s.aclk := rfl
@[simp] theorem Mach.modEng_freeNo (s : Mach) (n e : Nat) (f : Engine → Engine) : (s.modEng n e f).freeNo = s.freeNo := rfl
@[simp] theorem Mach.modEng_regs (s : Mach) (n e : Nat) (f : Engine → Engine) : (s.modEng n e f).regs = s.regs := rfl
@[simp] theorem Mach.modEng_keys (s : Mach) (n e : Nat) (f : Engine → Engine) : (s.modEng n e f).keys = s.keys := rfl
@[simp] theorem Mach.modEng_shed (s : Mach) (n e : Nat) (f : Engine → Engine) : (s.modEng n e f).shed = s.shed := rfl
@[simp] theorem Mach.modEng_ctxs (s : Mach) (n e : Nat) (f : Engine → Engine) : (s.modEng n e f).ctxs = s.ctxs := rfl
@[simp] theorem Mach.modEng_chans (s : Mach) (n e : Nat) (f : Engine → Engine) : (s.modEng n e f).chans = s.chans := rfl
@[simp] theorem Mach.modEng_hs (s : Mach) (n e : Nat) (f : Engine → Engine) : (s.modEng n e f).hs = s.hs := rfl
@[simp] theorem Mach.modEng_msix (s : Mach) (n e : Nat) (f : Engine → Engine) : (s.modEng n e f).msix = s.msix := rfl
@[simp] theorem Mach.modEng_vlog (s : Mach) (n e : Nat) (f : Engine → Engine) : (s.modEng n e f).vlog = s.vlog := rfl
@[simp] theorem Mach.modEng_lodge (s : Mach) (n e : Nat) (f : Engine → Engine) : (s.modEng n e f).lodge = s.lodge := rfl
@[simp] theorem Mach.modEng_exps (s : Mach) (n e : Nat) (f : Engine → Engine) : (s.modEng n e f).exps = s.exps := rfl
@[simp] theorem Mach.modEng_notes (s : Mach) (n e : Nat) (f : Engine → Engine) : (s.modEng n e f).notes = s.notes := rfl
@[simp] theorem Mach.modEng_seeds (s : Mach) (n e : Nat) (f : Engine → Engine) : (s.modEng n e f).seeds = s.seeds := rfl
@[simp] theorem Mach.modEng_cells (s : Mach) (n e : Nat) (f : Engine → Engine) : (s.modEng n e f).cells = s.cells := rfl
@[simp] theorem Mach.modEng_sems (s : Mach) (n e : Nat) (f : Engine → Engine) : (s.modEng n e f).sems = s.sems := rfl
@[simp] theorem Mach.modEng_waitDone (s : Mach) (n e : Nat) (f : Engine → Engine) : (s.modEng n e f).waitDone = s.waitDone := rfl
@[simp] theorem Mach.modEng_widthPin (s : Mach) (n e : Nat) (f : Engine → Engine) : (s.modEng n e f).widthPin = s.widthPin := rfl
@[simp] theorem Mach.modEng_latch (s : Mach) (n e : Nat) (f : Engine → Engine) : (s.modEng n e f).latch = s.latch := rfl
@[simp] theorem Mach.modEng_w1cAt (s : Mach) (n e : Nat) (f : Engine → Engine) : (s.modEng n e f).w1cAt = s.w1cAt := rfl
@[simp] theorem Mach.modEng_lastRead (s : Mach) (n e : Nat) (f : Engine → Engine) : (s.modEng n e f).lastRead = s.lastRead := rfl
@[simp] theorem Mach.modEng_ticketsOut (s : Mach) (n e : Nat) (f : Engine → Engine) : (s.modEng n e f).ticketsOut = s.ticketsOut := rfl
@[simp] theorem Mach.modEng_out (s : Mach) (n e : Nat) (f : Engine → Engine) : (s.modEng n e f).out = s.out := rfl

/-! ## modTask -/

@[simp] theorem Mach.modTask_devid (s : Mach) (n t : Nat) (f : Task → Task) : (s.modTask n t f).devid = s.devid := rfl
@[simp] theorem Mach.modTask_aclk (s : Mach) (n t : Nat) (f : Task → Task) : (s.modTask n t f).aclk = s.aclk := rfl
@[simp] theorem Mach.modTask_freeNo (s : Mach) (n t : Nat) (f : Task → Task) : (s.modTask n t f).freeNo = s.freeNo := rfl
@[simp] theorem Mach.modTask_regs (s : Mach) (n t : Nat) (f : Task → Task) : (s.modTask n t f).regs = s.regs := rfl
@[simp] theorem Mach.modTask_keys (s : Mach) (n t : Nat) (f : Task → Task) : (s.modTask n t f).keys = s.keys := rfl
@[simp] theorem Mach.modTask_shed (s : Mach) (n t : Nat) (f : Task → Task) : (s.modTask n t f).shed = s.shed := rfl
@[simp] theorem Mach.modTask_ctxs (s : Mach) (n t : Nat) (f : Task → Task) : (s.modTask n t f).ctxs = s.ctxs := rfl
@[simp] theorem Mach.modTask_chans (s : Mach) (n t : Nat) (f : Task → Task) : (s.modTask n t f).chans = s.chans := rfl
@[simp] theorem Mach.modTask_hs (s : Mach) (n t : Nat) (f : Task → Task) : (s.modTask n t f).hs = s.hs := rfl
@[simp] theorem Mach.modTask_msix (s : Mach) (n t : Nat) (f : Task → Task) : (s.modTask n t f).msix = s.msix := rfl
@[simp] theorem Mach.modTask_vlog (s : Mach) (n t : Nat) (f : Task → Task) : (s.modTask n t f).vlog = s.vlog := rfl
@[simp] theorem Mach.modTask_lodge (s : Mach) (n t : Nat) (f : Task → Task) : (s.modTask n t f).lodge = s.lodge := rfl
@[simp] theorem Mach.modTask_exps (s : Mach) (n t : Nat) (f : Task → Task) : (s.modTask n t f).exps = s.exps := rfl
@[simp] theorem Mach.modTask_notes (s : Mach) (n t : Nat) (f : Task → Task) : (s.modTask n t f).notes = s.notes := rfl
@[simp] theorem Mach.modTask_seeds (s : Mach) (n t : Nat) (f : Task → Task) : (s.modTask n t f).seeds = s.seeds := rfl
@[simp] theorem Mach.modTask_cells (s : Mach) (n t : Nat) (f : Task → Task) : (s.modTask n t f).cells = s.cells := rfl
@[simp] theorem Mach.modTask_sems (s : Mach) (n t : Nat) (f : Task → Task) : (s.modTask n t f).sems = s.sems := rfl
@[simp] theorem Mach.modTask_waitDone (s : Mach) (n t : Nat) (f : Task → Task) : (s.modTask n t f).waitDone = s.waitDone := rfl
@[simp] theorem Mach.modTask_widthPin (s : Mach) (n t : Nat) (f : Task → Task) : (s.modTask n t f).widthPin = s.widthPin := rfl
@[simp] theorem Mach.modTask_latch (s : Mach) (n t : Nat) (f : Task → Task) : (s.modTask n t f).latch = s.latch := rfl
@[simp] theorem Mach.modTask_w1cAt (s : Mach) (n t : Nat) (f : Task → Task) : (s.modTask n t f).w1cAt = s.w1cAt := rfl
@[simp] theorem Mach.modTask_lastRead (s : Mach) (n t : Nat) (f : Task → Task) : (s.modTask n t f).lastRead = s.lastRead := rfl
@[simp] theorem Mach.modTask_ticketsOut (s : Mach) (n t : Nat) (f : Task → Task) : (s.modTask n t f).ticketsOut = s.ticketsOut := rfl
@[simp] theorem Mach.modTask_out (s : Mach) (n t : Nat) (f : Task → Task) : (s.modTask n t f).out = s.out := rfl

/-! ## dropTask -/

@[simp] theorem Mach.dropTask_devid (s : Mach) (n t : Nat) : (s.dropTask n t).devid = s.devid := rfl
@[simp] theorem Mach.dropTask_aclk (s : Mach) (n t : Nat) : (s.dropTask n t).aclk = s.aclk := rfl
@[simp] theorem Mach.dropTask_freeNo (s : Mach) (n t : Nat) : (s.dropTask n t).freeNo = s.freeNo := rfl
@[simp] theorem Mach.dropTask_regs (s : Mach) (n t : Nat) : (s.dropTask n t).regs = s.regs := rfl
@[simp] theorem Mach.dropTask_keys (s : Mach) (n t : Nat) : (s.dropTask n t).keys = s.keys := rfl
@[simp] theorem Mach.dropTask_shed (s : Mach) (n t : Nat) : (s.dropTask n t).shed = s.shed := rfl
@[simp] theorem Mach.dropTask_ctxs (s : Mach) (n t : Nat) : (s.dropTask n t).ctxs = s.ctxs := rfl
@[simp] theorem Mach.dropTask_chans (s : Mach) (n t : Nat) : (s.dropTask n t).chans = s.chans := rfl
@[simp] theorem Mach.dropTask_hs (s : Mach) (n t : Nat) : (s.dropTask n t).hs = s.hs := rfl
@[simp] theorem Mach.dropTask_msix (s : Mach) (n t : Nat) : (s.dropTask n t).msix = s.msix := rfl
@[simp] theorem Mach.dropTask_vlog (s : Mach) (n t : Nat) : (s.dropTask n t).vlog = s.vlog := rfl
@[simp] theorem Mach.dropTask_lodge (s : Mach) (n t : Nat) : (s.dropTask n t).lodge = s.lodge := rfl
@[simp] theorem Mach.dropTask_exps (s : Mach) (n t : Nat) : (s.dropTask n t).exps = s.exps := rfl
@[simp] theorem Mach.dropTask_notes (s : Mach) (n t : Nat) : (s.dropTask n t).notes = s.notes := rfl
@[simp] theorem Mach.dropTask_seeds (s : Mach) (n t : Nat) : (s.dropTask n t).seeds = s.seeds := rfl
@[simp] theorem Mach.dropTask_cells (s : Mach) (n t : Nat) : (s.dropTask n t).cells = s.cells := rfl
@[simp] theorem Mach.dropTask_sems (s : Mach) (n t : Nat) : (s.dropTask n t).sems = s.sems := rfl
@[simp] theorem Mach.dropTask_waitDone (s : Mach) (n t : Nat) : (s.dropTask n t).waitDone = s.waitDone := rfl
@[simp] theorem Mach.dropTask_widthPin (s : Mach) (n t : Nat) : (s.dropTask n t).widthPin = s.widthPin := rfl
@[simp] theorem Mach.dropTask_latch (s : Mach) (n t : Nat) : (s.dropTask n t).latch = s.latch := rfl
@[simp] theorem Mach.dropTask_w1cAt (s : Mach) (n t : Nat) : (s.dropTask n t).w1cAt = s.w1cAt := rfl
@[simp] theorem Mach.dropTask_lastRead (s : Mach) (n t : Nat) : (s.dropTask n t).lastRead = s.lastRead := rfl
@[simp] theorem Mach.dropTask_ticketsOut (s : Mach) (n t : Nat) : (s.dropTask n t).ticketsOut = s.ticketsOut := rfl
@[simp] theorem Mach.dropTask_out (s : Mach) (n t : Nat) : (s.dropTask n t).out = s.out := rfl

/-! ## modExp -/

@[simp] theorem Mach.modExp_devid (s : Mach) (core port : Nat) (f : Expander → Expander) : (s.modExp core port f).devid = s.devid := rfl
@[simp] theorem Mach.modExp_aclk (s : Mach) (core port : Nat) (f : Expander → Expander) : (s.modExp core port f).aclk = s.aclk := rfl
@[simp] theorem Mach.modExp_freeNo (s : Mach) (core port : Nat) (f : Expander → Expander) : (s.modExp core port f).freeNo = s.freeNo := rfl
@[simp] theorem Mach.modExp_regs (s : Mach) (core port : Nat) (f : Expander → Expander) : (s.modExp core port f).regs = s.regs := rfl
@[simp] theorem Mach.modExp_keys (s : Mach) (core port : Nat) (f : Expander → Expander) : (s.modExp core port f).keys = s.keys := rfl
@[simp] theorem Mach.modExp_shed (s : Mach) (core port : Nat) (f : Expander → Expander) : (s.modExp core port f).shed = s.shed := rfl
@[simp] theorem Mach.modExp_ctxs (s : Mach) (core port : Nat) (f : Expander → Expander) : (s.modExp core port f).ctxs = s.ctxs := rfl
@[simp] theorem Mach.modExp_sts (s : Mach) (core port : Nat) (f : Expander → Expander) : (s.modExp core port f).sts = s.sts := rfl
@[simp] theorem Mach.modExp_chans (s : Mach) (core port : Nat) (f : Expander → Expander) : (s.modExp core port f).chans = s.chans := rfl
@[simp] theorem Mach.modExp_hs (s : Mach) (core port : Nat) (f : Expander → Expander) : (s.modExp core port f).hs = s.hs := rfl
@[simp] theorem Mach.modExp_msix (s : Mach) (core port : Nat) (f : Expander → Expander) : (s.modExp core port f).msix = s.msix := rfl
@[simp] theorem Mach.modExp_vlog (s : Mach) (core port : Nat) (f : Expander → Expander) : (s.modExp core port f).vlog = s.vlog := rfl
@[simp] theorem Mach.modExp_lodge (s : Mach) (core port : Nat) (f : Expander → Expander) : (s.modExp core port f).lodge = s.lodge := rfl
@[simp] theorem Mach.modExp_notes (s : Mach) (core port : Nat) (f : Expander → Expander) : (s.modExp core port f).notes = s.notes := rfl
@[simp] theorem Mach.modExp_seeds (s : Mach) (core port : Nat) (f : Expander → Expander) : (s.modExp core port f).seeds = s.seeds := rfl
@[simp] theorem Mach.modExp_cells (s : Mach) (core port : Nat) (f : Expander → Expander) : (s.modExp core port f).cells = s.cells := rfl
@[simp] theorem Mach.modExp_sems (s : Mach) (core port : Nat) (f : Expander → Expander) : (s.modExp core port f).sems = s.sems := rfl
@[simp] theorem Mach.modExp_waitDone (s : Mach) (core port : Nat) (f : Expander → Expander) : (s.modExp core port f).waitDone = s.waitDone := rfl
@[simp] theorem Mach.modExp_widthPin (s : Mach) (core port : Nat) (f : Expander → Expander) : (s.modExp core port f).widthPin = s.widthPin := rfl
@[simp] theorem Mach.modExp_latch (s : Mach) (core port : Nat) (f : Expander → Expander) : (s.modExp core port f).latch = s.latch := rfl
@[simp] theorem Mach.modExp_w1cAt (s : Mach) (core port : Nat) (f : Expander → Expander) : (s.modExp core port f).w1cAt = s.w1cAt := rfl
@[simp] theorem Mach.modExp_lastRead (s : Mach) (core port : Nat) (f : Expander → Expander) : (s.modExp core port f).lastRead = s.lastRead := rfl
@[simp] theorem Mach.modExp_ticketsOut (s : Mach) (core port : Nat) (f : Expander → Expander) : (s.modExp core port f).ticketsOut = s.ticketsOut := rfl
@[simp] theorem Mach.modExp_out (s : Mach) (core port : Nat) (f : Expander → Expander) : (s.modExp core port f).out = s.out := rfl

/-! ## setCell -/

@[simp] theorem Mach.setCell_devid (s : Mach) (core k : Nat) (x : Cell) : (s.setCell core k x).devid = s.devid := rfl
@[simp] theorem Mach.setCell_aclk (s : Mach) (core k : Nat) (x : Cell) : (s.setCell core k x).aclk = s.aclk := rfl
@[simp] theorem Mach.setCell_freeNo (s : Mach) (core k : Nat) (x : Cell) : (s.setCell core k x).freeNo = s.freeNo := rfl
@[simp] theorem Mach.setCell_regs (s : Mach) (core k : Nat) (x : Cell) : (s.setCell core k x).regs = s.regs := rfl
@[simp] theorem Mach.setCell_keys (s : Mach) (core k : Nat) (x : Cell) : (s.setCell core k x).keys = s.keys := rfl
@[simp] theorem Mach.setCell_shed (s : Mach) (core k : Nat) (x : Cell) : (s.setCell core k x).shed = s.shed := rfl
@[simp] theorem Mach.setCell_ctxs (s : Mach) (core k : Nat) (x : Cell) : (s.setCell core k x).ctxs = s.ctxs := rfl
@[simp] theorem Mach.setCell_sts (s : Mach) (core k : Nat) (x : Cell) : (s.setCell core k x).sts = s.sts := rfl
@[simp] theorem Mach.setCell_chans (s : Mach) (core k : Nat) (x : Cell) : (s.setCell core k x).chans = s.chans := rfl
@[simp] theorem Mach.setCell_hs (s : Mach) (core k : Nat) (x : Cell) : (s.setCell core k x).hs = s.hs := rfl
@[simp] theorem Mach.setCell_msix (s : Mach) (core k : Nat) (x : Cell) : (s.setCell core k x).msix = s.msix := rfl
@[simp] theorem Mach.setCell_vlog (s : Mach) (core k : Nat) (x : Cell) : (s.setCell core k x).vlog = s.vlog := rfl
@[simp] theorem Mach.setCell_lodge (s : Mach) (core k : Nat) (x : Cell) : (s.setCell core k x).lodge = s.lodge := rfl
@[simp] theorem Mach.setCell_exps (s : Mach) (core k : Nat) (x : Cell) : (s.setCell core k x).exps = s.exps := rfl
@[simp] theorem Mach.setCell_notes (s : Mach) (core k : Nat) (x : Cell) : (s.setCell core k x).notes = s.notes := rfl
@[simp] theorem Mach.setCell_seeds (s : Mach) (core k : Nat) (x : Cell) : (s.setCell core k x).seeds = s.seeds := rfl
@[simp] theorem Mach.setCell_sems (s : Mach) (core k : Nat) (x : Cell) : (s.setCell core k x).sems = s.sems := rfl
@[simp] theorem Mach.setCell_waitDone (s : Mach) (core k : Nat) (x : Cell) : (s.setCell core k x).waitDone = s.waitDone := rfl
@[simp] theorem Mach.setCell_widthPin (s : Mach) (core k : Nat) (x : Cell) : (s.setCell core k x).widthPin = s.widthPin := rfl
@[simp] theorem Mach.setCell_latch (s : Mach) (core k : Nat) (x : Cell) : (s.setCell core k x).latch = s.latch := rfl
@[simp] theorem Mach.setCell_w1cAt (s : Mach) (core k : Nat) (x : Cell) : (s.setCell core k x).w1cAt = s.w1cAt := rfl
@[simp] theorem Mach.setCell_lastRead (s : Mach) (core k : Nat) (x : Cell) : (s.setCell core k x).lastRead = s.lastRead := rfl
@[simp] theorem Mach.setCell_ticketsOut (s : Mach) (core k : Nat) (x : Cell) : (s.setCell core k x).ticketsOut = s.ticketsOut := rfl
@[simp] theorem Mach.setCell_out (s : Mach) (core k : Nat) (x : Cell) : (s.setCell core k x).out = s.out := rfl

/-! ## setSem -/

@[simp] theorem Mach.setSem_devid (s : Mach) (n i v : Nat) : (s.setSem n i v).devid = s.devid := rfl
@[simp] theorem Mach.setSem_aclk (s : Mach) (n i v : Nat) : (s.setSem n i v).aclk = s.aclk := rfl
@[simp] theorem Mach.setSem_freeNo (s : Mach) (n i v : Nat) : (s.setSem n i v).freeNo = s.freeNo := rfl
@[simp] theorem Mach.setSem_regs (s : Mach) (n i v : Nat) : (s.setSem n i v).regs = s.regs := rfl
@[simp] theorem Mach.setSem_keys (s : Mach) (n i v : Nat) : (s.setSem n i v).keys = s.keys := rfl
@[simp] theorem Mach.setSem_shed (s : Mach) (n i v : Nat) : (s.setSem n i v).shed = s.shed := rfl
@[simp] theorem Mach.setSem_ctxs (s : Mach) (n i v : Nat) : (s.setSem n i v).ctxs = s.ctxs := rfl
@[simp] theorem Mach.setSem_sts (s : Mach) (n i v : Nat) : (s.setSem n i v).sts = s.sts := rfl
@[simp] theorem Mach.setSem_chans (s : Mach) (n i v : Nat) : (s.setSem n i v).chans = s.chans := rfl
@[simp] theorem Mach.setSem_hs (s : Mach) (n i v : Nat) : (s.setSem n i v).hs = s.hs := rfl
@[simp] theorem Mach.setSem_msix (s : Mach) (n i v : Nat) : (s.setSem n i v).msix = s.msix := rfl
@[simp] theorem Mach.setSem_vlog (s : Mach) (n i v : Nat) : (s.setSem n i v).vlog = s.vlog := rfl
@[simp] theorem Mach.setSem_lodge (s : Mach) (n i v : Nat) : (s.setSem n i v).lodge = s.lodge := rfl
@[simp] theorem Mach.setSem_exps (s : Mach) (n i v : Nat) : (s.setSem n i v).exps = s.exps := rfl
@[simp] theorem Mach.setSem_notes (s : Mach) (n i v : Nat) : (s.setSem n i v).notes = s.notes := rfl
@[simp] theorem Mach.setSem_seeds (s : Mach) (n i v : Nat) : (s.setSem n i v).seeds = s.seeds := rfl
@[simp] theorem Mach.setSem_cells (s : Mach) (n i v : Nat) : (s.setSem n i v).cells = s.cells := rfl
@[simp] theorem Mach.setSem_waitDone (s : Mach) (n i v : Nat) : (s.setSem n i v).waitDone = s.waitDone := rfl
@[simp] theorem Mach.setSem_widthPin (s : Mach) (n i v : Nat) : (s.setSem n i v).widthPin = s.widthPin := rfl
@[simp] theorem Mach.setSem_latch (s : Mach) (n i v : Nat) : (s.setSem n i v).latch = s.latch := rfl
@[simp] theorem Mach.setSem_w1cAt (s : Mach) (n i v : Nat) : (s.setSem n i v).w1cAt = s.w1cAt := rfl
@[simp] theorem Mach.setSem_lastRead (s : Mach) (n i v : Nat) : (s.setSem n i v).lastRead = s.lastRead := rfl
@[simp] theorem Mach.setSem_ticketsOut (s : Mach) (n i v : Nat) : (s.setSem n i v).ticketsOut = s.ticketsOut := rfl
@[simp] theorem Mach.setSem_out (s : Mach) (n i v : Nat) : (s.setSem n i v).out = s.out := rfl

/-! ## write -/

@[simp] theorem Mach.write_devid (s : Mach) (sp : Space) (b : List (Nat × Byte)) : (s.write sp b).devid = s.devid := rfl
@[simp] theorem Mach.write_aclk (s : Mach) (sp : Space) (b : List (Nat × Byte)) : (s.write sp b).aclk = s.aclk := rfl
@[simp] theorem Mach.write_freeNo (s : Mach) (sp : Space) (b : List (Nat × Byte)) : (s.write sp b).freeNo = s.freeNo := rfl
@[simp] theorem Mach.write_regs (s : Mach) (sp : Space) (b : List (Nat × Byte)) : (s.write sp b).regs = s.regs := rfl
@[simp] theorem Mach.write_keys (s : Mach) (sp : Space) (b : List (Nat × Byte)) : (s.write sp b).keys = s.keys := rfl
@[simp] theorem Mach.write_shed (s : Mach) (sp : Space) (b : List (Nat × Byte)) : (s.write sp b).shed = s.shed := rfl
@[simp] theorem Mach.write_ctxs (s : Mach) (sp : Space) (b : List (Nat × Byte)) : (s.write sp b).ctxs = s.ctxs := rfl
@[simp] theorem Mach.write_sts (s : Mach) (sp : Space) (b : List (Nat × Byte)) : (s.write sp b).sts = s.sts := rfl
@[simp] theorem Mach.write_chans (s : Mach) (sp : Space) (b : List (Nat × Byte)) : (s.write sp b).chans = s.chans := rfl
@[simp] theorem Mach.write_hs (s : Mach) (sp : Space) (b : List (Nat × Byte)) : (s.write sp b).hs = s.hs := rfl
@[simp] theorem Mach.write_msix (s : Mach) (sp : Space) (b : List (Nat × Byte)) : (s.write sp b).msix = s.msix := rfl
@[simp] theorem Mach.write_vlog (s : Mach) (sp : Space) (b : List (Nat × Byte)) : (s.write sp b).vlog = s.vlog := rfl
@[simp] theorem Mach.write_lodge (s : Mach) (sp : Space) (b : List (Nat × Byte)) : (s.write sp b).lodge = s.lodge := rfl
@[simp] theorem Mach.write_exps (s : Mach) (sp : Space) (b : List (Nat × Byte)) : (s.write sp b).exps = s.exps := rfl
@[simp] theorem Mach.write_notes (s : Mach) (sp : Space) (b : List (Nat × Byte)) : (s.write sp b).notes = s.notes := rfl
@[simp] theorem Mach.write_seeds (s : Mach) (sp : Space) (b : List (Nat × Byte)) : (s.write sp b).seeds = s.seeds := rfl
@[simp] theorem Mach.write_cells (s : Mach) (sp : Space) (b : List (Nat × Byte)) : (s.write sp b).cells = s.cells := rfl
@[simp] theorem Mach.write_sems (s : Mach) (sp : Space) (b : List (Nat × Byte)) : (s.write sp b).sems = s.sems := rfl
@[simp] theorem Mach.write_waitDone (s : Mach) (sp : Space) (b : List (Nat × Byte)) : (s.write sp b).waitDone = s.waitDone := rfl
@[simp] theorem Mach.write_widthPin (s : Mach) (sp : Space) (b : List (Nat × Byte)) : (s.write sp b).widthPin = s.widthPin := rfl
@[simp] theorem Mach.write_latch (s : Mach) (sp : Space) (b : List (Nat × Byte)) : (s.write sp b).latch = s.latch := rfl
@[simp] theorem Mach.write_w1cAt (s : Mach) (sp : Space) (b : List (Nat × Byte)) : (s.write sp b).w1cAt = s.w1cAt := rfl
@[simp] theorem Mach.write_lastRead (s : Mach) (sp : Space) (b : List (Nat × Byte)) : (s.write sp b).lastRead = s.lastRead := rfl
@[simp] theorem Mach.write_ticketsOut (s : Mach) (sp : Space) (b : List (Nat × Byte)) : (s.write sp b).ticketsOut = s.ticketsOut := rfl

/-! ## logv -/

@[simp] theorem Mach.logv_devid (s : Mach) (e : VEntry) : (s.logv e).devid = s.devid := rfl
@[simp] theorem Mach.logv_aclk (s : Mach) (e : VEntry) : (s.logv e).aclk = s.aclk := rfl
@[simp] theorem Mach.logv_freeNo (s : Mach) (e : VEntry) : (s.logv e).freeNo = s.freeNo := rfl
@[simp] theorem Mach.logv_regs (s : Mach) (e : VEntry) : (s.logv e).regs = s.regs := rfl
@[simp] theorem Mach.logv_keys (s : Mach) (e : VEntry) : (s.logv e).keys = s.keys := rfl
@[simp] theorem Mach.logv_shed (s : Mach) (e : VEntry) : (s.logv e).shed = s.shed := rfl
@[simp] theorem Mach.logv_ctxs (s : Mach) (e : VEntry) : (s.logv e).ctxs = s.ctxs := rfl
@[simp] theorem Mach.logv_sts (s : Mach) (e : VEntry) : (s.logv e).sts = s.sts := rfl
@[simp] theorem Mach.logv_chans (s : Mach) (e : VEntry) : (s.logv e).chans = s.chans := rfl
@[simp] theorem Mach.logv_hs (s : Mach) (e : VEntry) : (s.logv e).hs = s.hs := rfl
@[simp] theorem Mach.logv_msix (s : Mach) (e : VEntry) : (s.logv e).msix = s.msix := rfl
@[simp] theorem Mach.logv_lodge (s : Mach) (e : VEntry) : (s.logv e).lodge = s.lodge := rfl
@[simp] theorem Mach.logv_exps (s : Mach) (e : VEntry) : (s.logv e).exps = s.exps := rfl
@[simp] theorem Mach.logv_notes (s : Mach) (e : VEntry) : (s.logv e).notes = s.notes := rfl
@[simp] theorem Mach.logv_seeds (s : Mach) (e : VEntry) : (s.logv e).seeds = s.seeds := rfl
@[simp] theorem Mach.logv_cells (s : Mach) (e : VEntry) : (s.logv e).cells = s.cells := rfl
@[simp] theorem Mach.logv_sems (s : Mach) (e : VEntry) : (s.logv e).sems = s.sems := rfl
@[simp] theorem Mach.logv_waitDone (s : Mach) (e : VEntry) : (s.logv e).waitDone = s.waitDone := rfl
@[simp] theorem Mach.logv_widthPin (s : Mach) (e : VEntry) : (s.logv e).widthPin = s.widthPin := rfl
@[simp] theorem Mach.logv_latch (s : Mach) (e : VEntry) : (s.logv e).latch = s.latch := rfl
@[simp] theorem Mach.logv_w1cAt (s : Mach) (e : VEntry) : (s.logv e).w1cAt = s.w1cAt := rfl
@[simp] theorem Mach.logv_lastRead (s : Mach) (e : VEntry) : (s.logv e).lastRead = s.lastRead := rfl
@[simp] theorem Mach.logv_ticketsOut (s : Mach) (e : VEntry) : (s.logv e).ticketsOut = s.ticketsOut := rfl
@[simp] theorem Mach.logv_out (s : Mach) (e : VEntry) : (s.logv e).out = s.out := rfl

/-! ## markSet -/

@[simp] theorem Mach.markSet_devid (s : Mach) (k : Nat) : (s.markSet k).devid = s.devid := rfl
@[simp] theorem Mach.markSet_aclk (s : Mach) (k : Nat) : (s.markSet k).aclk = s.aclk := rfl
@[simp] theorem Mach.markSet_freeNo (s : Mach) (k : Nat) : (s.markSet k).freeNo = s.freeNo := rfl
@[simp] theorem Mach.markSet_regs (s : Mach) (k : Nat) : (s.markSet k).regs = s.regs := rfl
@[simp] theorem Mach.markSet_keys (s : Mach) (k : Nat) : (s.markSet k).keys = s.keys := rfl
@[simp] theorem Mach.markSet_shed (s : Mach) (k : Nat) : (s.markSet k).shed = s.shed := rfl
@[simp] theorem Mach.markSet_ctxs (s : Mach) (k : Nat) : (s.markSet k).ctxs = s.ctxs := rfl
@[simp] theorem Mach.markSet_sts (s : Mach) (k : Nat) : (s.markSet k).sts = s.sts := rfl
@[simp] theorem Mach.markSet_chans (s : Mach) (k : Nat) : (s.markSet k).chans = s.chans := rfl
@[simp] theorem Mach.markSet_hs (s : Mach) (k : Nat) : (s.markSet k).hs = s.hs := rfl
@[simp] theorem Mach.markSet_msix (s : Mach) (k : Nat) : (s.markSet k).msix = s.msix := rfl
@[simp] theorem Mach.markSet_vlog (s : Mach) (k : Nat) : (s.markSet k).vlog = s.vlog := rfl
@[simp] theorem Mach.markSet_lodge (s : Mach) (k : Nat) : (s.markSet k).lodge = s.lodge := rfl
@[simp] theorem Mach.markSet_exps (s : Mach) (k : Nat) : (s.markSet k).exps = s.exps := rfl
@[simp] theorem Mach.markSet_notes (s : Mach) (k : Nat) : (s.markSet k).notes = s.notes := rfl
@[simp] theorem Mach.markSet_seeds (s : Mach) (k : Nat) : (s.markSet k).seeds = s.seeds := rfl
@[simp] theorem Mach.markSet_cells (s : Mach) (k : Nat) : (s.markSet k).cells = s.cells := rfl
@[simp] theorem Mach.markSet_sems (s : Mach) (k : Nat) : (s.markSet k).sems = s.sems := rfl
@[simp] theorem Mach.markSet_waitDone (s : Mach) (k : Nat) : (s.markSet k).waitDone = s.waitDone := rfl
@[simp] theorem Mach.markSet_widthPin (s : Mach) (k : Nat) : (s.markSet k).widthPin = s.widthPin := rfl
@[simp] theorem Mach.markSet_latch (s : Mach) (k : Nat) : (s.markSet k).latch = s.latch := rfl
@[simp] theorem Mach.markSet_lastRead (s : Mach) (k : Nat) : (s.markSet k).lastRead = s.lastRead := rfl
@[simp] theorem Mach.markSet_ticketsOut (s : Mach) (k : Nat) : (s.markSet k).ticketsOut = s.ticketsOut := rfl
@[simp] theorem Mach.markSet_out (s : Mach) (k : Nat) : (s.markSet k).out = s.out := rfl

/-! ## setIrq -/

@[simp] theorem Mach.setIrq_devid (s : Mach) (b : Nat) : (s.setIrq b).devid = s.devid := rfl
@[simp] theorem Mach.setIrq_aclk (s : Mach) (b : Nat) : (s.setIrq b).aclk = s.aclk := rfl
@[simp] theorem Mach.setIrq_freeNo (s : Mach) (b : Nat) : (s.setIrq b).freeNo = s.freeNo := rfl
@[simp] theorem Mach.setIrq_keys (s : Mach) (b : Nat) : (s.setIrq b).keys = s.keys := rfl
@[simp] theorem Mach.setIrq_shed (s : Mach) (b : Nat) : (s.setIrq b).shed = s.shed := rfl
@[simp] theorem Mach.setIrq_ctxs (s : Mach) (b : Nat) : (s.setIrq b).ctxs = s.ctxs := rfl
@[simp] theorem Mach.setIrq_sts (s : Mach) (b : Nat) : (s.setIrq b).sts = s.sts := rfl
@[simp] theorem Mach.setIrq_chans (s : Mach) (b : Nat) : (s.setIrq b).chans = s.chans := rfl
@[simp] theorem Mach.setIrq_hs (s : Mach) (b : Nat) : (s.setIrq b).hs = s.hs := rfl
@[simp] theorem Mach.setIrq_msix (s : Mach) (b : Nat) : (s.setIrq b).msix = s.msix := rfl
@[simp] theorem Mach.setIrq_vlog (s : Mach) (b : Nat) : (s.setIrq b).vlog = s.vlog := rfl
@[simp] theorem Mach.setIrq_lodge (s : Mach) (b : Nat) : (s.setIrq b).lodge = s.lodge := rfl
@[simp] theorem Mach.setIrq_exps (s : Mach) (b : Nat) : (s.setIrq b).exps = s.exps := rfl
@[simp] theorem Mach.setIrq_notes (s : Mach) (b : Nat) : (s.setIrq b).notes = s.notes := rfl
@[simp] theorem Mach.setIrq_seeds (s : Mach) (b : Nat) : (s.setIrq b).seeds = s.seeds := rfl
@[simp] theorem Mach.setIrq_cells (s : Mach) (b : Nat) : (s.setIrq b).cells = s.cells := rfl
@[simp] theorem Mach.setIrq_sems (s : Mach) (b : Nat) : (s.setIrq b).sems = s.sems := rfl
@[simp] theorem Mach.setIrq_waitDone (s : Mach) (b : Nat) : (s.setIrq b).waitDone = s.waitDone := rfl
@[simp] theorem Mach.setIrq_widthPin (s : Mach) (b : Nat) : (s.setIrq b).widthPin = s.widthPin := rfl
@[simp] theorem Mach.setIrq_latch (s : Mach) (b : Nat) : (s.setIrq b).latch = s.latch := rfl
@[simp] theorem Mach.setIrq_lastRead (s : Mach) (b : Nat) : (s.setIrq b).lastRead = s.lastRead := rfl
@[simp] theorem Mach.setIrq_ticketsOut (s : Mach) (b : Nat) : (s.setIrq b).ticketsOut = s.ticketsOut := rfl
@[simp] theorem Mach.setIrq_out (s : Mach) (b : Nat) : (s.setIrq b).out = s.out := rfl

/-! ## wakeStation -/

@[simp] theorem Mach.wakeStation_devid (s : Mach) (n : Nat) : (s.wakeStation n).devid = s.devid := rfl
@[simp] theorem Mach.wakeStation_aclk (s : Mach) (n : Nat) : (s.wakeStation n).aclk = s.aclk := rfl
@[simp] theorem Mach.wakeStation_freeNo (s : Mach) (n : Nat) : (s.wakeStation n).freeNo = s.freeNo := rfl
@[simp] theorem Mach.wakeStation_regs (s : Mach) (n : Nat) : (s.wakeStation n).regs = s.regs := rfl
@[simp] theorem Mach.wakeStation_keys (s : Mach) (n : Nat) : (s.wakeStation n).keys = s.keys := rfl
@[simp] theorem Mach.wakeStation_shed (s : Mach) (n : Nat) : (s.wakeStation n).shed = s.shed := rfl
@[simp] theorem Mach.wakeStation_ctxs (s : Mach) (n : Nat) : (s.wakeStation n).ctxs = s.ctxs := rfl
@[simp] theorem Mach.wakeStation_chans (s : Mach) (n : Nat) : (s.wakeStation n).chans = s.chans := rfl
@[simp] theorem Mach.wakeStation_hs (s : Mach) (n : Nat) : (s.wakeStation n).hs = s.hs := rfl
@[simp] theorem Mach.wakeStation_msix (s : Mach) (n : Nat) : (s.wakeStation n).msix = s.msix := rfl
@[simp] theorem Mach.wakeStation_vlog (s : Mach) (n : Nat) : (s.wakeStation n).vlog = s.vlog := rfl
@[simp] theorem Mach.wakeStation_lodge (s : Mach) (n : Nat) : (s.wakeStation n).lodge = s.lodge := rfl
@[simp] theorem Mach.wakeStation_exps (s : Mach) (n : Nat) : (s.wakeStation n).exps = s.exps := rfl
@[simp] theorem Mach.wakeStation_notes (s : Mach) (n : Nat) : (s.wakeStation n).notes = s.notes := rfl
@[simp] theorem Mach.wakeStation_seeds (s : Mach) (n : Nat) : (s.wakeStation n).seeds = s.seeds := rfl
@[simp] theorem Mach.wakeStation_cells (s : Mach) (n : Nat) : (s.wakeStation n).cells = s.cells := rfl
@[simp] theorem Mach.wakeStation_sems (s : Mach) (n : Nat) : (s.wakeStation n).sems = s.sems := rfl
@[simp] theorem Mach.wakeStation_waitDone (s : Mach) (n : Nat) : (s.wakeStation n).waitDone = s.waitDone := rfl
@[simp] theorem Mach.wakeStation_widthPin (s : Mach) (n : Nat) : (s.wakeStation n).widthPin = s.widthPin := rfl
@[simp] theorem Mach.wakeStation_latch (s : Mach) (n : Nat) : (s.wakeStation n).latch = s.latch := rfl
@[simp] theorem Mach.wakeStation_w1cAt (s : Mach) (n : Nat) : (s.wakeStation n).w1cAt = s.w1cAt := rfl
@[simp] theorem Mach.wakeStation_lastRead (s : Mach) (n : Nat) : (s.wakeStation n).lastRead = s.lastRead := rfl
@[simp] theorem Mach.wakeStation_ticketsOut (s : Mach) (n : Nat) : (s.wakeStation n).ticketsOut = s.ticketsOut := rfl
@[simp] theorem Mach.wakeStation_out (s : Mach) (n : Nat) : (s.wakeStation n).out = s.out := rfl

/-! ## queueAcc -/

@[simp] theorem Mach.queueAcc_devid (s : Mach) (n : Nat) (a : Access) : (s.queueAcc n a).devid = s.devid := rfl
@[simp] theorem Mach.queueAcc_aclk (s : Mach) (n : Nat) (a : Access) : (s.queueAcc n a).aclk = s.aclk := rfl
@[simp] theorem Mach.queueAcc_freeNo (s : Mach) (n : Nat) (a : Access) : (s.queueAcc n a).freeNo = s.freeNo := rfl
@[simp] theorem Mach.queueAcc_regs (s : Mach) (n : Nat) (a : Access) : (s.queueAcc n a).regs = s.regs := rfl
@[simp] theorem Mach.queueAcc_keys (s : Mach) (n : Nat) (a : Access) : (s.queueAcc n a).keys = s.keys := rfl
@[simp] theorem Mach.queueAcc_shed (s : Mach) (n : Nat) (a : Access) : (s.queueAcc n a).shed = s.shed := rfl
@[simp] theorem Mach.queueAcc_ctxs (s : Mach) (n : Nat) (a : Access) : (s.queueAcc n a).ctxs = s.ctxs := rfl
@[simp] theorem Mach.queueAcc_chans (s : Mach) (n : Nat) (a : Access) : (s.queueAcc n a).chans = s.chans := rfl
@[simp] theorem Mach.queueAcc_hs (s : Mach) (n : Nat) (a : Access) : (s.queueAcc n a).hs = s.hs := rfl
@[simp] theorem Mach.queueAcc_msix (s : Mach) (n : Nat) (a : Access) : (s.queueAcc n a).msix = s.msix := rfl
@[simp] theorem Mach.queueAcc_vlog (s : Mach) (n : Nat) (a : Access) : (s.queueAcc n a).vlog = s.vlog := rfl
@[simp] theorem Mach.queueAcc_lodge (s : Mach) (n : Nat) (a : Access) : (s.queueAcc n a).lodge = s.lodge := rfl
@[simp] theorem Mach.queueAcc_exps (s : Mach) (n : Nat) (a : Access) : (s.queueAcc n a).exps = s.exps := rfl
@[simp] theorem Mach.queueAcc_notes (s : Mach) (n : Nat) (a : Access) : (s.queueAcc n a).notes = s.notes := rfl
@[simp] theorem Mach.queueAcc_seeds (s : Mach) (n : Nat) (a : Access) : (s.queueAcc n a).seeds = s.seeds := rfl
@[simp] theorem Mach.queueAcc_cells (s : Mach) (n : Nat) (a : Access) : (s.queueAcc n a).cells = s.cells := rfl
@[simp] theorem Mach.queueAcc_sems (s : Mach) (n : Nat) (a : Access) : (s.queueAcc n a).sems = s.sems := rfl
@[simp] theorem Mach.queueAcc_waitDone (s : Mach) (n : Nat) (a : Access) : (s.queueAcc n a).waitDone = s.waitDone := rfl
@[simp] theorem Mach.queueAcc_widthPin (s : Mach) (n : Nat) (a : Access) : (s.queueAcc n a).widthPin = s.widthPin := rfl
@[simp] theorem Mach.queueAcc_latch (s : Mach) (n : Nat) (a : Access) : (s.queueAcc n a).latch = s.latch := rfl
@[simp] theorem Mach.queueAcc_w1cAt (s : Mach) (n : Nat) (a : Access) : (s.queueAcc n a).w1cAt = s.w1cAt := rfl
@[simp] theorem Mach.queueAcc_lastRead (s : Mach) (n : Nat) (a : Access) : (s.queueAcc n a).lastRead = s.lastRead := rfl
@[simp] theorem Mach.queueAcc_ticketsOut (s : Mach) (n : Nat) (a : Access) : (s.queueAcc n a).ticketsOut = s.ticketsOut := rfl
@[simp] theorem Mach.queueAcc_out (s : Mach) (n : Nat) (a : Access) : (s.queueAcc n a).out = s.out := rfl

/-! ## Reading back -/

@[simp] theorem Mach.modCtx_ctx (s : Mach) (c : Nat) (f : Ctx → Ctx) : (s.modCtx c f).ctx c = f (s.ctx c) := by
  simp [Mach.ctx, Mach.modCtx]
theorem Mach.modCtx_ctx_ne (s : Mach) {c d : Nat} (f : Ctx → Ctx) (h : d ≠ c) : (s.modCtx c f).ctx d = s.ctx d :=
  aget_amod_ne _ _ _ h
@[simp] theorem Mach.modSt_st (s : Mach) (n : Nat) (f : Station → Station) : (s.modSt n f).st n = f (s.st n) := by
  simp [Mach.st, Mach.modSt]
theorem Mach.modSt_st_ne (s : Mach) {n k : Nat} (f : Station → Station) (h : k ≠ n) : (s.modSt n f).st k = s.st k :=
  aget_amod_ne _ _ _ h
@[simp] theorem Mach.wakeStation_st (s : Mach) (n : Nat) :
    (s.wakeStation n).st n = { (s.st n).askedAwake with idleSclk := 0, pgAclk := 0 } := Mach.modSt_st _ _ _
@[simp] theorem Station.askedAwake_acc (x : Station) : x.askedAwake.acc = x.acc := by unfold Station.askedAwake; split <;> rfl
@[simp] theorem Station.askedAwake_nextId (x : Station) : x.askedAwake.nextId = x.nextId := by
  unfold Station.askedAwake; split <;> rfl
@[simp] theorem Mach.queueAcc_acc (s : Mach) (n : Nat) (a : Access) :
    ((s.queueAcc n a).st n).acc = (s.st n).acc ++ [{ a with id := (s.st n).nextId }] := by simp [Mach.queueAcc]
theorem Mach.queueAcc_st_ne (s : Mach) {n k : Nat} (a : Access) (h : k ≠ n) : (s.queueAcc n a).st k = s.st k := by
  rw [Mach.queueAcc, Mach.modSt_st_ne _ _ h, Mach.wakeStation, Mach.modSt_st_ne _ _ h]
theorem Mach.wakeStation_st_ne (s : Mach) {n k : Nat} (h : k ≠ n) : (s.wakeStation n).st k = s.st k := Mach.modSt_st_ne _ _ h
@[simp] theorem Mach.modChan_chan (s : Mach) (n : Nat) (f : Chan → Chan) : (s.modChan n f).chan n = f (s.chan n) := by
  simp [Mach.chan, Mach.modChan]
theorem Mach.modChan_chan_ne (s : Mach) {n k : Nat} (f : Chan → Chan) (h : k ≠ n) : (s.modChan n f).chan k = s.chan k :=
  aget_amod_ne _ _ _ h
@[simp] theorem Mach.modRing_ring (s : Mach) (n : Nat) (f : Ring → Ring) : (s.modRing n f).ring n = f (s.ring n) := by
  simp [Mach.ring, Mach.modRing, Mach.modHs]
theorem Mach.modRing_ring_ne (s : Mach) {n k : Nat} (f : Ring → Ring) (h : k ≠ n) : (s.modRing n f).ring k = s.ring k :=
  aget_amod_ne _ _ _ h
@[simp] theorem Mach.modRpt_rpt (s : Mach) (c : Nat) (f : RptRing → RptRing) : (s.modRpt c f).rpt c = f (s.rpt c) := by
  simp [Mach.rpt, Mach.modRpt, Mach.modHs]
theorem Mach.modRpt_rpt_ne (s : Mach) {c d : Nat} (f : RptRing → RptRing) (h : d ≠ c) : (s.modRpt c f).rpt d = s.rpt d :=
  aget_amod_ne _ _ _ h
theorem Mach.modLink_link_ne (s : Mach) {l k : Nat} (f : Link → Link) (h : k ≠ l) : (s.modLink l f).link k = s.link k :=
  aget_amod_ne _ _ _ h
theorem Mach.modPeer_peer_ne (s : Mach) {d k : Nat} (f : Peer → Peer) (h : k ≠ d) : (s.modPeer d f).peer k = s.peer k :=
  aget_amod_ne _ _ _ h
@[simp] theorem Mach.modLink_link (s : Mach) (l : Nat) (f : Link → Link) : (s.modLink l f).link l = f (s.link l) := by
  simp [Mach.link, Mach.modLink, Mach.modLodge]
@[simp] theorem Mach.modPeer_peer (s : Mach) (d : Nat) (f : Peer → Peer) : (s.modPeer d f).peer d = f (s.peer d) := by
  simp [Mach.peer, Mach.modPeer, Mach.modLodge]
@[simp] theorem Mach.modStage_stage (s : Mach) (c g : Nat) (f : StageRun → StageRun) :
    (s.modStage c g f).stage c g = f (s.stage c g) := by
  simp [Mach.stage, Mach.modStage]
@[simp] theorem Mach.modEng_eng (s : Mach) (n e : Nat) (f : Engine → Engine) : (s.modEng n e f).eng n e = f (s.eng n e) := by
  simp [Mach.eng, Mach.modEng]
@[simp] theorem Mach.modExp_exp (s : Mach) (core port : Nat) (f : Expander → Expander) :
    (s.modExp core port f).exp core port = f (s.exp core port) := by
  simp [Mach.exp, Mach.modExp]
@[simp] theorem Mach.setCell_cell (s : Mach) (core k : Nat) (x : Cell) : (s.setCell core k x).cell core k = x := by
  simp [Mach.cell, Mach.setCell]
theorem Mach.setCell_cell_ne (s : Mach) {core k core' k' : Nat} (x : Cell) (h : 32 * core' + k' ≠ 32 * core + k) :
    (s.setCell core k x).cell core' k' = s.cell core' k' := aget_aset_ne _ _ _ h
@[simp] theorem Mach.setSem_sem (s : Mach) (n i v : Nat) : (s.setSem n i v).sem n i = v := by
  simp [Mach.sem, Mach.setSem]
theorem Mach.setSem_sem_ne (s : Mach) {n i n' i' : Nat} (v : Nat) (h : 8192 * n' + i' ≠ 8192 * n + i) :
    (s.setSem n i v).sem n' i' = s.sem n' i' := aget_aset_ne _ _ _ h

end Sys2Proof.Machine
end

