-- ==== Sys2Proof/Laws/Aborts.lean ====
section
/-!
SUPPORT. Works of channel 7 that have been aborted: with none, nothing is over (R143).
-/
namespace Sys2Proof.Machine

@[simp] theorem Mach.endCuts_of_none {mem : Mems} {s : Mach} {n : Nat} (h : (s.st n).cuts = []) : s.endCuts mem n = s := by
  simp [Mach.endCuts, h]

end Sys2Proof.Machine
end

