-- ==== Sys2Proof/Laws/Memory.lean ====
section
/-!
SUPPORT. Laws of the byte memories: a read after a write, the frame of a write, and the canonical form, which every
memory operation keeps.
-/
namespace Sys2Proof.Machine

theorem memRead_memWrite_same (m : List Host.Cell) (a : Nat) (b : Byte) : memRead (memWrite m a b) a = b :=
  aget_aset_same _ _ _ _

theorem memRead_memWrite_ne (m : List Host.Cell) {a x : Nat} (b : Byte) (h : x ≠ a) :
    memRead (memWrite m a b) x = memRead m x := aget_aset_ne _ _ _ h

@[simp] theorem memWrites_nil (m : List Host.Cell) : memWrites m [] = m := rfl

@[simp] theorem memWrites_cons (m : List Host.Cell) (p : Nat × Byte) (l : List (Nat × Byte)) :
    memWrites m (p :: l) = memWrites (memWrite m p.1 p.2) l := rfl

theorem memWrites_append (m : List Host.Cell) (l k : List (Nat × Byte)) :
    memWrites m (l ++ k) = memWrites (memWrites m l) k := by
  induction l generalizing m with
  | nil => rfl
  | cons p l ih => exact ih _

/-- A byte whose address is not among those written reads as before. -/
theorem memRead_memWrites_frame (l : List (Nat × Byte)) (m : List Host.Cell) (x : Nat) (h : ∀ p ∈ l, p.1 ≠ x) :
    memRead (memWrites m l) x = memRead m x := by
  induction l generalizing m with
  | nil => rfl
  | cons p l ih =>
    rw [memWrites_cons, ih _ (fun q hq => h q (by simp [hq])),
      memRead_memWrite_ne _ _ (Ne.symm (h p (by simp)))]

theorem mem_placed {a : Nat} {l : List Byte} {p : Nat × Byte} (h : p ∈ placed a l) : a ≤ p.1 ∧ p.1 < a + l.length := by
  induction l generalizing a with
  | nil => cases h
  | cons b l ih =>
    simp only [placed, List.mem_cons] at h
    rcases h with rfl | h
    · simp
    · have := ih h; simp only [List.length_cons]; omega

/-- Bytes placed from `a` up leave every byte outside their range. -/
theorem memRead_placed_frame (m : List Host.Cell) (a : Nat) (l : List Byte) (x : Nat) (h : x < a ∨ a + l.length ≤ x) :
    memRead (memWrites m (placed a l)) x = memRead m x :=
  memRead_memWrites_frame _ _ _ (fun p hp hx => by have := mem_placed hp; omega)

/-- Bytes placed from `a` up are read back. -/
theorem memReads_placed (m : List Host.Cell) (a : Nat) (l : List Byte) :
    memReads (memWrites m (placed a l)) a l.length = l := by
  induction l generalizing m a with
  | nil => rfl
  | cons b l ih =>
    simp only [placed, memWrites_cons, List.length_cons, memReads]
    rw [ih, memRead_placed_frame _ _ _ _ (Or.inl (Nat.lt_succ_self a)), memRead_memWrite_same]

@[simp] theorem memWf_nil : Memory.wf [] = true := rfl

theorem memWf_memWrite {m : List Host.Cell} (a : Nat) (b : Byte) (h : Memory.wf m = true) :
    Memory.wf (memWrite m a b) = true := acanon_aset _ _ _ _ h

theorem memWf_memWrites {m : List Host.Cell} (l : List (Nat × Byte)) (h : Memory.wf m = true) :
    Memory.wf (memWrites m l) = true := by
  induction l generalizing m with
  | nil => exact h
  | cons p l ih => exact ih (memWf_memWrite _ _ h)

theorem Mems.wf_iff (x : Mems) :
    x.wf = true ↔ Memory.wf x.fab = true ∧ Memory.wf x.sram = true ∧ Memory.wf x.host = true := by
  simp [Mems.wf, and_assoc]

/-- The writes of a command keep all three memories canonical. -/
theorem memsWf_applyWrites (ws : List MemWr) (x : Mems) (h : x.wf = true) : (applyWrites x ws).wf = true := by
  induction ws generalizing x with
  | nil => exact h
  | cons w ws ih =>
    obtain ⟨hf, hs, hh⟩ := (Mems.wf_iff x).1 h
    unfold applyWrites
    split <;> apply ih <;> rw [Mems.wf_iff]
    · exact ⟨memWf_memWrites _ hf, hs, hh⟩
    · exact ⟨hf, memWf_memWrites _ hs, hh⟩
    · exact ⟨hf, hs, memWf_memWrites _ hh⟩

@[simp] theorem memsWf_reset : State.reset.mem.wf = true := rfl

theorem applyWrites_append (ws vs : List MemWr) (x : Mems) : applyWrites x (ws ++ vs) = applyWrites (applyWrites x ws) vs := by
  induction ws generalizing x with
  | nil => rfl
  | cons w ws ih => simp only [List.cons_append, applyWrites]; split <;> exact ih _

end Sys2Proof.Machine
end

