-- ==== Sys2Proof/Laws/Act.lean ====
section
/-!
SUPPORT. What every command does, once: an ill-formed command has no effect, a well-formed one commits what its meaning
makes; a commit with no write left changes Uzoto alone.
-/
namespace Sys2Proof.Machine

theorem act_of_wf {i : Instr} {s : State} {f : Mems → Mach → Mach} (h : i.wf = true) :
    act i s f = .next (commit s (f s.mem s.m)) := by simp [act, h]

theorem act_of_not_wf {i : Instr} {s : State} {f : Mems → Mach → Mach} (h : i.wf = false) : act i s f = .next s := by
  simp [act, h]

/-- Everything a command written with `act` can do: it answers, keeps the queue, and keeps canonical memories. -/
theorem act_spec (i : Instr) (s : State) (f : Mems → Mach → Mach) :
    ∃ t, act i s f = .next t ∧ t.pending = s.pending ∧ (s.Inv → t.Inv) := by
  by_cases h : i.wf = true
  · exact ⟨_, act_of_wf h, rfl, fun hs => ⟨memsWf_applyWrites _ _ hs.1, rfl⟩⟩
  · exact ⟨s, act_of_not_wf (by simpa using h), rfl, id⟩

theorem commit_of_out_nil {s : State} {m : Mach} (h : m.out = []) : commit s m = { s with m := m } := by
  cases m; simp_all [commit, applyWrites]

theorem next_commit_eq_to {s : State} {m : Mach} (h : m.out = []) :
    (Host.Outcome.next (commit s m) : Out) = s.to m := by rw [State.to, commit_of_out_nil h]

@[simp] theorem commit_self {s : State} (h : s.Quiet) : commit s s.m = s := by rw [commit_of_out_nil h]

end Sys2Proof.Machine
end

