-- ==== Sys2Proof/Laws/Cells.lean ====
section
/-!
SUPPORT. A ticket that joins the cell-write path, or the tickets held there, joins them and takes none away (R59).
-/
namespace Sys2Proof.Machine

/-- What waits on the path after a ticket has joined it is what waited before and the ticket. -/
theorem mem_pushTicket {l : List CellItem} {t : Ticket} {last : Bool} {i : CellItem} :
    i ∈ pushTicket l t last ↔ i ∈ l ∨ i = .ticket t last := by
  cases h : i.yields t <;> simp [pushTicket, h, or_comm]

/-- Nothing but tickets of its own slot that are consumed later stands behind a ticket that has joined the path. -/
theorem pushTicket_split (l : List CellItem) (t : Ticket) (last : Bool) :
    ∃ a b, pushTicket l t last = a ++ .ticket t last :: b ∧ ∀ i ∈ b, i.yields t = true :=
  ⟨l.filter (fun i => !i.yields t), l.filter (CellItem.yields t), by simp [pushTicket], fun _ hi => (List.mem_filter.mp hi).2⟩

theorem mem_holdTicket {q : Ticket × Bool} : ∀ {l : List (Ticket × Bool)} {p : Ticket × Bool},
    q ∈ holdTicket l p ↔ q ∈ l ∨ q = p
  | [], _ => by simp [holdTicket]
  | u :: us, p => by
    cases h : p.1.before u.1 <;> simp [holdTicket, h, mem_holdTicket (l := us)] <;> tauto

end Sys2Proof.Machine
end

