-- ==== Sys2Proof/Laws/Events.lean ====
section
/-!
SUPPORT. What follows a discarded event (R17, R95): nothing, but where its context is ARMED with a swap that is due.
-/
namespace Sys2Proof.Machine

theorem Mach.freeSwap_of_not_armed {mem : Mems} {s : Mach} {c : Nat} (h : (s.ctx c).state ≠ .armed) :
    Mach.freeSwap mem s c = s := by simp [Mach.freeSwap, h]

theorem Mach.freeSwap_of_none {mem : Mems} {s : Mach} {c : Nat} (h : (s.ctx c).swap = none) :
    Mach.freeSwap mem s c = s := by simp [Mach.freeSwap, Mach.trySwap, h]

theorem Mach.freeSwap_due {mem : Mems} {s : Mach} {c : Nat} {w : PendSwap} (ha : (s.ctx c).state = .armed)
    (hw : (s.ctx c).swap = some w) (hc : w.claiming = false) (he : w.exchanging = false) (hn : s.nextArrived c = false) :
    Mach.freeSwap mem s c = s.exchange mem c w := by simp [Mach.freeSwap, Mach.trySwap, ha, hw, hc, he, hn]

end Sys2Proof.Machine
end

