-- ==== Sys2Proof/Laws/Exec.lean ====
section
/-!
SUPPORT. Every command is `act` of a function of its own, but for the fault of an answer of absent HBM: said once for all of them
(by the cases of exec).
-/
namespace Sys2Proof.Machine

/-- Every command is `act` of some function, or stops on absent HBM. -/
theorem exec_eq_act (i : Instr) (s : State) :
    (∃ f, exec i s = act i s f) ∨ (i.wf = true ∧ exec i s = .fault .hbmAbsent ∧
      ((∃ n a e, i = .hbmWriteResponse n a e ∧ s.m.absent n a true e = true) ∨
        (∃ n a e, i = .hbmReadReturn n a e ∧ s.m.absent n a false e = true))) := by
  unfold exec
  split
  case h_26 n a e =>
    unfold execHbmWriteResponse; split
    · next h => simp only [Bool.and_eq_true] at h; exact Or.inr ⟨h.1, rfl, Or.inl ⟨_, _, _, rfl, h.2⟩⟩
    · exact Or.inl ⟨_, rfl⟩
  case h_27 n a e =>
    unfold execHbmReadReturn; split
    · next h => simp only [Bool.and_eq_true] at h; exact Or.inr ⟨h.1, rfl, Or.inr ⟨_, _, _, rfl, h.2⟩⟩
    · exact Or.inl ⟨_, rfl⟩
  all_goals exact Or.inl ⟨_, rfl⟩

end Sys2Proof.Machine
end

