-- ==== Sys2Proof/Laws/Rings.lean ====
section
/-!
SUPPORT. Settling a ring, once: nothing happens unless its next descriptor is faulty. Entries that wait for their slot:
none is written where none waits (R345).
-/
namespace Sys2Proof.Machine

theorem Mach.settle_of_none {s : Mach} {r : Nat} (h : s.nextDesc r = none) (k : Nat) : s.settle r k = s := by
  cases k <;> simp [Mach.settle, h]

theorem Mach.settle_of_sound {s : Mach} {r : Nat} {d : Desc} (h : s.nextDesc r = some d)
    (hf : descFault s.devid (r / 4) d.line = none) (k : Nat) : s.settle r k = s := by
  cases k <;> simp [Mach.settle, h, hf]

/-- The next descriptor is one that waits to start, matched. -/
theorem Mach.nextDesc_spec {s : Mach} {r : Nat} {d : Desc} (h : s.nextDesc r = some d) :
    d ∈ (s.ring r).descs ∧ d.waits = true ∧ d.st = .matched := by
  unfold Mach.nextDesc at h
  dsimp only at h
  split at h
  · cases h
  · next e he =>
    split at h
    · next hm =>
      cases h
      exact ⟨List.mem_of_find?_eq_some he, List.find?_some he, by simp_all⟩
    · cases h

@[simp] theorem Mach.flushEntries_of_none {s : Mach} {r : Nat} (h : (s.ring r).heldEntries = []) : s.flushEntries r = s := by
  simp [Mach.flushEntries, h]

/-- An entry is written at once where it may be and none waits. -/
theorem Mach.putEntry_of_free {s : Mach} {r : Nat} {e : CEntry} (h : (s.ring r).heldEntries = []) (hm : s.mayEnter r e = true) :
    s.putEntry r e = s.writeEntry r e := by simp [Mach.putEntry, h, hm]

end Sys2Proof.Machine
end

