-- ==== Sys2Proof/Tests/Slice0.lean ====
section
/-!
SUPPORT. Checks of this model: ill-formed commands, values that the rules or tables of the spec give, and, for every
statement, states that meet its hypotheses (`meets_…`, one line a clause).
-/
open Sys2Proof Sys2Proof.Machine

namespace Sys2Proof.Tests

set_option Elab.async false

/-! ## Small states -/

/-- A state that is as after reset but for Uzoto's `m`. -/
def st (m : Mach) : State := { State.reset with m := m }
def m0 : Mach := State.reset.m
/-- A word from fields, each with its lowest bit. -/
def word (l : List (Nat × Nat)) : W64 := BitVec.ofNat 64 (wordN l)

/-- Whether a next state is answered, and which. -/
def answers : Out → Bool
  | .next _ => true
  | _ => false
def got : Out → State
  | .next t => t
  | _ => { State.reset with pending := [.clrmax] }

/-- Stage 9: home S1, 10 layers, 2 slots, one core, which is its lead core. -/
def stage9 : StageEntry :=
  { stage := 9, home := 1, reserve := 1, cap := 4, nlayer := 10, mbslots := 2, ledgerBase := 0x90000000, ledgerCap := 256
    firstCore := 4320, ncores := 1, leadCore := 4320 }
/-- Tensor 256 of its layer 2, consumed at layer 2. -/
def entry256 : Entry :=
  { tensor := 256, layer := 2, stage := 9, consume := [2], lead := 3, ringDepth := 1, rawMax := 4096, cell := 3 }
def plan9 : Plan := { stages := [stage9], entries := [entry256], progs := [[], [[.fin]]] }
def ctx9 (state : CtxState) : Ctx := { state, act := { plan := some plan9 } }
/-- Context 0 in a step state with the plan, and station 1 as given. -/
def mk (state : CtxState) (x : Station) : Mach := { m0 with ctxs := [(0, ctx9 state)], sts := [(1, x)] }

/-- The first word of an event of context 0, stage 9. -/
def ev0 (kind layer tensor : Nat) : W64 := word [(kind, 0), (9, 6), (layer, 18), (tensor, 34)]
/-- The second: core 4320, run length 64, SRAM base 0x1000. -/
def ev1 (runLen base : Nat) : W64 := word [(4320, 0), (runLen, 16), (base, 32)]
def fwdEv : QEvent := { w0 := ev0 1 2 256, w1 := ev1 64 256, poster := 4320 }
def tickEv : QEvent := { w0 := ev0 2 5 0xFFFFF, w1 := ev1 0 0, poster := 4320 }
def endEv : QEvent := { w0 := ev0 3 0 0xFFFFF, w1 := ev1 0 0, poster := 4320 }
def cancelEv : QEvent := { w0 := ev0 4 0 0xFFFFF, w1 := ev1 0 0, poster := 4320 }
/-- The same event posted by another core than the one it names. -/
def alien (e : QEvent) : QEvent := { e with poster := 4321 }
def queued (l : List QEvent) : Mach := mk .running { evq := l }

/-! ## Ill-formed commands: each is refused by the check of its operand -/

theorem test_wf_station : (Instr.eventForward 6).wf = false ∧ (Instr.eventForward 5).wf = true := by decide
theorem test_wf_engine : (Instr.seta 0 6).wf = false ∧ (Instr.seta 5 5).wf = true := by decide
theorem test_wf_core : (Instr.eventPost 25920 0 0).wf = false ∧ (Instr.eventPost 25919 0 0).wf = true := by decide
theorem test_wf_port : (Instr.frameCommand 0 2 0).wf = false ∧ (Instr.frameCommand 0 1 0).wf = true := by decide
theorem test_wf_context : (Instr.stepBoundary 4).wf = false ∧ (Instr.stepBoundary 3).wf = true := by decide
theorem test_wf_tier : (Instr.extraLeadDecrease 0 0 0).wf = false ∧ (Instr.extraLeadDecrease 0 0 3).wf = false ∧
    (Instr.extraLeadDecrease 0 0 2).wf = true := by decide
theorem test_wf_stage : (Instr.stallThreshold 0 64 0).wf = false ∧ (Instr.stallThreshold 0 63 0).wf = true := by decide
theorem test_wf_cause : (Instr.stallThreshold 0 0 11).wf = false ∧ (Instr.stallThreshold 0 0 10).wf = true := by decide
theorem test_wf_cell : (Instr.cellWait 0 32).wf = false ∧ (Instr.cellWait 0 31).wf = true := by decide
theorem test_wf_lane : (Instr.laneBlockDone 0 16).wf = false ∧ (Instr.laneBlockDone 0 15).wf = true := by decide
theorem test_wf_share : (Instr.transferIssue 0 4).wf = false ∧ (Instr.transferIssue 0 3).wf = true := by decide
theorem test_wf_errors : (Instr.deliveryBlockWrite 0 3).wf = false ∧ (Instr.deliveryBlockWrite 0 2).wf = true := by decide
theorem test_wf_ring : (Instr.nop 16).wf = false ∧ (Instr.nop 15).wf = true := by decide
theorem test_wf_ring_index : (Instr.enable 20).wf = false ∧ (Instr.enable 19).wf = true := by decide
theorem test_wf_key : (Instr.load 4).wf = false ∧ (Instr.load 3).wf = true := by decide
theorem test_wf_wake : (Instr.wake 64).wf = false ∧ (Instr.wake 63).wf = true := by decide
theorem test_wf_vector : (Instr.msixUnmask 64).wf = false ∧ (Instr.msixUnmask 63).wf = true := by decide
theorem test_wf_link : (Instr.linkUp 12 0).wf = false ∧ (Instr.linkUp 11 8).wf = false ∧ (Instr.linkUp 11 7).wf = true := by decide
theorem test_wf_device : (Instr.deviceReset 8).wf = false ∧ (Instr.deviceReset 7).wf = true := by decide
theorem test_wf_payload : (Instr.put 0 { h := 4, a0 := 0, a1 := 0, a2 := 0, payload := [0] }).wf = false := by decide

/-! ## The whole machine -/

theorem meets_StepRunsFront : ∃ s : State, s.pending = .clrmax :: [.vlogMark] := ⟨{ st m0 with pending := [.clrmax, .vlogMark] }, rfl⟩
theorem meets_EmptyQueueTicks : (st m0).pending = [] ∧ (st m0).Quiet := by decide
theorem meets_StepKeepsInv : (st m0).Inv ∧ answers (step (st m0)) = true ∧
    answers (step { st m0 with pending := [.clrmax] }) = true := by decide +kernel
theorem meets_StepKeepsBounds : (st m0).m.Bounded ∧ answers (step (st m0)) = true :=
  ⟨⟨fun _ => ⟨Nat.zero_le _, fun _ _ => Nat.zero_le _⟩, fun _ => Nat.zero_le _, fun _ => Nat.zero_le _, fun _ => Nat.zero_le _,
    fun _ => Nat.zero_le _, by decide⟩, by decide +kernel⟩
theorem meets_DeviceResetAll : (7 : Nat) < 8 ∧ 8 ≤ (8 : Nat) := by decide
theorem meets_OnlyAbsentHbmStops : answers (exec .clrmax (st m0)) = true ∧ (Instr.nop 16).wf = false := by decide +kernel

/-! ## Events -/

theorem meets_EventPosted :
    (25919 < 25920 ∧ (st { m0 with sts := [(5, { pwr := .off })] }).Quiet ∧ ((st { m0 with sts := [(5, { pwr := .off })] }).m.st 5).pwr = .off) ∧
    (let s := st (mk .aborting {}); (s.m.st 1).pwr = .active ∧ (s.m.ctx (evCtx fwdEv.w0)).state = .aborting) ∧
    (let s := st (mk .running {}); (s.m.st 1).pwr = .active ∧ (s.m.st 1).evWait = [] ∧ (s.m.st 1).evq.length < 512 ∧
      (s.m.ctx (evCtx fwdEv.w0)).state ≠ .aborting) ∧
    (let s := st (queued (List.replicate 512 fwdEv)); (s.m.st 1).pwr = .active ∧ 512 ≤ (s.m.st 1).evq.length) ∧
    (∀ p ∈ [PwrState.clockGated, .waking], (st (mk .running { pwr := p })).m.st 1 = { pwr := p }) ∧
    (st (mk .running { pwr := .powerGated })).m.st 1 = { pwr := .powerGated } := by decide +kernel

/-- A swap that waits in an ARMED context for its one event. -/
def waitingSwap : PendSwap := { desc := { ring := 0, pos := 0 }, immediate := false, plan := true, claiming := false }
def armedWith (n : Nat) (e : QEvent) : State :=
  st { m0 with ctxs := [(0, { ctx9 .armed with swap := some waitingSwap })], sts := [(n, { evq := [e] })] }

theorem meets_EventForwarded_swap :
    (let e : QEvent := { fwdEv with w0 := ev0 5 2 256 }
     let s := armedWith 0 e
     s.Quiet ∧ s.m.nextEvent 0 = some (0, e) ∧ s.m.arrivalFault e = some (0, 5) ∧ (s.m.ctx 0).state = .armed ∧
       (s.m.ctx 0).swap = some waitingSwap ∧ ((s.m.unqueue 0 0).logEvent 0 e (0, 5)).nextArrived 0 = false) ∧
    (let e : QEvent := { fwdEv with ecc := .double }
     let s := armedWith 0 e
     s.m.nextEvent 0 = some (0, e) ∧ s.m.arrivalFault e = none ∧ s.m.evHome e = some 1 ∧
       (s.m.unqueue 0 0).nextArrived 0 = false) ∧
    (∀ p ∈ [PwrState.clockGated, .powerGated], let s := st { m0 with
       ctxs := [(0, ctx9 .running)], sts := [(0, { evq := [fwdEv] }), (1, { pwr := p })] }
     s.Quiet ∧ (s.m.st 0).pwr = .active ∧ (s.m.st 0).evq = [fwdEv] ∧ s.m.arrivalFault fwdEv = none ∧ s.m.evHome fwdEv = some 1 ∧
       s.m.evHeld fwdEv = false ∧ (s.m.st 1).evq.length < 512 ∧ (s.m.st 1).pwr ≠ .active) := by decide +kernel

theorem meets_EventForwarded :
    (let s := st { m0 with ctxs := [(0, ctx9 .running)], sts := [(0, { evq := [fwdEv] })] }
     s.Quiet ∧ s.m.nextEvent 0 = some (0, fwdEv) ∧ fwdEv.fwd = false ∧ fwdEv.ecc = .clean ∧ s.m.arrivalFault fwdEv = none ∧
       s.m.evHome fwdEv = some 1) ∧
    (let e : QEvent := { fwdEv with ecc := .double }
     let s := st { m0 with ctxs := [(0, ctx9 .running)], sts := [(0, { evq := [e] })] }
     s.m.nextEvent 0 = some (0, e) ∧ s.m.arrivalFault e = none ∧ s.m.evHome e = some 1) ∧
    (let e : QEvent := { fwdEv with w0 := ev0 5 2 256 }
     let s := st { m0 with ctxs := [(0, ctx9 .running)], sts := [(0, { evq := [e] })] }
     s.m.nextEvent 0 = some (0, e) ∧ s.m.arrivalFault e = some (0, 5)) := by decide +kernel

theorem meets_EventsTaken :
    (let s := st { queued [fwdEv] with ctxs := [(0, { ctx9 .running with tel := { st := 0 } })] }
     s.m.nextEvent 1 = some (0, fwdEv) ∧ s.m.arrivalFault fwdEv = none ∧ s.m.stageOf 0 9 = some stage9 ∧ stage9.home = 1 ∧
      s.m.homeFault stage9 fwdEv = none ∧ evKind fwdEv.w0 = 1 ∧ s.m.fwdMore stage9 fwdEv = none ∧ entry256.disp ≠ .drop ∧
      (s.m.stage 0 9).cancelled = [] ∧ s.m.evEntry fwdEv = some (0, entry256) ∧ evRunLen fwdEv.w1 ≠ 0 ∧ (s.m.ctx 0).state = .running ∧
      (s.m.ctx 0).tel.st = 0 ∧ (aget {} (s.m.ctx 0).amax 0).loaded = false ∧ (s.m.ctx 0).replaying = false ∧ (s.m.st 1).tasks = []) ∧
    (let e := { fwdEv with w1 := ev1 0 256 }
     let s := st (queued [e])
     s.m.nextEvent 1 = some (0, e) ∧ s.m.arrivalFault e = none ∧ s.m.homeFault stage9 e = none ∧ s.m.fwdMore stage9 e = none ∧
      s.m.evEntry e = some (0, entry256) ∧ evRunLen e.w1 = 0) ∧
    (let s := st { queued [fwdEv] with ctxs := [(0, { ctx9 .running with stages := [(9, { cancelled := [0] })] })] }
     s.m.nextEvent 1 = some (0, fwdEv) ∧ s.m.arrivalFault fwdEv = none ∧ s.m.homeFault stage9 fwdEv = none ∧
      s.m.fwdMore stage9 fwdEv = none ∧ (s.m.stage 0 9).cancelled = [evMb fwdEv.w0]) ∧
    (let s := st (queued [tickEv])
     s.m.nextEvent 1 = some (0, tickEv) ∧ s.m.arrivalFault tickEv = none ∧ s.m.homeFault stage9 tickEv = none ∧
      evKind tickEv.w0 = 2 ∧ s.m.tickFault tickEv = none ∧ (s.m.dueAt 1 0 9 0 (evLayer tickEv.w0)).length = 1 ∧
      (s.m.stage 0 9).find 0 2 256 = none) ∧
    (let s := st (queued [endEv])
     s.m.nextEvent 1 = some (0, endEv) ∧ s.m.arrivalFault endEv = none ∧ s.m.homeFault stage9 endEv = none ∧ evKind endEv.w0 = 3) ∧
    (let s := st (queued [cancelEv])
     s.m.nextEvent 1 = some (0, cancelEv) ∧ s.m.arrivalFault cancelEv = none ∧ s.m.homeFault stage9 cancelEv = none ∧
      evKind cancelEv.w0 = 4) := by decide +kernel

theorem meets_FaultyEventsDiscarded : ∀ e ∈ [alien fwdEv, alien tickEv, alien endEv, alien cancelEv],
    let s := st (queued [e])
    s.Quiet ∧ s.m.nextEvent 1 = some (0, e) ∧ s.m.arrivalFault e = none ∧ s.m.stageOf 0 9 = some stage9 ∧
      s.m.homeFault stage9 e = some (8, 4320) ∧ (s.m.ctx 0).state ≠ .armed ∧
    (let s := armedWith 1 e
     s.m.nextEvent 1 = some (0, e) ∧ s.m.homeFault stage9 e = some (8, 4320) ∧ (s.m.ctx 0).swap = some waitingSwap ∧
       (s.m.unqueue 1 0).nextArrived 0 = false) := by decide +kernel

theorem meets_StepEndDrains : let s := st (queued [endEv])
    s.m.nextEvent 1 = some (0, endEv) ∧ s.m.arrivalFault endEv = none ∧
      s.m.stageOf (evCtx endEv.w0) (evStage endEv.w0) = some stage9 ∧ s.m.homeFault stage9 endEv = none ∧ evKind endEv.w0 = 3 ∧
      (s.m.st 1).tasks = [] ∧ (s.m.ctx (evCtx endEv.w0)).state = .running := by decide +kernel

theorem meets_LateAndStallRules :
    (st { m0 with ctxs := [(3, { extra := [(11, (2, 64)), (12, (1, 63))] })] }).Quiet ∧
    (let count := fun (thrs : List Nat) => aget 0 ((m0.addStall 3 63 10 5 thrs).stage 3 63).stats.stall 10
     (∃ thr ∈ [5], thr ≠ 0 ∧ thr ≤ count [5]) ∧ (∀ thr ∈ [0, 6], thr = 0 ∨ count [0, 6] < thr)) ∧
    (let s := st { m0 with ctxs := [(3, { stages := [(63, { stallDue := [10], stallRaised := [9] })] })] }
     s.Quiet ∧ 10 ∈ (s.m.stage 3 63).stallDue ∧ 9 ∉ (s.m.stage 3 63).stallDue ∧ 9 ∈ (s.m.stage 3 63).stallRaised) := by
  decide +kernel
/-! ## Steps -/

def ended9 (state : CtxState) : Ctx := { ctx9 state with stages := [(9, { ended := true })] }
def at0 (x : Ctx) : State := st { m0 with ctxs := [(0, x)] }
/-- A pending immediate swap that still makes its claims. -/
def claimingSwap : PendSwap := { desc := { ring := 0, pos := 0 }, immediate := true, plan := true, claiming := true }

theorem meets_StepsClose :
    (let s := at0 (ended9 .draining)
     s.Quiet ∧ s.m.shed.off = false ∧ (s.m.ctx 0).state = .draining ∧ s.m.allEnded 0 = true ∧ s.m.tasksOf 0 = []) ∧
    (let s := at0 (ctx9 .aborting)
     s.Quiet ∧ s.m.shed.off = false ∧ (s.m.ctx 0).state = .aborting ∧ s.m.tasksOf 0 = [] ∧ s.m.swapHolds 0 = false ∧
       (s.m.ctx 0).exchanging = false) ∧
    ((at0 { ctx9 .aborting with swap := some { claimingSwap with claiming := false, exchanging := true } }).m.ctx 0).exchanging =
      true ∧
    (at0 (ctx9 .running)).m.allEnded 0 = false ∧ ((at0 (ctx9 .running)).m.ctx 0).state ≠ .aborting ∧
    (st (mk .aborting { tasks := [{ id := 1 }] })).m.tasksOf 0 ≠ [] ∧
    (at0 { ctx9 .aborting with swap := some claimingSwap }).m.swapHolds 0 = true := by decide +kernel

theorem meets_BoundaryAdvances : let s := at0 (ended9 .draining)
    s.m.shed.off = false ∧ (s.m.ctx 0).state = .draining ∧ s.m.allEnded 0 = true ∧ s.m.tasksOf 0 = [] ∧
      (s.m.ctx 0).replaying = false ∧ (s.m.ctx 0).swap = none ∧ (s.m.ctx 0).withdraw = none ∧ (s.m.ctx 0).capture = none ∧
      (s.m.ctx 0).tel.latch = none ∧ (s.m.ctx 0).amax = [] := by
  decide +kernel

theorem meets_AbortClears : let s := at0 (ctx9 .aborting)
    s.m.shed.off = false ∧ (s.m.ctx 0).state = .aborting ∧ s.m.tasksOf 0 = [] ∧ (s.m.ctx 0).replaying = false ∧
      (s.m.ctx 0).swap = none ∧ (s.m.ctx 0).withdraw = none ∧ (s.m.ctx 0).abortDescs = [] ∧ s.m.plan 0 = some plan9 := by
  decide +kernel

/-! ## Streams -/

/-- A stash run and a fetch run, each on an engine. -/
def stashTask : Task := { id := 7, kind := .stash, ph := .run, ctx := 0, stage := 9, entry := entry256, sramBase := 4096, prog := 1 }
def fetchTask : Task := { stashTask with kind := .fetch }
def level (b : Bool) (count iter : Nat) : LoopLevel :=
  { isBatch := b, bodyPc := 0, count, iter, dcore := 0, doff := 1, core0 := 0, off0 := 0 }
/-- Engine 5 of station 1 runs task `t` and stands at `i`, with the loops given. -/
def running (t : Task) (i : Ins) (ls : List LoopLevel) (reads : List StreamItem) : State :=
  st (mk .running { tasks := [t], engines := [(5, { task := some 7, loops := ls, reads })], progMem := [(0, [[], [i, .endl, .fin]])] })
/-- Engine 5 of station 1 stands at `i`, in a word without error. -/
abbrev reads (s : State) (g : Engine) (t : Task) (i : Ins) : Prop :=
  s.m.engAt 1 5 = some (g, t, i) ∧ aget .clean (s.m.st 1).progEcc (progWord t.ctx t.prog g.pc) = .clean
def eng (ls : List LoopLevel) (reads : List StreamItem) : Engine := { task := some 7, loops := ls, reads }

theorem meets_SetaLoads : let s := running stashTask (.seta 3 4) [] []
    s.Quiet ∧ reads s (eng [] []) stashTask (.seta 3 4) := by decide +kernel

theorem meets_LoopsIterate_open :
    (∀ k ∈ [0, 65535], let s := running stashTask (.loop k 1 2) [] []
     s.Quiet ∧ reads s (eng [] []) stashTask (.loop k 1 2)) ∧
    (∀ k ∈ [0, 65535], ∀ t ∈ [stashTask, fetchTask], let s := running t (.batch k 1 2) [] []
     s.Quiet ∧ reads s (eng [] []) t (.batch k 1 2)) ∧
    isStashRun stashTask = true ∧ isStashRun fetchTask = false := by decide +kernel

theorem meets_LoopsIterate :
    (∀ l ∈ [level false 2 0, level true 2 0, level false 2 1], ∀ t ∈ [stashTask, fetchTask], let s := running t .endl [l] []
     s.Quiet ∧ reads s (eng [l] []) t .endl) ∧
    (level true 2 0).iter + 1 < (level true 2 0).count ∧ (level false 2 1).count ≤ (level false 2 1).iter + 1 := by
  decide +kernel

theorem meets_SkiplenTrims : ∀ t ∈ [stashTask, { stashTask with iters := some 0 }, { stashTask with iters := some 1 }],
    let s := running t (.skiplen 64) [level false 2 0] []
    s.Quiet ∧ reads s (eng [level false 2 0] []) t (.skiplen 64) := by decide +kernel

theorem meets_EmitAppends : ∀ t ∈ [stashTask, fetchTask], ∀ i ∈ [Ins.linear 256, Ins.rows 16 64 16], let s := running t i [] []
    s.Quiet ∧ reads s (eng [] []) t i ∧ s.m.stageOf t.ctx t.stage = some stage9 ∧ s.m.plan t.ctx = some plan9 := by
  decide +kernel

theorem meets_WaitsActInStashRuns :
    (∀ t ∈ [stashTask, fetchTask], let s := running t (.waitSem 2047) [] []
     s.Quiet ∧ reads s (eng [] []) t (.waitSem 2047) ∧ s.m.sem 1 2047 = 0) ∧
    (let s := st { (running stashTask (.waitSem 2047) [] []).m with sems := [(8192 + 2047, 1)] }
     reads s (eng [] []) stashTask (.waitSem 2047) ∧ 0 < s.m.sem 1 2047) ∧
    (let r := [StreamItem.tile 4320 0 1 1 0 false]
     hasTile r = true ∧ reads (running stashTask .waitDrain [] r) (eng [] r) stashTask .waitDrain) ∧
    hasTile [] = false ∧ reads (running fetchTask .waitDrain [] []) (eng [] []) fetchTask .waitDrain := by
  decide +kernel

theorem meets_RunsBeginAndEnd :
    (let t := { stashTask with ph := Phase.engine }
     let s := st (mk .running { tasks := [t] })
     s.Quiet ∧ (s.m.st 1).nextRun = some (t, 0)) ∧
    (∀ t ∈ [stashTask, fetchTask], ∀ i ∈ [Ins.fin, Ins.land 1 16384], let s := running t i [] []
     s.Quiet ∧ reads s (eng [] []) t i) ∧
    (∀ i ∈ [Ins.seta 1 1, .loop 1 1 1, .batch 1 1 1, .endl, .skiplen 0, .linear 1, .rows 1 1 1, .waitSem 1, .waitDrain, .fin,
        .land 1 1],
     let m := (running stashTask i [] []).m
     let s := st (m.modSt 1 (fun x => { x with progEcc := [(progWord 0 1 0, .double)] }))
     s.m.engAt 1 5 = some (eng [] [], stashTask, i) ∧ aget .clean (s.m.st 1).progEcc (progWord 0 1 0) = .double) := by
  decide +kernel

/-! ## Tasks and transfers -/

def acc1 (share : Nat) (hook : Hook) : Access :=
  { id := 3, share, hook, addr := 64, len := 1, cost := 64, data := [(64, 1)], write := share == 1, owner := 7 }
def withAcc (a : Access) : State := st (mk .running { acc := [a] })
def withOut (a : Access) : State := st (mk .running { outst := [a] })
def pool9 (stage : StageEntry) (chunks : Nat) : Plan :=
  { plan9 with stages := [stage], glob := { poolBase := 0x80000000, poolChunks := chunks, dstart := 1, dstop := 2 } }
def pooled (stage : StageEntry) (chunks : Nat) (run : StageRun) (x : Station) : State :=
  st { m0 with ctxs := [(0, { state := .running, act := { plan := some (pool9 stage chunks) }, stages := [(9, run)] })]
               sts := [(1, x)] }

/-- The same pool with eight rooms of each kind at S1. -/
def roomPlan : Plan := let p := pool9 stage9 64; { p with glob := { p.glob with frooms := [0, 8], srooms := [0, 8] } }
def roomy (t : Task) (run : StageRun) : State :=
  st { m0 with ctxs := [(0, { state := .running, act := { plan := some roomPlan }, stages := [(9, run)] })], sts := [(1, { tasks := [t] })] }
/-- A fetch that waits for its first room: from a peer, from the Cellar, from the far tier. -/
def fetching (tier slots : Nat) : Task :=
  { fetchTask with ph := .engine, nexp := 1, slotsNeeded := slots, rc := { tier, loc := 0x80000000, storLen := 64 } }
def demoting : Task := { stashTask with kind := .demote, ph := .run, slotsNeeded := 1, pendDone := true, rc := { loc := 0x80000000 } }

theorem meets_TasksMoveOn_rooms :
    (let t := { stashTask with ph := Phase.rooms, roomNeed := 2 }
     let s := roomy t {}
     s.Quiet ∧ s.m.task 1 7 = some t ∧ ((s.m.st 1).tasks.find? (fun u => u.ctx == t.ctx && u.kind == .stash && u.ph == .rooms)).map
       (fun u => u.id) = some t.id ∧ (s.m.st 1).roomsUsed t.ctx false < s.m.srooms t.ctx 1) ∧
    (let s := roomy stashTask {}
     s.Quiet ∧ s.m.task 1 7 = some stashTask ∧ stashTask.ph ≠ .rooms) ∧
    (∀ p ∈ [(1, 0), (0, 1), (2, 1)], let t := fetching p.1 p.2
     let s := roomy t { chain := [0] }
     s.m.task 1 7 = some t ∧ t.wantsRoom = true ∧ s.m.fetchRoomFree 1 t = true ∧ (s.m.ctx t.ctx).farLost = false ∧
       (p.2 = 1 → ∃ q ∈ s.m.readAt 1 t 0, q.2 ≠ 0)) ∧
    (let t := { fetchTask with ph := Phase.waitPrev }
     (roomy t {}).m.task 1 7 = some t ∧ t.wantsRoom = false) ∧
    (let s := roomy demoting { chain := [0] }
     s.m.task 1 7 = some demoting ∧ 16 * demoting.rooms < demoting.slotsNeeded ∧ demoting.roomsUnsent < 2 ∧
       (s.m.st 1).roomsUsed 0 false < s.m.srooms 0 1 ∧ (s.m.readAt 1 demoting 0).isSome = true ∧
       demoting.slotsIssued = min demoting.slotsNeeded (16 * demoting.rooms)) ∧
    (let t := { stashTask with kind := TaskKind.demote }
     (roomy t {}).m.task 1 7 = some t ∧ ¬ 16 * t.rooms < t.slotsNeeded) := by decide +kernel

def chunkTask : Task := { stashTask with ph := .chunk, slotsNeeded := 1 }
def deferred : Task := { fetchTask with ph := .waitPrev, layer := 2, tensor := 256 }
def rec256 (stashing : Bool) : RecInfo := { layer := 2, tensor := 256, stashing }

/-- The last but one clause needs that the ledger cache does not hold the record (log entry 95). -/
theorem meets_TasksMoveOn_slots :
    (let s := pooled stage9 64 {} { tasks := [chunkTask] }
     let m := s.m.reserveAll 1 0 9
     s.m.task 1 7 = some chunkTask ∧ ((s.m.slotWaiters 1 0 9).head?).map (fun u => u.id) = some 7 ∧
       m.task 1 7 = some chunkTask ∧ chunkTask.waitsSlots = true ∧ m.mayTakeChunk 0 9 (m.isFallback chunkTask) = true ∧
       m.lowestFree 0 = some 0 ∧ (s.m.st 1).tasks.all (fun w => w.ecc == .clean) = true) ∧
    (∀ stashing ∈ [true, false], let s := roomy deferred { recs := [rec256 stashing] }
     s.Quiet ∧ s.m.task 1 7 = some deferred ∧ (s.m.st 1).behind deferred = false ∧ deferred.kind = .fetch ∧
       deferred.replayIx = 0 ∧ (s.m.stage 0 9).find 0 2 256 = some (0, rec256 stashing) ∧ (rec256 stashing).lost = none ∧
       (s.m.st 1).demotionOf 0 9 0 = none ∧ s.m.capturing 0 = false) ∧
    (let t := { deferred with replayIx := 1 }
     (roomy t {}).m.task 1 7 = some t ∧ ((roomy t {}).m.st 1).behind t = false) := by decide +kernel

theorem meets_TasksMoveOn :
    (let e := { stage9 with dtarget := 2 }
     let s := pooled e 2 { chain := [0, 1] } {}
     let m := s.m.demoteMarks 0
     (m.ctx 0).demoteOn = true ∧ (m.ctx 0).stages.any (fun p => p.2.demoteChunk) = false ∧ m.level < 2 ∧
       (m.ctx 0).state = .running ∧ m.demoteStage 0 = some e ∧ m.plan 0 = some (pool9 e 2)) ∧
    (∀ demote ∈ [true, false], let b : Blk := { ix := 0, core := 4320, rawLen := 32, raw := List.replicate 32 0 }
     let t := { stashTask with kind := if demote then .demote else .stash, blks := [b] }
     let s := st (mk .running { tasks := [t], lanes := [(15, some { task := 7, blk := 0, demote })] })
     aget none (s.m.st 1).lanes 15 = some { task := 7, blk := 0, demote } ∧ s.m.task 1 7 = some t ∧ t.blks[0]? = some b ∧
       s.m.outWaits 1 7 .husk = false ∧ t.ecc = .clean) := by decide +kernel

/-! ## Transfers -/

def acc3 (share : Nat) (hook : Hook) (write : Bool) : Access :=
  { id := 3, share, hook, addr := 64, len := 1, data := if write then [(64, 1)] else [], write, owner := 7 }
def waits (a : Access) : State := st (mk .running { acc := [a] })
def awaits (a : Access) : State := st (mk .running { outst := [a] })

theorem meets_TransferIssued : ∀ share ∈ [0, 1, 2], ∀ h ∈ [Hook.plain, .telStation 3], let a := acc3 share h (share == 1)
    let s := waits a
    s.Quiet ∧ (s.m.st 1).pwr = .active ∧ s.m.choose 1 share = some a ∧ a.share = share ∧
      6 * a.cost ≤ (s.m.st 1).tok share ∧ a.posted = false := by decide +kernel

/-- A FAR stash whose one block is coded and handed to its send. -/
def allSent : Task :=
  { stashTask with path := .far, ph := .move, fill := some 0, allClosed := true, rooms := 3, sendsQueued := 1
                   blks := [{ ix := 0, core := 4320, rawLen := 32, stored := List.replicate 64 0, st := .sent }] }
/-- A send of task 7 is out, for which its link has the request as given. -/
def accepting (h : Hook) (t : Task) (reqs : List Req) : State :=
  st { mk .running { outst := [acc3 3 h true], tasks := [t] } with lodge := { m0.lodge with reqs } }
def putReq7 : Req := { id := 1, dev := 7, link := some 11, msg := { h := 4, a0 := 0, a1 := 0, a2 := 0, payload := [] }, cls := 1, use := .put 1 7 0 }

theorem meets_SendsGoOut :
    (∀ h ∈ [Hook.putSend 7 0, .farSend 7 0, .peerAsk 7 true, .slotRead 7 0, .farBack 7, .xferRead 15 0 0 false, .xferBack 15 0, .ckptBack 0,
        .xferWrite 15 0 0, .ckptWrite 0], let a := acc3 3 h true
     let s := st (mk .running { acc := [a], tasks := [stashTask] })
     (s.m.st 1).pwr = .active ∧ s.m.choose 1 3 = some a ∧ a.share = 3 ∧ a.posted = false ∧ s.m.task 1 7 = some stashTask ∧
       stashTask.ecc = .clean) ∧
    (∀ h ∈ [Hook.putSend 7 0, .farSend 7 0], let a := acc3 3 h true
     (∀ t ∈ [stashTask, { stashTask with id := 8 }, allSent], let s := accepting h t []
      s.Quiet ∧ (s.m.st 1).outst.find? (fun b => b.id == a.id) = some a ∧ s.m.task 1 a.owner = (if t.id = 7 then some t else none) ∧
        s.m.lodge.reqs = [] ∧ s.m.hs.ops = [] ∧ t.ph ≠ .fail) ∧
     Station.sending { (accepting h allSent []).m.st 1 with outst := [] } 7 = false) ∧
    (allSent.allCoded = true ∧ allSent.blks ≠ [] ∧ allSent.sendsQueued = allSent.blks.length) ∧
    (∀ q ∈ [putReq7, { putReq7 with use := .putOld 0 true 1 7 0 }], let s := accepting (.putSend 7 0) stashTask [q]
     q ∈ s.m.lodge.reqs ∧ (q.use = .put 1 7 0 ∨ q.use = .putOld 0 true 1 7 0) ∧ q.sent ≠ true) := by decide +kernel

/-- An address below the HBM's size exists, whatever else the fabric holds. -/
theorem fabExists_of_hbm (a : Nat) (h : faLocal a < Config.hbmBytes) : fabExists a = true := by simp [fabExists, h]

theorem not_absent (n : Nat) (w e : Bool) (m : Mach) (a : Access) (h : m.hbmAcc n 3 w = some a) (ha : a.addr = 64)
    (hl : a.len = 1) : m.absent n 3 w e = false := by
  simp [Mach.absent, h, hl, ha, fabExists_of_hbm 64 (by decide), List.range_succ]

theorem meets_HbmWriteStores : let a := acc3 1 .plain true
    let s := awaits a
    s.Quiet ∧ s.m.hbmAcc 1 3 true = some a ∧ s.m.absent 1 3 true false = false ∧ a.hook = .plain ∧ a.chan ≠ 7 ∧
      s.m.task 1 a.owner = none ∧ (∀ p ∈ a.data, fabExists p.1 = true) :=
  ⟨by decide, by decide +kernel, not_absent 1 true false _ (acc3 1 .plain true) (by decide +kernel) rfl rfl, by decide,
    by decide, by decide +kernel, by intro p hp; simp [acc3] at hp; subst hp; exact fabExists_of_hbm 64 (by decide)⟩

/-- The last write of a guest's block is out, and a local copy's read. -/
def put5 : InnPut := { id := 5, link := 3, dev := 3, ctx := 0, cls := 1, claim := 0, ledger := 64, blk := 0, fin := true, loc := 64 }
def guests (a : Access) : State := st { m0 with sts := [(2, { outst := [a] })], lodge := { m0.lodge with puts := [put5] } }
def copy15 : Xfer :=
  { desc := { ring := 15, pos := 0 }, st := 1, mode := .copy, src := 64, srcHost := false, dst := 128, dstHost := false, count := 1
    cls := 1, posted := false, pattern := 0 }
def copies (a : Access) : State := st ((mk .running { outst := [a] }).modHs (fun h => { h with xfers := [copy15] }))

/-- The last clause needs an address that neither HBM nor core SRAM holds: this one, where the configuration puts no
core SRAM there. -/
theorem meets_HbmAnswers :
    (let a := acc3 1 .plain true
     (awaits a).m.hbmAcc 1 3 true = some a ∧ ((awaits a).m.st 1).behindPosted a = false ∧
       (awaits a).m.absent 1 3 true true = false) ∧
    (let a := acc3 0 .plain false
     (awaits a).m.hbmAcc 1 3 false = some a ∧ ((awaits a).m.st 1).behindPosted a = false ∧
       (awaits a).m.absent 1 3 false true = false) ∧
    (let a := acc3 1 (.slotWrite 7 0) true
     let s := st (mk .running { outst := [a], tasks := [{ stashTask with slotsIssued := 2 }] })
     s.m.hbmAcc 1 3 true = some a ∧ s.m.absent 1 3 true false = false ∧ a.chan ≠ 7 ∧ a.owner = 7 ∧
       s.m.task 1 7 = some { stashTask with slotsIssued := 2 }) ∧
    (let a := acc3 2 (.guestWrite 5) true
     let s := guests a
     s.m.hbmAcc 2 3 true = some a ∧ s.m.absent 2 3 true false = false ∧ s.m.task 2 a.owner = none ∧
       s.m.lodge.puts.find? (fun x => x.id == 5 && agentOf x.link == 2) = some put5 ∧ (s.m.st 2).acc = []) ∧
    (let a := acc3 0 (.xferRead 15 0 0 false) false
     let s := copies a
     s.m.hbmAcc 1 3 false = some a ∧ s.m.absent 1 3 false false = false ∧ s.m.xfer 15 0 = some copy15 ∧ copy15.mode = .copy ∧
       copy15.dstHost = false ∧ s.m.task 1 a.owner = none ∧ (s.m.st 1).cuts = []) ∧
    (∀ w, let a : Access := { acc3 (if w then 1 else 0) .plain w with addr := 2 ^ 47 }
     (awaits a).m.hbmAcc 1 3 w = some a ∧ 0 < a.len ∧
       (Config.sramOfFabric (2 ^ 47) = none → fabExists (a.addr + 0) = false)) := by
  refine ⟨⟨by decide +kernel, by decide, ?_⟩, ⟨by decide +kernel, by decide, ?_⟩,
    ⟨by decide +kernel, ?_, by decide, by decide, by decide +kernel⟩, ⟨by decide +kernel, ?_, by decide +kernel⟩,
    ⟨by decide +kernel, ?_, by decide +kernel⟩, ?_⟩
  · exact not_absent 1 true true _ (acc3 1 .plain true) (by decide +kernel) rfl rfl
  · exact not_absent 1 false true _ (acc3 0 .plain false) (by decide +kernel) rfl rfl
  · exact not_absent 1 true false _ (acc3 1 (.slotWrite 7 0) true) (by decide +kernel) rfl rfl
  · exact not_absent 2 true false _ (acc3 2 (.guestWrite 5) true) (by decide +kernel) rfl rfl
  · exact not_absent 1 false false _ (acc3 0 (.xferRead 15 0 0 false) false) (by decide +kernel) rfl rfl
  · intro w
    have no : Config.sramOfFabric (2 ^ 47) = none → fabExists (2 ^ 47 + 0) = false := fun h => by
      rw [show 2 ^ 47 + 0 = 2 ^ 47 from rfl, fabExists, h]
      decide
    cases w <;> exact ⟨by decide +kernel, by decide, no⟩

def tile1 : StreamItem := .tile 4320 0 1 1 0 false
def moving : Task := { fetchTask with ph := .move, got := [List.replicate 64 0], blks := [{ ix := 0, core := 4320, rawLen := 32 }], nexp := 1 }
/-- The first of two blocks is next, its core without its note or with it. -/
def twoBlocks (noted : List Nat) : Task :=
  { moving with got := [List.replicate 64 0, []], blks := moving.blks ++ [{ ix := 1, core := 4320, rawLen := 32 }], nexp := 2, noted }

theorem meets_DataMoves :
    (let s := st (mk .running { tasks := [stashTask], engines := [(5, { task := some 7, reads := [tile1], openCore := some 4320 })] })
     (s.m.eng 1 5).task.bind (s.m.task 1) = some stashTask ∧ (s.m.eng 1 5).reads = tile1 :: [] ∧ s.Quiet ∧
       (s.m.eng 1 5).draining = false ∧ (s.m.eng 1 5).openCore = some 4320 ∧
       (s.m.eng 1 5).openLen + (tileData s.mem.sram 4320 0 1 1 0 false).length < 4096 ∧
       tileData s.mem.sram 4320 0 1 1 0 false ≠ [] ∧ s.m.outWaits 1 7 .raw = false) ∧
    (∀ noted ∈ [[], [4320]], let t := twoBlocks noted
     let s := st (mk .running { tasks := [t] })
     s.Quiet ∧ (s.m.st 1).pwr = .active ∧ (s.m.st 1).nextDelivery = some t ∧ s.m.task 1 7 = some t ∧
       s.m.stageOf 0 9 = some stage9 ∧ s.m.plan 0 = some plan9 ∧ t.blks[t.delivered]?.isSome = true ∧
       t.got[t.delivered]? = some (List.replicate 64 0) ∧ t.delivered + 1 < t.nexp) ∧
    (∀ ecc ∈ [Ecc.clean, .double], let t := { moving with ecc }
     let s := st (mk .running { tasks := [t] })
     (s.m.st 1).pwr = .active ∧ (s.m.st 1).nextDelivery = some t ∧ s.m.task 1 7 = some t ∧ t.ecc = ecc) := by decide +kernel

/-! ## Synchronisation -/

/-- An operation of core 4320 on semaphore 5 of S1, context 0. -/
def sem0 (op n : Nat) : W64 := word [(op, 0), (1, 6), (5, 9), (n, 22), (if op == 1 then 0 else 3, 38), (4320, 43)]
def arr1 : W64 := word [(4, 0), (4320, 16), (2, 32)]
/-- Context 0 ARMED, the count of semaphore 5 of S1, and the engines of S1. -/
def sems (v : Nat) (g : Assoc Engine) : State :=
  st { mk .armed { engines := g } with sems := aset 0 [] (8192 + 5) v }

theorem meets_SignalAdds : ∀ n ∈ [0, 65535], let s := sems 0 []
    SemReady s 4320 (sem0 1 n) 0 ∧ soOp (sem0 1 n) = 1 ∧ s.m.semFault 4320 (sem0 1 n) 0 = none ∧
      s.m.firstWaiter (soStation (sem0 1 n)) (soSem (sem0 1 n)) = none ∧
      s.m.sem (soStation (sem0 1 n)) (soSem (sem0 1 n)) + soN (sem0 1 n) ≤ 65535 := by decide +kernel

/-- Two signals of 1, by one core. -/
theorem meets_SignalAdds_twice : let s := sems 0 []
    SemReady s 4320 (sem0 1 1) 0 ∧ soOp (sem0 1 1) = 1 ∧ s.m.semFault 4320 (sem0 1 1) 0 = none ∧ soN (sem0 1 1) = 1 ∧
      s.m.firstWaiter (soStation (sem0 1 1)) (soSem (sem0 1 1)) = none ∧
      s.m.sem (soStation (sem0 1 1)) (soSem (sem0 1 1)) = 0 := by decide +kernel

theorem meets_SignalWakes :
    let s := sems 0 [(0, { waiting := some 5, waitOrder := 2 }), (5, { waiting := some 5, waitOrder := 1 })]
    SemReady s 4320 (sem0 1 1) 0 ∧ soOp (sem0 1 1) = 1 ∧ s.m.semFault 4320 (sem0 1 1) 0 = none ∧
      soStation (sem0 1 1) = 1 ∧ soSem (sem0 1 1) = 5 ∧
      s.m.sem 1 5 = 0 := by decide +kernel

theorem meets_ArriveReleases : ∀ n ∈ [1, 9], let s := sems 3 []
    SemReady s 4320 (sem0 2 n) arr1 ∧ soOp (sem0 2 n) = 2 ∧ s.m.semFault 4320 (sem0 2 n) arr1 = none ∧
      s.m.firstWaiter (soStation (sem0 2 n)) (soSem (sem0 2 n)) = none ∧
      s.m.sem (soStation (sem0 2 n)) (soSem (sem0 2 n)) + soN (sem0 2 n) ≤ 65535 := by decide +kernel

theorem meets_TakeDecrements : ∀ v ∈ [2, 1], let s := sems v []
    SemReady s 4320 (sem0 3 2) 0 ∧ soOp (sem0 3 2) = 3 ∧ s.m.semFault 4320 (sem0 3 2) 0 = none ∧
      s.m.sem (soStation (sem0 3 2)) (soSem (sem0 3 2)) = v := by decide +kernel

theorem meets_SemOpsRefused :
    (∀ op ∈ [1, 2, 3], let s := sems 0 []
     SemReady s 4321 (sem0 op 1) arr1 ∧ soOp (sem0 op 1) = op ∧ (s.m.semFault 4321 (sem0 op 1) arr1).isSome = true) ∧
    (∀ op ∈ [1, 2], let s := sems 65535 []
     let w := if op = 2 then arr1 else 0
     SemReady s 4320 (sem0 op 1) w ∧ s.m.semFault 4320 (sem0 op 1) w = none ∧ soOp (sem0 op 1) ≠ 3 ∧
      65535 < s.m.sem (soStation (sem0 op 1)) (soSem (sem0 op 1)) + soN (sem0 op 1)) := by decide +kernel

def ticket1 : Ticket :=
  { core := 4320, ctx := 0, stage := 9, mb := 0, segFirst := 0, segLast := 0, ckpt := 0, ckptOff := 0, seed := 0, ctrBase := 0
    segix := 0, cmax := 1 }

theorem meets_CellWritesGoAndLand :
    (∀ x ∈ [({ err := true, status := 0x41, count := 1 } : Cell), { count := 1 }, {}],
     let s := st { m0 with cells := aset {} [] (32 * 25919 + 31) x }
     s.Quiet ∧ s.m.cell 25919 31 = x) ∧
    (∀ i ∈ [CellItem.add 4320 3 1 1, .err 4320 3 .semcancel, .ticket ticket1 true], let s := st (mk .running { cellq := [i] })
     (s.m.st 1).pwr = .active ∧ (s.m.st 1).cellq = i :: [] ∧ s.Quiet ∧ (s.m.st 1).ticketHeld.any (fun p => p.1.core == 4320) = false) ∧
    (let s := st (mk .running { cellq := [.ticket ticket1 true], ticketHeld := [(ticket1, true)] })
     (s.m.st 1).ticketHeld.any (fun p => p.1.core == 4320) = true ∧
       findIx (fun (p : Ticket × Bool) => p.1.core == 4320) (s.m.st 1).ticketHeld 0 = some (0, (ticket1, true)) ∧
       (s.m.st 1).ticketHeld.find? (fun x => x.1.ctx == 0 && x.1.stage == 9) = some (ticket1, true)) ∧
    (let held := [({ ticket1 with core := 4319 }, true), (ticket1, true)]
     findIx (fun (p : Ticket × Bool) => p.1.core == 4320) held 0 = some (1, (ticket1, true)) ∧
       held.find? (fun x => x.1.ctx == 0 && x.1.stage == 9) ≠ some (ticket1, true)) ∧
    (∀ i ∈ [CellItem.add 25919 31 1 1, .err 25919 31 .semcancel],
     ∀ x ∈ [({} : Cell), { count := 65535 }, { err := true, status := 0x43, count := 65535 }],
     let s := st { mk .running { cellFly := [i] } with cells := aset {} [] (32 * 25919 + 31) x }
     s.Quiet ∧ findIx (fun (i : CellItem) => i.core == 25919) (s.m.st 1).cellFly 0 = some (0, i) ∧ s.m.cell 25919 31 = x) := by
  decide +kernel

/-! ## Port expanders -/

/-- A FRAME command of `count` frames at 16 × 16384, and a BYPASS command of `count` units. -/
def frameCmd (count : Nat) : PortCmd := { w0 := word [(1, 0)], w1 := word [(16384, 0), (count, 32)], w2 := 0, w3 := 0 }
def bypassCmd (count : Nat) : PortCmd := { w0 := word [(16, 10)], w1 := word [(16384, 0), (count, 32)], w2 := 0, w3 := 0 }
def badCmd (mode : Nat) : PortCmd := { w0 := word [(mode, 0), (1, 4)], w1 := 0, w2 := 0, w3 := 0 }
def port1 (x : Expander) : Mach := { m0 with exps := aset {} [] (2 * 25919 + 1) x }
/-- Delivery of two blocks at 16 × 16384, of tensor 0's layout (BASE 0). -/
def note1 : Note := { valid := true, landoff := 16384, nblk := 2 }

theorem meets_PortQueues :
    (let s := st (port1 {})
     s.Quiet ∧ (s.m.exp 25919 1).waiting = [] ∧ (s.m.exp 25919 1).queue.length < 4) ∧
    (let s := st (port1 { queue := List.replicate 4 (frameCmd 1) })
     4 ≤ (s.m.exp 25919 1).queue.length) ∧
    (∀ p, p < 2 → ((st (port1 { queue := List.replicate 4 (frameCmd 1), stopped := some .portCmd })).m.exp 25919 p).waiting = []) := by
  decide +kernel

theorem meets_PortAccepts :
    (∀ c ∈ [frameCmd 2, frameCmd 0, frameCmd 65535, bypassCmd 1, bypassCmd 0, badCmd 0, badCmd 1, badCmd 2, badCmd 3],
     let x := (st { port1 { queue := [c] } with notes := aset {} [] 25919 { slots := [(0, note1)] } }).m.exp 25919 1
     x.queue = c :: [] ∧ x.waiting = [] ∧ x.stopped = none ∧ x.run = none ∧ x.mayAccept ≤ 0) ∧
    (cmdBad (frameCmd 2) = false ∧ pcMode (frameCmd 2).w0 = 1 ∧ pcCount (frameCmd 2).w1 ≠ 0 ∧
      (aget {} [(25919, ({ slots := [(0, note1)] } : CoreNotes))] 25919).lookup (frameCmd 2) = some note1 ∧
      (aget {} ([] : Assoc CoreNotes) 25919).lookup (frameCmd 2) = none) ∧
    (cmdBad (bypassCmd 1) = false ∧ pcMode (bypassCmd 1).w0 = 0 ∧ pcCount (bypassCmd 1).w1 ≠ 0) ∧
    (cmdBad (frameCmd 0) = false ∧ pcMode (frameCmd 0).w0 = 1 ∧ pcCount (frameCmd 0).w1 = 0) ∧
    (∀ m ∈ [0, 1, 2, 3], cmdBad (badCmd m) = true ∧ pcMode (badCmd m).w0 = m) ∧ cmdBad (frameCmd 65535) = true := by
  decide +kernel

/-- A frame of 32 bytes, its header and payload as a stash would code them, at its landing place. -/
def frameBytes : List Byte := (huskEncode { entry256 with tensor := 0 } 0 0 0 9 0 0 (List.replicate 32 0x3F)).1
def framed (opened : Nat) (shared : Option Nat) : State :=
  { st (port1 { run := some (.frame (frameCmd 2) note1 0 opened 0 [0, 0, 0, 0] shared) }) with
    mem := { State.reset.mem with sram := memWrites [] (placed (sramAddr 25919 (16 * 16384 + 4128 * opened)) frameBytes) } }

theorem meets_FrameOpens :
    (∀ opened ∈ [0, 1], ∀ shared ∈ [none, some (huskParse (frameBytes.take 32)).shared], let s := framed opened shared
     let h := huskParse (memReads s.mem.sram (sramAddr 25919 (16 * 16384 + 4128 * opened)) 32)
     s.Quiet ∧ (s.m.exp 25919 1).run = some (.frame (frameCmd 2) note1 0 opened 0 [0, 0, 0, 0] shared) ∧
       (s.m.exp 25919 1).stopped = none ∧ h.sign ≠ 0 ∧ huskHdrBad h = false ∧ (shared = none ∨ shared = some h.shared) ∧
       h.tensorLo = W64.bits note1.base 33 18 ∧ huskLenBad h = none ∧
       (huskDecode h (memReads s.mem.sram (sramAddr 25919 (16 * 16384 + 4128 * opened)) h.blockLen)).firsts = []) ∧
    (huskParse (memReads (st m0).mem.sram (sramAddr 25919 (16 * 16384)) 32)).sign = 0 ∧
    (let s := { framed 0 none with mem := { State.reset.mem with sram := [(sramAddr 25919 (16 * 16384), 1)] } }
     let h := huskParse (memReads s.mem.sram (sramAddr 25919 (16 * 16384)) 32)
     h.sign ≠ 0 ∧ huskHdrBad h = true) := by decide +kernel

def ready (retain : Bool) (words : List (List Byte)) : FrameRun := { off := 262144, ctx := 0, words, nwords := 2, retain }

theorem meets_WordsPresented :
    (let s := st (port1 { stopped := some .portCmd })
     s.Quiet ∧ (s.m.exp 25919 1).nextReq ≤ 0 ∧ (s.m.exp 25919 1).stopped ≠ none ∧ (s.m.exp 25919 1).stopAt ≤ 0) ∧
    (∀ retain ∈ [true, false], ∀ ws ∈ [[], [List.replicate 32 (1 : Byte)]],
     let f := ready retain (List.replicate 32 0 :: ws)
     ∀ y ∈ [({} : Expander), { stopped := some .huskHdr, stopAt := 3 }],
     let x := (st (port1 { y with frames := [f] })).m.exp 25919 1
     (x.stopped = none ∨ 2 < x.stopAt) ∧ x.tail = none ∧ x.frames = f :: [] ∧ f.words = List.replicate 32 0 :: ws ∧
       max (max x.w f.acc) (max (f.bmax + 2) (f.tmax - f.nwords)) ≤ 2 ∧ f.faultFirst = none ∧ f.faultLast = none) := by
  decide +kernel
/-! ## Rings and descriptors -/

/-- A descriptor line of an opcode with fields, each with its byte offset. -/
def line (op : Nat) (fs : List (Nat × Nat)) : List W64 :=
  (List.range 8).map (fun i => word ((if i = 0 then [(op, 0)] else []) ++
    (fs.filter (fun f => f.2 / 8 == i)).map (fun f => (f.1, 8 * (f.2 % 8)))))
def desc (l : List W64) : Desc := { pos := 0, line := l, st := .matched }
/-- Ring 15 with the state and descriptors given. -/
def ring15 (x : Ring) : State := st (m0.modRing 15 (fun _ => x))
/-- Ring 15, of context 3, runs with one descriptor that has come to start. -/
def starting (x : Ctx) (l : List W64) : State :=
  st ({ m0 with ctxs := [(3, x)] }.modRing 15 (fun _ => { state := .running, descs := [desc l] }))
/-- What `DescReady` asks. -/
abbrev comes (s : State) (l : List W64) : Prop :=
  15 < 16 ∧ s.Quiet ∧ s.m.shed.off = false ∧ s.m.nextDesc 15 = some (desc l) ∧
    (s.m.ring 15).descs.filter Desc.waits = [desc l] ∧ descFault s.m.devid 3 l = none
theorem comes_ready {s : State} {l : List W64} (h : comes s l) : DescReady s 15 (desc l) := ⟨h.1, h.2.1, h.2.2.1, h.2.2.2.1, h.2.2.2.2.1, h.2.2.2.2.2⟩

theorem meets_DescriptorsStart :
    (∀ l ∈ [line 1 [], line 2 [(4096, 8)], line 3 [], line 4 [], line 5 [(8, 16)], line 6 [], line 7 [(4, 28)], line 7 [(5, 28)],
        line 7 [(6, 28)], line 7 [(7, 28)], line 8 [(47, 16)], line 9 [(6144, 16)], line 10 [(6144, 18)], line 10 [(1, 16)], line 11 [],
        line 12 [], line 13 [], line 14 [], line 15 [], line 15 [(1, 24)], line 16 []],
     let s := starting {} l
     comes s l ∧ (s.m.ctx 3).saving = none) ∧
    (∀ op ∈ List.range 17, dOp (line op []) = op) ∧ (∀ m ∈ [0, 1, 2, 3], xMode (line 7 [(m + 4, 28)]) = m) ∧
    (∀ b ∈ [0, 1], dBytes (line 10 [(b, 16)]) 16 1 % 2 = b ∧ kWhen (line 15 [(b, 24)]) = b) ∧
    (let s := starting {} (line 17 [])
     s.m.nextDesc 15 = some (desc (line 17 [])) ∧ descFault s.m.devid 3 (line 17 []) = some (.violOp, 0, 17) ∧
       (s.m.ring 15).descs.filter Desc.waits = [desc (line 17 [])] ∧ s.m.shed.off = false ∧ (s.m.ctx 3).saving = none) := by decide +kernel

theorem meets_DescriptorEffects :
    (∀ l ∈ [line 1 [], line 6 [], line 8 [(47, 16)], line 8 [(0, 16)], line 10 [(6144, 18)], line 10 [(1, 16), (25919, 20), (31, 22)],
        line 13 [], line 14 []], comes (starting {} l) l ∧ (starting {} l).m.hs.xfers = [] ∧ (starting {} l).m.hs.inlines = [] ∧
     (starting {} l).m.sts = []) ∧
    (∀ x ∈ [CtxState.idle, .armed, .boundary, .aborting, .running, .draining],
     ((starting { state := x } (line 6 [])).m.ctx 3).state = x ∧ (starting { state := x } (line 6 [])).m.tasksOf 3 = []) ∧
    (∀ v ∈ [0, 65535], ∀ adj ∈ [1, 2 ^ 32 - 1], let l := line 9 [(6151, 16), (5, 18), (adj, 20)]
     let s := starting {} l
     let t := st { s.m with sems := aset 0 [] (8192 * 5 + 6151) v }
     comes t l ∧ t.m.sem 5 6151 = v ∧ t.m.firstWaiter 5 6151 = none) ∧
    (∀ z ∈ [ReserveState.frozen, .valid], ((starting { reserve := { state := z } } (line 14 [])).m.ctx 3).reserve.state = z) ∧
    (∀ z ∈ [ReserveState.frozen, .empty], ∀ a ∈ [0, 4096],
     let x : Ctx := { state := .armed, act := { plan := some { plan9 with addr := a } }, reserve := { state := z, planAddr := 4096 } }
     let s := starting x (line 13 [])
     comes s (line 13 []) ∧ (s.m.ctx 3).state = .armed ∧ s.m.nextArrived 3 = false ∧ (s.m.ctx 3).swap = none ∧
       s.m.plan 3 = some { plan9 with addr := a } ∧ (s.m.ctx 3).reserve.planAddr = 4096 ∧ plan9.crc = (s.m.ctx 3).reserve.planCrc) := by
  decide +kernel

/-- While every context is IDLE no range is refused as a target, which the next witnesses need. -/
theorem targetBad_idle (m : Mach) (h : m.allIdle = true) (a n : Nat) : m.targetBad a n = false := by
  have g : ∀ lo k, m.guarded lo k = false := fun lo k => by
    rw [Mach.guarded, List.any_eq_false]
    intro c hc
    have := (List.all_eq_true.1 h) c hc
    simp_all
  rw [Mach.targetBad, h, g]
  simp

theorem meets_TransferDescriptors :
    (∀ m ∈ [0, 1, 2, 3], let l := line 7 [(0x1003, 8), (if m % 2 = 0 then 0x2000 else 0, 16), (9, 24), (m + 4, 28), (3, 29)]
     let s := starting {} l
     comes s l ∧ xMode l = m ∧ xCount l = 9 ∧ xCount l ≤ 4096 - dAddr l % 4096 ∧ xDstHost l = false ∧ xPosted l = false ∧
       xSrcHost l = false ∧ s.m.allIdle = true ∧ s.m.xfer 15 0 = none) ∧
    (∀ m ∈ [0, 1, 2, 3], let l := line 7 [(m + 4, 28), (3, 29)]
     comes (starting {} l) l ∧ xMode l = m ∧ xCount l = 0) ∧
    (∀ n ∈ [0, 3], let l := line 16 [(4 * n, 1), (0x1000, 8), (0x030201 % 2 ^ (8 * n), 16)]
     comes (starting {} l) l ∧ dLen l = n ∧ (starting {} l).m.allIdle = true) := by decide +kernel

/-- A plan of context 3 with one tier at a key slot. -/
def tierPlan : Plan := { plan9 with tiers := [{ keySlot := 3, kind := 2 }], glob := { plan9.glob with step0 := 77 } }
def withKeys (s : State) (full : Bool) : State := st { s.m with keys := aset none [] 3 (if full then some [] else none) }

theorem meets_PlanDescriptors_install :
    let l := line 2 [(0x40000000, 8), (1, 16)]
    let i : Install := { desc := { ring := 15, pos := 0 }, addr := 0x40000000, ctx := 3, shadow := true }
    (∀ x ∈ [({} : Ctx), { swap := some claimingSwap }], let s := starting x l
     comes s l ∧ s.m.hs.loaderCur = none ∧ s.m.hs.loaderQ = [] ∧ s.m.installBusy i = x.swap.isSome ∧
       s.m.fabAddr (dAddr l) = dAddr l ∧ dAddr l % 2 ^ 48 + 128 ≤ Config.hbmBytes) ∧
    comes (st ((starting {} l).m.modHs (fun h => { h with loaderCur := some i }))) l := by decide +kernel

theorem meets_PlanDescriptors_arm :
    (∀ p ∈ [none, some plan9], ∀ z ∈ [CtxState.idle, .armed], let s := starting { state := z, act := { plan := p } } (line 3 [])
     comes s (line 3 []) ∧ (s.m.ctx 3).act.plan = p ∧ (s.m.ctx 3).state = z) ∧
    (∀ full ∈ [true, false], let s := withKeys (starting { act := { plan := some tierPlan } } (line 3 [])) full
     comes s (line 3 []) ∧ (∀ k ∈ tierPlan.tiers, (aget none s.m.keys k.keySlot).isSome = full ∧ (k.kind == 1) = false) ∧
       (s.m.ctx 3).swap = none) := by decide +kernel

theorem meets_PlanDescriptors :
    (∀ x ∈ [({ withdraw := some { ring := 1, pos := 1 } } : Ctx), {}, { state := .armed }, { act := { plan := some plan9 } },
        { state := .running }],
     let s := starting x (line 4 [])
     comes s (line 4 []) ∧ s.m.ctx 3 = x ∧ s.m.hs.loaderCur = none) ∧
    (∀ x ∈ [({} : Ctx), { swap := some claimingSwap }, { state := .running }], let l := line 5 [(8, 16)]
     let s := starting x l
     comes s l ∧ dBytes l 16 1 % 16 = 2 ^ 3 ∧ s.m.hs.swapDescs = [] ∧ s.m.ctx 3 = x) ∧
    dBytes (line 5 []) 16 1 % 16 = 0 ∧ comes (starting {} (line 5 [])) (line 5 []) := by decide +kernel

/-- A saved image of context 3 without stage cores: 64 bytes of header, the last four the CRC, and the semaphores. -/
def imageHead : List Byte :=
  leBytes 4 imgMagic ++ [3] ++ leBytes 3 0 ++ leBytes 8 0 ++ leBytes 4 0 ++ leBytes 4 24640 ++ leBytes 36 0
def image (z : List Byte) (crc : Nat) : List Byte := imageHead ++ (leBytes 4 crc ++ z)

theorem leNat_leBytes (n v : Nat) (h : v < 256 ^ n) : leNat (leBytes n v) = v := by
  induction n generalizing v with
  | zero => simp only [Nat.pow_zero] at h; simp only [leBytes, leNat]; omega
  | succ n ih =>
    have := ih (v / 256) (by rw [Nat.pow_succ] at h; omega)
    simp only [leBytes, leNat, this, BitVec.toNat_ofNat]
    omega

theorem imageHead_length : imageHead.length = 60 := by decide
theorem leBytes4_length (v : Nat) : (leBytes 4 v).length = 4 := rfl
theorem image_length (z : List Byte) (crc : Nat) : (image z crc).length = 64 + z.length := by
  simp only [image, List.length_append, imageHead_length, leBytes4_length]; omega

/-- An image is good when its CRC is that of its bytes with the CRC's own at 0. -/
theorem imageBad_image (z : List Byte) (h : z.length = 24576) :
    imageBad 3 (image z (crc32c (image z 0)).toNat) [] = false := by
  generalize hv : (crc32c (image z 0)).toNat = v
  have hlt : v < 256 ^ 4 := by rw [← hv]; exact (crc32c (image z 0)).isLt
  have d4 : ∀ v, (image z v).drop 60 = leBytes 4 v ++ z := fun v => by
    rw [image, List.drop_append_of_le_length (by rw [imageHead_length]), List.drop_of_length_le (by rw [imageHead_length])]; rfl
  have hs : splice ((image z v).take 24640) 60 (leBytes 4 0) = image z 0 := by
    rw [List.take_of_length_le (by rw [image_length, h]), splice, leBytes4_length, ← List.drop_drop, d4,
      List.drop_append_of_le_length (by rw [leBytes4_length]), List.drop_of_length_le (by rw [leBytes4_length]), image, image,
      List.take_append_of_le_length (by rw [imageHead_length]), List.take_of_length_le (by rw [imageHead_length])]
    rw [List.nil_append, List.append_assoc]
  have hc : rdNat (image z v) 60 4 = v := by
    rw [rdNat, d4, List.take_append_of_le_length (by rw [leBytes4_length]), List.take_of_length_le (by rw [leBytes4_length]),
      leNat_leBytes _ _ hlt]
  have hd : ∀ o n, o + n ≤ 60 → rdNat (image z v) o n = rdNat imageHead o n := fun o n hn => by
    have hl := imageHead_length
    rw [rdNat, rdNat, image, List.drop_append_of_le_length (by omega),
      List.take_append_of_le_length (by rw [List.length_drop]; omega)]
  simp only [imageBad, List.length_nil, Nat.mul_zero, Nat.add_zero, hs, hc, hv, hd 0 4 (by decide), hd 4 1 (by decide),
    hd 5 3 (by decide), hd 16 4 (by decide), hd 20 4 (by decide), hd 24 36 (by decide), bne_self_eq_false, Bool.or_false,
    List.range_zero, List.zip_nil_left, List.any_nil]
  decide

theorem fabReads_eq {mem : Mems} {a n : Nat} (h : ∀ i, Config.sramOfFabric (a + i) = none) :
    fabReads mem a n = memReads mem.fab a n := by
  induction n generalizing a with
  | zero => rfl
  | succ n ih =>
    have e := ih (a := a + 1) (fun i => by rw [Nat.add_assoc, Nat.add_comm 1]; exact h (i + 1))
    rw [memReads, ← e, fabReads, fabReads, List.range_succ_eq_map, List.map_cons, List.map_map]
    refine congrArg₂ List.cons (by rw [h 0]; rfl) (List.map_congr_left fun i _ => ?_)
    simp only [Function.comp, Nat.succ_eq_add_one, Nat.add_assoc, Nat.add_comm 1]

theorem fabReads_empty (a n : Nat) : fabReads State.reset.mem a n = List.replicate n 0 := by
  have : ∀ x, memRead State.reset.mem.fab x = 0 ∧ memRead State.reset.mem.sram x = 0 := fun _ => ⟨rfl, rfl⟩
  rw [fabReads, List.eq_replicate_iff]
  refine ⟨by rw [List.length_map, List.length_range], fun b hb => ?_⟩
  obtain ⟨i, -, rfl⟩ := List.mem_map.1 hb
  split
  · exact (this _).2
  · exact (this _).1

/-- Context 3 IDLE with a plan without stage cores, and bytes at 0x40000. -/
def restoring (bytes : List Byte) : State :=
  { starting { act := { plan := some { plan9 with stages := [] } } } (line 12 [(0x40000, 8)]) with
    mem := { State.reset.mem with fab := memWrites [] (placed 0x40000 bytes) } }

theorem restoring_fab (l : List Byte) : (restoring l).mem.fab = memWrites [] (placed 0x40000 l) := rfl

/-- A whole image, wherever the configuration puts no core SRAM in its place. -/
theorem meets_ContextDescriptors_whole (h : ∀ i, Config.sramOfFabric (0x40000 + i) = none) (z : List Byte) (hz : z.length = 24576) :
    imageBad 3 (fabReads (restoring (image z (crc32c (image z 0)).toNat)).mem 0x40000 (24640 + 132 * 0)) [] = false := by
  have hl : 24640 + 132 * 0 = (image z (crc32c (image z 0)).toNat).length := by rw [image_length, hz]
  rw [fabReads_eq h, restoring_fab, hl, memReads_placed, imageBad_image z hz]

/-- An image of zeros is none. -/
theorem meets_ContextDescriptors_bad : imageBad 3 (fabReads (restoring []).mem 0x40000 (24640 + 132 * 0)) [] = true := by
  have e : (restoring []).mem = State.reset.mem := rfl
  have hr : rdNat (fabReads State.reset.mem 0x40000 (24640 + 132 * 0)) 0 4 = 0 := by
    rw [fabReads_empty, rdNat, List.drop_zero, List.take_replicate]; rfl
  rw [e]
  simp only [imageBad, hr]
  decide

theorem leBytes_length (n v : Nat) : (leBytes n v).length = n := by
  induction n generalizing v with
  | zero => rfl
  | succ n ih => rw [leBytes, List.length_cons, ih]
/-- A boundary capture for step 6 (0) or a snapshot (1) to the host. -/
def ckptLine (b : Nat) : List W64 :=
  line 15 [(0x40000000, 8), (0x4000000, 16), (b + 2, 24), (if b = 0 then 6 else 2 ^ 64 - 1, 32)]
def ckptOf (b : Nat) : Capture :=
  { desc := { ring := 15, pos := 0 }, snapshot := b == 1, host := true, rpl := false, target := 0x40000000, size := 0x4000000
    stepAt := if b = 0 then 6 else 0xFFFFFFFFFFFFFFFF }
def capturing (x : Ctx) (b : Nat) : State := st ((starting x (ckptLine b)).m.modHs (fun h => { h with att := .attached }))
/-- Context 3 IDLE with a plan, at step 5. -/
def ckptCtx : Ctx := { act := { plan := some plan9 }, step := 5 }

theorem ckpt_fits (b : Nat) (snap : Bool) :
    ckptTotal ((capturing ckptCtx b).m.ckptSections State.reset.mem 3 0 snap false) ≤ 0x4000000 := by
  generalize hm : (capturing ckptCtx b).m = m
  have hx : m.ctx 3 = ckptCtx := by rw [← hm]; rfl
  have e1 : (m.contextSec 3 0).length = 256 := by
    simp only [Mach.contextSec, List.length_append, leBytes_length, crcField, List.length_flatMap, trapBytes, List.map_const',
      List.length_range, List.sum_replicate]
    decide
  have e2 : (m.seedsSec 3).length = 1024 := by
    simp only [Mach.seedsSec, List.length_flatMap, apply_ite List.length, List.length_append, leBytes_length, ite_self,
      List.map_const', List.sum_replicate, List.length_range]
    decide
  have hc : m.stageCores 3 = [4320] := by rw [← hm]; rfl
  have e3 : (m.semImage 3).length = 24772 := by
    have h0 : (m.semImage0 3).length = 24772 := by
      simp only [Mach.semImage0, List.length_append, leBytes_length, List.length_flatMap, hc, List.map_const', List.length_range,
        List.sum_replicate]
      decide
    simp only [Mach.semImage, splice, List.length_append, List.length_take, List.length_drop, leBytes_length, h0]
    decide
  have e4 : m.amaxSec State.reset.mem 3 = [] := by rw [← hm]; rfl
  have e5 : m.configSec.length = 65536 := by
    simp only [Mach.configSec, List.length_flatMap, leBytes_length, List.map_const', List.length_range, List.sum_replicate]
    decide
  have e6 : planSec State.reset.mem (some plan9) = [] ∧ planSec State.reset.mem none = [] := ⟨rfl, rfl⟩
  have e7 : m.ledgerSec State.reset.mem 3 = [] := by rw [← hm]; rfl
  simp only [Mach.ckptSections, ckptTotal, hx, List.map_cons, List.map_nil, e1, e2, e3, e4, e5, e7, ite_self,
    show ckptCtx.act.plan = some plan9 from rfl, show ckptCtx.shd.plan = none from rfl, e6, Bool.false_eq_true, if_false]
  decide

theorem ckpt_starts (b : Nat) (hb : b ∈ [0, 1]) :
    (capturing ckptCtx b).m.ckptRefusal State.reset.mem 3 (ckptOf b) = none := by
  have h := ckpt_fits b (ckptOf b).snapshot
  rw [Mach.ckptRefusal]
  simp only [List.mem_cons, List.not_mem_nil, or_false] at hb
  rcases hb with rfl | rfl <;>
  · rw [if_neg (by decide +kernel), if_neg (by decide +kernel), if_neg (by decide +kernel), if_neg (by decide +kernel),
      if_neg (by decide +kernel)]
    exact if_neg (Nat.not_lt.2 h)

theorem meets_ContextDescriptors :
    (∀ a ∈ [0x40000, 0x40020], ∀ z ∈ [CtxState.idle, .armed, .running], let l := line 11 [(a, 8)]
     let s := starting { state := z, act := { plan := some plan9 } } l
     comes s l ∧ (s.m.ctx 3).saving = none ∧ (s.m.ctx 3).state = z ∧ s.m.nextArrived 3 = false ∧ dAddr l = a) ∧
    (let l := line 12 [(0x40000, 8)]
     comes (starting {} l) l ∧ (let s := restoring []
      comes s l ∧ (s.m.ctx 3).state = .idle ∧ (s.m.ctx 3).act.plan.isSome = true ∧ s.m.stageCores 3 = [] ∧ dAddr l = 0x40000)) ∧
    (∀ b ∈ [0, 1], kWhen (ckptLine b) = b ∧
     ∀ x ∈ [ckptCtx, {}, { ckptCtx with capture := some (ckptOf b) }, { ckptCtx with step := 7 }], let s := capturing x b
     comes s (ckptLine b) ∧ s.m.ctx 3 = x) := by decide +kernel

/-- The read of the line at position 0 of ring 15 is out, and the line has SEQ `seq`. -/
def lineRead (seq rereads : Nat) : State :=
  { st ((m0.modRing 15 (fun _ => { state := .running, descs := [{ pos := 0, rereads }] })).modHs (fun h => { h with
      ops := [{ id := 1, use := .desc 15 0, port := 0, addr := 4096, len := 64, write := false, issued := true }] })) with
    mem := { State.reset.mem with host := memWrites [] (placed 4096 (leBytes 8 (1 + seq * 65536))) } }

theorem meets_DescriptorsRead :
    (let s := st ((m0.modRing 15 (fun _ => { state := .running, prod := 1 })).modHs (fun h => { h with att := .attached }))
     s.Quiet ∧ s.m.hs.att = .attached ∧ s.m.readRing = some 15) ∧
    (∀ seq ∈ [0, 1], ∀ n ∈ [3, 4], let s := lineRead seq n
     (s.m.hs.ops.find? (fun o => o.use == .desc 15 0 && o.issued)).isSome = true ∧
       (s.m.ring 15).descs.find? (fun d => d.pos == 0) = some { pos := 0, rereads := n } ∧
       dSeq (lineWords (memReads s.mem.host 4096 64)) = seq) ∧
    (let d : Desc := { pos := 0, st := .mismatch, age := 64 }
     let s := ring15 { state := .running, descs := [d] }
     s.Quiet ∧ (s.m.ring 15).descs.find? (fun d => d.pos == 0) = some d ∧ d.st = .mismatch ∧ 64 ≤ d.age) := by decide +kernel

def event1 : CEvent := { rank := 52, aclk := 0, desc := { ring := 15, pos := 0 }, status := .ok, detail := 0, detail2 := 0 }
def hostOp (use : HostUse) (write : Bool) : HostOp :=
  { id := 1, use, port := 0, addr := 4096, data := if write then [(4096, 1)] else [], len := 64, write, issued := true }
def hostWaits (use : HostUse) (write : Bool) : State := st (m0.modHs (fun h => { h with ops := [hostOp use write] }))

theorem meets_CompletionsGoOut :
    (let d := desc (line 1 [])
     let s := st ((m0.modRing 15 (fun _ => { state := .running, descs := [d] })).modHs (fun h => { h with events := [event1] }))
     firstEvent s.m.hs.events = some event1 ∧
       (s.m.ring event1.desc.ring).descs.find? (fun d => d.pos == event1.desc.pos) = some d) ∧
    (∀ irq ∈ [true, false], ∀ status ∈ [Status.ok, .empty, .violOp],
     let e : CEntry := { status, detail := 0, detail2 := 0, tag := 0, slot := 0, irq }
     let s := hostWaits (.entry 15 e) true
     s.m.hs.ops.find? (fun o => o.id == 1 && o.write && o.issued) = some (hostOp (.entry 15 e) true) ∧ e.loose = false ∧ s.Quiet) ∧
    (∀ n ∈ [0, 64], let m := (m0.modRing 15 (fun _ => { state := .running, cqProd := n })).modHs (fun h => { h with att := .attached })
     (m.ring 15).heldEntries = [] ∧ m.hs.att = .attached ∧ (m.ring 15).state = .running ∧
       ((m.ring 15).size ≤ ixDiff (m.ring 15).cqProd (m.ring 15).cqCons ↔ n = 64)) := by
  decide +kernel

theorem meets_HostAnswers :
    (∀ u ∈ [HostUse.report 3 .dlmiss, .farLine 1 7, .xferLine 15 0 0, .ckptLine 0 3], let s := hostWaits u true
     s.m.hs.ops.find? (fun o => o.id == 1 && o.write && o.issued) = some (hostOp u true) ∧ (hostOp u true).retry = false ∧
       s.m.hs.ops.filter (fun q => q.id != 1) = [] ∧
       (let two := st (s.m.modHs (fun h => { h with ops := h.ops ++ [{ hostOp u true with id := 2 }] }))
        two.m.hs.ops.find? (fun o => o.id == 1 && o.write && o.issued) = some (hostOp u true) ∧
          (two.m.hs.ops.filter (fun q => q.id != 1)).any (fun q => q.use == u) = true)) ∧
    (∀ u ∈ [HostUse.farRead 1 7 0, .farBack 1 7, .xferRead 15 0 0 false, .xferBack 15 0, .ckptBack 3],
     (hostWaits u false).m.hs.ops.find? (fun o => o.id == 1 && !o.write && o.issued &&
       !(match o.use with
         | .desc _ _ => true
         | _ => false)) = some (hostOp u false)) ∧ (st m0).Quiet := by decide +kernel

/-- The tasks and transfers whose lines and reads these are: a FAR stash with its one block gone or not, a transfer to and
one from the host, a capture whose header is read back. -/
def toHost : Xfer := { copy15 with dst := 4096, dstHost := true, issued := 1, cuts := [(0, 1)] }
def fromHost : Xfer := { copy15 with srcHost := true, issued := 1, cuts := [(0, 1)] }
def hostWith (u : HostUse) (write : Bool) (t : Task) (x : Xfer) : State :=
  st ((mk .running { tasks := [t] }).modHs (fun h => { h with ops := [hostOp u write], xfers := [x] }))

theorem meets_HostAnswers_writes :
    (∀ b ∈ [BlkState.sent, .ready], let t := { allSent with blks := allSent.blks.map (fun k => { k with st := b }) }
     let s := hostWith (.farLine 1 7) true t toHost
     s.m.task 1 7 = some t ∧ t.ph ≠ .fail ∧ t.allCoded = true ∧ (t.blks.all (fun k => k.st == .sent)) = (b == .sent) ∧
       (s.m.modHs (fun h => { h with ops := [] })).farLinesOut 1 7 = false) ∧
    (let t := { allSent with ph := .fail }
     (hostWith (.farLine 1 7) true t toHost).m.task 1 7 = some t) ∧
    (let a := { acc3 3 (.xferWrite 15 0 0) true with chan := 7 }
     let s := st ((hostWith (.xferLine 15 0 0) true stashTask toHost).m.modSt 1 (fun x => { x with outst := [a] }))
     let freed := s.m.modSt 1 (fun x => { x with outst := x.outst.filter (fun a => !(a.share == 3 && a.hook == .xferWrite 15 0 0)) })
     s.m.xfer 15 0 = some toHost ∧ toHost.cuts.map (fun q => q.1) = [0] ∧ toHost.count ≤ toHost.issued ∧ toHost.dstHost = true ∧
       toHost.mode = .copy ∧ toHost.fail = none ∧ toHost.stop = false ∧ toHost.backDone = false ∧ freed.writesOut toHost.st = false ∧
       s.m.hs.xfers = [toHost] ∧ (s.m.st toHost.st).acc = [] ∧ (s.m.st toHost.st).outst = [a] ∧ a.hook ≠ .xferBack 15 0) := by
  decide +kernel

theorem meets_HostAnswers_reads :
    (∀ n ∈ [0, 1], ∀ ph ∈ [Phase.move, .fail], let t := { allSent with readBacks := n, ph }
     let s := hostWith (.farBack 1 7) false t toHost
     s.m.task 1 7 = some t) ∧
    (let s := hostWith (.xferRead 15 0 0 false) false stashTask fromHost
     s.m.xfer 15 0 = some fromHost ∧ fromHost.mode = .copy ∧ fromHost.dstHost = false) ∧
    (let x := { toHost with cuts := [], backLine := [1] }
     let o := { hostOp (.xferBack 15 0) false with len := 1 }
     let m := (mk .running { outst := [acc3 3 (.xferBack 15 0) false] }).modHs (fun h => { h with ops := [o], xfers := [x] })
     let s := { st m with mem := { State.reset.mem with host := [(4096, 1)] } }
     s.m.hs.ops = [o] ∧ s.m.xfer 15 0 = some x ∧ memReads s.mem.host 4096 1 = x.backLine ∧ x.count ≤ x.issued ∧ x.stop = false ∧ x.fail = none ∧ x.differ = none ∧
       (s.m.chan (8 * x.st + 7)).wrErr = false ∧ s.m.writesOut x.st = false ∧ (s.m.st x.st).acc = [] ∧
       (∀ a ∈ (s.m.st x.st).outst, a.hook = .xferBack 15 0 → a.share = 3)) := by decide +kernel

theorem meets_HostAnswers_capture :
    let k := { ckptOf 0 with header := List.replicate 4096 0 }
    let s := st { (hostWaits (.ckptBack 3) false).m with ctxs := [(3, { capture := some k })] }
    (s.m.ctx 3).capture = some k ∧ (s.m.st 0).cuts = [] ∧ memReads s.mem.host 4096 64 = k.header.drop 4032 :=
  ⟨rfl, rfl, by rw [List.drop_replicate]; decide +kernel⟩

/-- A block of a far record as the host gives it, and bytes that are no block. The key slot holds no key here, so that the
cipher leaves the bytes as they are. -/
def farTask : Task := { fetchTask with ph := .move, rooms := 1, slotsNeeded := 2, slotsIssued := 1, nexp := 2, fill := some 0
                                       farCap := 0, rc := { tier := 2, storLen := 200 } }
def farBytes (good : Bool) : List Byte := if good then sealBlock [] 0 0 frameBytes else []
def farGot (good : Bool) : State :=
  { st { (mk .running { tasks := [farTask] }).modHs (fun h => { h with ops := [{ hostOp (.farRead 1 7 0) false with len := 200 }] }) with
      keys := [(0, some [])] } with
    mem := { State.reset.mem with host := memWrites [] (placed 4096 (farBytes good)) } }
def opened (good : Bool) : Option (Except (Status × Nat) (List Byte)) :=
  let s := farGot good
  openHead (s.m.key 0) (s.m.tweakOf farTask) { s.m.expectOf farTask with block := 0 } 200 (memReads s.mem.host 4096 200)

set_option maxRecDepth 100000 in
theorem meets_HostAnswers_far :
    (farGot true).m.task 1 7 = some farTask ∧ farTask.kind = .fetch ∧ farTask.farReads = true ∧ farTask.ph ≠ .fail ∧
      farTask.cancelled = false ∧ farTask.rc.keySlot = 0 ∧ farTask.got = [] ∧ ((farGot true).m.ctx 0).farLost = false ∧
      0 + 1 < farTask.nexp ∧ frameBytes.length + 16 < farTask.rc.storLen ∧
      (match opened true with
        | some (.ok b) => decide (b = frameBytes)
        | _ => false) = true ∧
      (match opened false with
        | some (.error _) => true
        | _ => false) = true := by decide +kernel

theorem meets_DoorbellsJudged :
    (∀ x ∈ [({} : Ring), { state := .halted }, { state := .running }], (ring15 x).m.ring 15 = x ∧ (ring15 x).Quiet) ∧
    (let x : Ring := { state := .running, prod := 2 ^ 32 - 1, cons := 2 ^ 32 - 1 }
     (∀ ix ∈ [2 ^ 32 - 1, 63], ixDiff x.prod x.cons ≤ ixDiff ix x.cons ∧ ixDiff ix x.cons ≤ x.size) ∧ x.size < ixDiff 64 x.cons) ∧
    (let x : Ring := { state := .running, cqProd := 2, cqCons := 1 }
     (ring15 x).m.ring 15 = x ∧ ixDiff x.cqProd x.cqCons < ixDiff 3 x.cqCons) ∧
    (let x : Ring := { state := .running, prod := 1, cons := 0 }
     ixDiff 0 x.cons < ixDiff x.prod x.cons) ∧
    (let x : Ring := { state := .halted, cqProd := 2, cqCons := 1 }
     (∀ ix ∈ [1, 2], ixDiff ix x.cqCons ≤ ixDiff x.cqProd x.cqCons) ∧ ixDiff x.cqProd x.cqCons < ixDiff 3 x.cqCons) ∧
    (let x : RptRing := { state := .running }
     let s := st (m0.modRpt 3 (fun _ => x))
     (s.m.rpt 3).state = .running ∧ ixDiff x.prod x.cons ≤ ixDiff 1 x.cons) := by decide +kernel

/-- The header of a sequencer image of 128 B whose field bytes are right but for its CRC. -/
def seqHeader (crc : Nat) : List Byte :=
  leBytes 4 0x51535A55 ++ leBytes 2 1 ++ [0x42, 0] ++ leBytes 4 128 ++ leBytes 4 0 ++ leBytes 44 0 ++ leBytes 4 crc
def seqImage : List Byte := seqHeader (crc32c (seqHeader 0 ++ leBytes 64 0)).toNat ++ leBytes 64 0

set_option maxRecDepth 100000 in
theorem meets_RingControl :
    (∀ x ∈ [({} : Ring), { state := .running }, { state := .running, descs := [desc []] }, { state := .halted },
        { state := .halted, descs := [desc []] }], (ring15 x).Quiet ∧
      (ring15 x).m.ring 15 = x) ∧ (st m0).m.hs.seqSlot = none ∧
    (st (m0.modHs (fun h => { h with seqSlot := some [] }))).m.hs.seqSlot.isSome = true ∧
    (st (m0.modHs (fun h => { h with seqLoading := true }))).m.hs.seqLoading = true ∧
    (∀ att ∈ [AttState.attached, .holding], ∀ good ∈ [true, false],
     let s := st (m0.modHs (fun h => { h with
       seqLoading := true, att, seqImage := placed 0 (if good then seqImage else leBytes 64 0) }))
     let img := memWrites [] s.m.hs.seqImage
     s.Quiet ∧ s.m.hs.seqLoading = true ∧ (s.m.st 0).pwr = .active ∧ s.m.hs.att = att ∧ s.m.hs.seqImage ≠ [] ∧
       s.m.pendingHook (· == .seqRead) = false ∧ s.m.fabAddr 0 = 0 ∧
       seqFault (memReads img 0 64) (memReads img 0 (min 65536 (rdNat (memReads img 0 64) 8 4))) =
         if good then none else some (0, 0)) ∧
    (∀ x ∈ [({} : RptRing), { state := .running }, { state := .halted }], let s := st (m0.modRpt 3 (fun _ => x))
     s.Quiet ∧ s.m.rpt 3 = x ∧ x.heldReports = []) ∧ ixDiff 0 0 < ixDiff 1 0 ∧ 19 < 20 := by decide +kernel

theorem meets_OneShotWrites_keys :
    (let s := st { m0 with regs := { m0.regs with keyData := [(0, 1)] } }
     s.Quiet ∧ s.m.keyInUse 3 = false ∧ s.m.stagedKey.take 32 ≠ s.m.stagedKey.drop 32) ∧
    ((st m0).m.stagedKey.take 32 = (st m0).m.stagedKey.drop 32) ∧
    (st { m0 with ctxs := [(0, { state := .armed, act := { plan := some { plan9 with tiers := [{ keySlot := 3 }] } } })] }).m.keyInUse
      3 = true := by decide +kernel

/-- An attached host with a transfer to it under way, and a far record of a step that runs. -/
def farRec : RecInfo := { layer := 2, tensor := 256, rc := { state := .resident, tier := 2 } }
def hostLine : Access := { acc3 3 (.xferWrite 15 0 0) true with chan := 7 }
def losing (state : CtxState) : State :=
  st ({ m0 with
    ctxs := [(0, { ctx9 state with stages := [(9, { recs := [farRec] })] })], sts := [(1, { outst := [hostLine] })] }.modHs (fun h => { h with
    att := .attached, xfers := [{ copy15 with dstHost := true }] }))

theorem meets_HostAttachment_detach : ∀ state ∈ [CtxState.running, .draining, .armed], let s := losing state
    s.m.hs.att ≠ .detached ∧ (∀ n, n < 6 → (s.m.st n).tasks = []) ∧ (∀ c, c < 4 → (s.m.ctx c).capture = none) ∧
      s.m.hs.xfers = [{ copy15 with dstHost := true }] ∧ (s.m.st 1).acc = [] ∧
      (s.m.st 1).outst = [hostLine] ∧ hostLine.share = 3 ∧ hostLine.hook = .xferWrite 15 0 0 ∧
      s.m.recInfo 0 9 0 = some farRec ∧ farRec.rc.state = .resident ∧ farRec.rc.tier = 2 ∧ farRec.lost = none ∧
      31 ∉ s.m.msix.unmasked ∧ (s.m.ctx 0).state = state := by decide +kernel

theorem meets_HostAttachment :
    (∀ a ∈ [AttState.attached, .holding, .detached], (st (m0.modHs (fun h => { h with att := a }))).m.hs.att = a ∧
      (st (m0.modHs (fun h => { h with att := a }))).Quiet) ∧
    (let s := st (m0.modHs (fun h => { h with att := .holding, holdAge := 5000000 }))
     s.m.hs.att = .holding ∧ s.m.hostTmo ≤ s.m.hs.holdAge) ∧
    (∀ p ∈ [0, 1], let s := st (m0.modHs (fun h => (h.setPort p true)))
     s.m.hs.portUp p = true ∧ s.m.hs.portUp (1 - p) = false ∧
     (let t := st (m0.modHs (fun h => (h.setPort p true).setPort (1 - p) true))
      t.m.hs.portUp p = true ∧ t.m.hs.portUp (1 - p) = true)) ∧
    (let x : Ring := { heldEntries := [{ status := .ok, detail := 0, detail2 := 0, tag := 0, slot := 0, irq := false }] }
     let s := st ((m0.modRing 15 (fun _ => x)).modHs (fun h => { h with att := .attached, attachAge := 5000000 }))
     s.m.hs.att = .attached ∧ (s.m.ring 15).state = .disabled ∧ (s.m.ring 15).heldEntries ≠ [] ∧ s.m.hostTmo ≤ s.m.hs.attachAge) ∧
    (let s := st { m0 with msix := { pendingVecs := [63] } }
     s.Quiet ∧ 63 ∉ s.m.msix.unmasked ∧ 63 ∈ s.m.msix.pendingVecs ∧ 0 ∉ s.m.msix.pendingVecs) := by decide +kernel

/-! ## Log and registers -/

theorem meets_LogNeverOverwrites :
    (let s := st { m0 with vlog := { waiting := [{}], wr := 511, rd := 65535 } }
     s.Quiet ∧ s.m.vlog.waiting = {} :: [] ∧ s.m.vlog.unread = 512) ∧
    (let s := st { m0 with vlog := { waiting := [{}], wr := 65535, rd := 65535 } }
     s.m.vlog.waiting = {} :: [] ∧ s.m.vlog.unread < 512 ∧ s.m.vlog.wr < 65536 ∧ s.m.vlog.rd < 65536) := by decide +kernel

theorem meets_OneShotWrites :
    (st m0).Quiet ∧ (0 : W64).toNat % 64 < 48 ∧ (47 : W64).toNat % 64 < 48 ∧ 48 ≤ (48 : W64).toNat % 64 ∧ 48 ≤ (63 : W64).toNat % 64 ∧
    (let s := st { m0 with regs := { m0.regs with locked := true, glEpoch := 5 } }
     s.m.regs.locked = true ∧ (5 : W64) &&& 0xFFFF = s.m.regs.glEpoch ∧ (6 : W64) &&& 0xFFFF ≠ s.m.regs.glEpoch &&& 0xFFFF) ∧
    (st m0).m.regs.locked = false ∧ (65535 : W64) &&& 0xFFFF ≠ 0 ∧
    (st { m0 with vlog := { wr := 512 } }).m.vlog.wr = 512 ∧
    (512 + 65536 - (0 : W16).toNat) % 65536 ≤ 512 ∧ (512 + 65536 - (512 : W16).toNat) % 65536 ≤ 512 ∧
    512 < (512 + 65536 - (65535 : W16).toNat) % 65536 ∧ 512 < (512 + 65536 - (513 : W16).toNat) % 65536 ∧
    (let x : VLog := { wr := 100, rd := 50, mark := 60 }
     x.mark ≠ 0 ∧ x.unread < x.mark ∧ x.mark ≤ (x.wr + 65536 - (40 : W16).toNat) % 65536 ∧
       ¬ x.mark ≤ (x.wr + 65536 - (41 : W16).toNat) % 65536) ∧
    (st { m0 with vlog := { markDue := true } }).m.vlog.markDue = true ∧ (st m0).m.vlog.markDue = false := by decide +kernel

theorem meets_RegisterAccesses :
    ((2 : Nat) ≠ 4 ∧ (2 : Nat) ≠ 8) ∧ (4 % 8 ≠ 0 ∧ 0xE000 % 8 = 0 ∧ 0xFFF8 % 8 = 0 ∧ 0xFFFC % 4 = 0 ∧ 0xFFFC < 0x10000) ∧ (st m0).Quiet ∧
    grantOk ((0x100101010101 : W64) &&& 0x1F1F1F1F1F1F) = true ∧ grantOk ((0x110101010101 : W64) &&& 0x1F1F1F1F1F1F) = false ∧
    grantOk ((0 : W64) &&& 0x1F1F1F1F1F1F) = false ∧ (st m0).m.regs.locked = false ∧
    (let s := st { m0 with regs := { m0.regs with locked := true } }
     s.m.regs.locked = true ∧ s.m.regs.bwGrant &&& 0x1F1F1F1F1F1F = s.m.regs.bwGrant ∧
      (0x100101010101 : W64) &&& 0x1F1F1F1F1F1F ≠ s.m.regs.bwGrant) := by decide +kernel

theorem meets_RegisterValues_locked : ∀ locked ∈ [true, false], let s := st { m0 with regs := { m0.regs with locked } }
    s.Quiet ∧ s.m.regs.locked = locked ∧ s.m.regs.bwSplit &&& 0x1F1F1F = s.m.regs.bwSplit ∧
      s.m.regs.shedThr &&& 0xFFFFFFFFFF = s.m.regs.shedThr ∧ s.m.regs.glCtl &&& 0xFF1F01FF = s.m.regs.glCtl ∧
      s.m.regs.glTmo &&& 0xFFFFFFFF = s.m.regs.glTmo ∧ s.m.regs.hostTmo &&& 0xFFFFFFFF = s.m.regs.hostTmo := by decide +kernel

/-- UZ_SHED_CTL: a value without FORCE, and one with FORCE 1 to 7 that test mode takes; FORCE 5 and above rise to 5. -/
theorem meets_RegisterValues_shed :
    (∀ v ∈ [0x10100, 0x1010100, 0x7FF0F00], natBits v 11 8 ≠ 0 ∧ natBits v 23 16 ≠ 0) ∧ natBits 0x10100 26 24 = 0 ∧
    min 5 (natBits 0x1010100 26 24) = 1 ∧ min 5 (natBits 0x7FF0F00 26 24) = 5 ∧ natBits 0x10000 11 8 = 0 ∧ natBits 0x100 23 16 = 0 ∧
    (∀ locked ∈ [true, false], ∀ level ∈ [0, 5],
     let s := st { m0 with regs := { m0.regs with locked, testCtl := 1, shedCtl := 0x10100 }, shed := { m0.shed with level } }
     s.Quiet ∧ s.m.testMode = true ∧ s.m.regs.locked = locked ∧ s.m.shed.off = false ∧ s.m.shed.level = level ∧
       (0x7FF0F00 &&& 0x7FF0F0F) &&& 0xF = s.m.regs.shedCtl &&& 0xF ∧
       (0x1010100 &&& 0x7FF0F0F) &&& 0xFF0F0F = s.m.regs.shedCtl &&& 0xFF0F0F ∧
       (0x7FF0F00 &&& 0x7FF0F0F) &&& 0xFF0F0F ≠ s.m.regs.shedCtl &&& 0xFF0F0F) ∧ (st m0).m.testMode = false ∧
    natBits 0x2000000 25 16 = 512 ∧ natBits 0x2010000 25 16 = 513 := by decide +kernel

/-- The base and size registers of the last rings, DISABLED and not; fields at their bounds. -/
theorem meets_RegisterValues_rings :
    (∀ z ∈ [RingState.disabled, .running], (ring15 { state := z }).Quiet ∧ ((ring15 { state := z }).m.ring 15).state = z ∧
      (let s := st (m0.modRpt 3 (fun _ => { state := z }))
       s.Quiet ∧ (s.m.rpt 3).state = z)) ∧
    natBits 0xFFFFF000 11 0 = 0 ∧ natBits 0x800 11 0 ≠ 0 ∧ natBits 0x1FFFFFF 31 25 = 0 ∧ natBits 0x2000000 31 25 ≠ 0 ∧
    natBits 6 4 0 = 6 ∧ natBits 16 4 0 = 16 ∧ ¬ 6 ≤ natBits 5 4 0 ∧ ¬ natBits 17 4 0 ≤ 16 := by decide +kernel

/-- Values at the bounds of the registers' fields, within them and beyond (`W64.bits v` is `natBits v.toNat`). -/
theorem meets_RegisterValues_bounds :
    (∀ p ∈ [((0x20707 : Nat), true), (0x20708, false), (0x00E02, true), (0x01000, false)],
      decide (natBits p.1 4 0 + natBits p.1 12 8 + natBits p.1 20 16 = 16 ∧ natBits p.1 4 0 ≠ 0 ∧ natBits p.1 12 8 ≠ 0) = p.2) ∧
    (∀ p ∈ [((0x6A70787F88 : Nat), true), (0x5A70787F88, false), (0x6A70787F7F, false)],
      decide (natBits p.1 15 8 < natBits p.1 7 0 ∧ natBits p.1 23 16 < natBits p.1 15 8 ∧ natBits p.1 31 24 < natBits p.1 23 16 ∧
        natBits p.1 39 32 < natBits p.1 31 24 ∧ 90 < natBits p.1 39 32) = p.2) ∧
    (∀ p ∈ [((0x10000 : Nat), true), (0x100000, true), (0, false), (0x110000, false)],
      decide (natBits p.1 20 16 ≠ 0 ∧ natBits p.1 20 16 ≤ 16) = p.2) ∧
    (∀ p ∈ [((5000 : Nat), true), (5000000, true), (4999, false), (5000001, false)],
      decide (5000 ≤ natBits p.1 31 0 ∧ natBits p.1 31 0 ≤ 5000000) = p.2) ∧
    (∀ p ∈ [((50000 : Nat), true), (50000000, true), (49999, false), (50000001, false)],
      decide (50000 ≤ natBits p.1 31 0 ∧ natBits p.1 31 0 ≤ 50000000) = p.2) := by decide +kernel

theorem meets_RegisterValues :
    (∀ x ∈ [({} : Ctx), { state := .running }, { swap := some claimingSwap }], (st { m0 with ctxs := [(3, x)] }).Quiet ∧
      (st { m0 with ctxs := [(3, x)] }).m.ctx 3 = x) ∧ (st m0).Quiet ∧ W64.bits (0x3F00000000000000 : W64) 61 56 ≠ 0 ∧
    W64.bits (4096 : W64) 11 0 = 0 ∧ W64.bits (4096 : W64) 39 0 % 4096 = 0 ∧ W64.bits (2048 : W64) 11 0 ≠ 0 ∧
    W64.bits (2048 : W64) 39 0 % 4096 ≠ 0 ∧ (∀ x ∈ [0x58, 0xB8, 0xFF8], x % 8 = 0) ∧
    (∀ z ∈ [({ state := .valid } : Reserve), { state := .frozen }, { state := .capturing, closing := true, freezeReq := true }],
     let s := st { m0 with ctxs := [(3, { reserve := z })] }
     (s.m.ctx 3).state = .idle ∧ (s.m.ctx 3).act.rplCtl &&& 1 = 0 ∧ (s.m.ctx 3).reserve = z) ∧ (7 : W64) &&& 1 = 1 := by
  decide +kernel

/-! ## Installing: a plan image of one stage, one KEEP tensor and one program, field by field (R63–R67, R70, R105, R106) -/

/-- A section of the plan header: offset and length. -/
def sec (off len : Nat) : List Byte := leBytes 4 off ++ leBytes 4 len
def planHeader (crc : Nat) : List Byte :=
  leBytes 4 0x4C505A55 ++ leBytes 2 2 ++ leBytes 2 0 ++ leBytes 4 448 ++ leBytes 12 0 ++
  (sec 128 128 ++ sec 256 64 ++ sec 320 64 ++ leBytes 32 0 ++ sec 384 32 ++ leBytes 32 0) ++ leBytes 4 0 ++ leBytes 4 crc
/-- POOLBASE, POOLCHUNKS 64, DSTART 1, DSTOP 2, a guest region of 1 MiB; FROOMS 8 at S1. -/
def planGlobal : List Byte :=
  leBytes 8 0x80000000 ++ leBytes 4 64 ++ leBytes 4 1 ++ leBytes 4 2 ++ leBytes 20 0 ++ leBytes 8 0xA0000000 ++ leBytes 8 0x100000 ++ leBytes 8 0 ++
  (leBytes 2 0 ++ leBytes 2 8 ++ leBytes 8 0) ++ leBytes 52 0
/-- Stage 9: home S1, DTARGET 3, RESERVE 1, CAP 4, 10 layers, one slot, ledger of 256 records, core 4320. -/
def planStage : List Byte :=
  [9, 1, 3, 0xFF] ++ leBytes 4 1 ++ leBytes 4 4 ++ leBytes 2 10 ++ [1, 0] ++ leBytes 8 0x90000000 ++ leBytes 4 256 ++
  leBytes 2 4320 ++ leBytes 2 1 ++ leBytes 2 4320 ++ leBytes 30 0
/-- Tensor 256, KEEP, BF16: layer 2, CLASS 1, cell 3, one fetch at layer 2, LEAD 3, RINGDEPTH 3, program 0, 4,096 B. -/
def planEntry : List Byte :=
  leBytes 4 (256 + 2 ^ 23 + 2 ^ 26) ++ leBytes 2 2 ++ [9, 16, 3, 1] ++ leBytes 2 3 ++ leBytes 8 2 ++ leBytes 2 3 ++ leBytes 2 0 ++
  leBytes 4 4096 ++ leBytes 12 0 ++ leBytes 2 0xFFFF ++ [0xFF, 0] ++ leBytes 20 0
/-- LAND 1 frame at 16384, EMIT LINEAR of 256 units, END. -/
def planProg : List Byte :=
  leBytes 4 1 ++ leBytes 2 8 ++ leBytes 2 0 ++ leBytes 8 (0x0101000000004000) ++ leBytes 8 (0x0700000000100000) ++
  leBytes 8 0x0F00000000000000
def planBody : List Byte := planGlobal ++ planStage ++ planEntry ++ planProg ++ leBytes 32 0
def planImage (crc : Nat) : List Byte := planHeader crc ++ planBody
/-- The loader has read `bytes` of the image of context 0 at 0x40000000. -/
def install (shadow : Bool) (bytes : List Byte) : Install :=
  { desc := { ring := 0, pos := 0 }, addr := 0x40000000, ctx := 0, shadow, ph := .body, image := placed 0x40000000 bytes }
def loading (shadow : Bool) (bytes : List Byte) (swap : Option PendSwap) : State :=
  st ({ m0 with ctxs := [(0, { swap })] }.modHs (fun h => { h with loaderCur := some (install shadow bytes) }))
def checks (s : State) (i : Install) : Option (Status × Nat × Nat) := runChecks (i.ld s.m) loaderChecks

set_option maxRecDepth 100000 in
theorem meets_InstallsVerified_good : ∀ p ∈ [(true, none), (false, none), (true, some claimingSwap)],
    let i := install p.1 (planImage 2826259795)
    let s := loading p.1 (planImage 2826259795) p.2
    checks s i = none ∧ s.m.installBusy i = p.2.isSome ∧ (s.m.st 0).pwr = .active ∧ s.m.pendingHook (· == .loadRead) = false := by
  decide +kernel

set_option maxRecDepth 100000 in
/-- The active slot's guest region opens; a file of no bytes is no image. -/
theorem meets_InstallsVerified :
    (let i := install false (planImage 2826259795)
     let s := loading false (planImage 2826259795) none
     ((s.m.placePlan i (i.ld s.m).plan).ctx 0).opening = true) ∧
    checks (loading false [] none) (install false []) = some (.ldrHeader, 0, 2) := by decide +kernel

/-! ## Lodging and power -/

def linked (x : Link) (p : PwrState) : State := st { m0 with lodge := { m0.lodge with links := [(11, x)] }, sts := [(5, { pwr := p })] }
def msg1 (op : Nat) : LMsg := { h := word [(op, 0)], a0 := 0, a1 := 0, a2 := 0, payload := List.replicate 16 0 }
def req1 : Req := { id := 1, dev := 7, link := none, msg := msg1 2, cls := 1, use := .claim 0 0 false, age := 50000 }

theorem meets_LinksAndPeers :
    (∀ x ∈ [({} : Link), { st := 1 }, { st := 2 }], aget {} ((linked x .active).m.lodge.links) 11 = x) ∧ (st m0).Quiet ∧
    (let s := st { m0 with lodge := { m0.lodge with reqs := [req1] } }
     s.m.lodge.reqs.find? (fun r => r.id == 1) = some req1 ∧ s.m.glTmo ≤ req1.age) ∧
    (let s := st { m0 with lodge := { m0.lodge with peers := [(7, { down := true, downAge := 50000, violDue := true })] } }
     (s.m.peer 7).down = true ∧ s.m.upLinks 7 = [] ∧ s.m.glTmo ≤ (s.m.peer 7).downAge ∧ (s.m.peer 7).violDue = true) := by
  decide +kernel

/-- Link 11 is UP to device 7 with one message to send, a PUT or a HELLO. -/
def sending (put : Bool) : TxMsg := { msg := msg1 (if put then 4 else 1), cls := 1, isPut := put }
def sends (put : Bool) : State :=
  let s := linked { st := 2, dev := 7, epoch := some 3, helloSent := true, helloSeen := true, credits := 1, tx := [sending put] } .active
  st { s.m with regs := { m0.regs with glEpoch := 3 }
                lodge := { s.m.lodge with peers := [(7, { epoch := some 3 })] } }

theorem meets_MessagesSent : ∀ put ∈ [true, false],
    (sends put).Quiet ∧ ((sends put).m.link 11).st = 2 ∧ (sends put).m.epoch ≠ 0 ∧
      ((sends put).m.st (agentOf 11)).pwr = .active ∧ (sends put).m.nextTx 11 = some (0, sending put) ∧
      3 * (sending put).msg.len ≤ ((sends put).m.link 11).tokens := by decide +kernel

/-- The same link with the PUT of task 7, or a MORE of it, while the PUT's request waits to be sent. -/
def sendsOf (x : TxMsg) : State :=
  let m := (sends true).m
  st { m with
    sts := [(1, { tasks := [{ stashTask with mores := [(11, false)] }] })]
    lodge := { m.lodge with
      links := [(11, { m.link 11 with tx := [x] })], reqs := [{ putReq7 with link := some 11 }] } }
theorem meets_MessagesSent_requests :
    ∀ x ∈ [{ sending true with req := some 1 }, ({ msg := msg1 7, cls := 1, more := some (1, 7) } : TxMsg)], let s := sendsOf x
    s.Quiet ∧ (s.m.link 11).st = 2 ∧ s.m.epoch ≠ 0 ∧ (s.m.st (agentOf 11)).pwr = .active ∧ s.m.nextTx 11 = some (0, x) ∧
      3 * x.msg.len ≤ (s.m.link 11).tokens ∧ s.m.lodge.reqs.find? (fun r => r.id == 1) = some putReq7 ∧
      s.m.task 1 7 = some { stashTask with mores := [(11, false)] } := by decide +kernel

theorem meets_MessagesReceived :
    (∀ op ∈ List.range 14, (msg1 op).op = op ∧ (msg1 op).payload.length % 16 = 0) ∧
    ((linked { st := 2, dev := 7, rx := [msg1 1] } .active).m.link 11).rx ≠ [] ∧
    (∀ p ∈ [PwrState.active, .clockGated, .powerGated, .waking, .off], ((linked { st := 2, dev := 7 } p).m.link 11).st = 2 ∧
      ((linked { st := 2, dev := 7 } p).m.st (agentOf 11)).pwr = p ∧ ((linked { st := 2, dev := 7 } p).m.link 11).rx = [] ∧
      (linked { st := 2, dev := 7 } p).Quiet) := by decide +kernel

/-- A message of device 3 for its context 2, and a sealed block of 64 bytes. -/
def lmsg (op claim : Nat) (a0 a1 a2 : W64) (p : List Byte) : LMsg := (mkMsg op 1 3 0 2 claim a0 a1 a2 p).withEpoch 5
def block64 : List Byte := leBytes 48 0 ++ leBytes 2 3 ++ leBytes 6 0
def sealed64 : List Byte := block64 ++ leBytes 8 (crc64 block64).toNat
/-- A guest region of context 1, 4 beds behind its table, and claim 4 of device 3 on two of them. -/
def guestPlan : Plan := { plan9 with glob := { plan9.glob with guestBase := 0xA0000000, guestSize := 0x100000 } }
def claim4 : InnClaim := { dev := 3, ctx := 2, base := 0xA0010000, size := 0x20000, owner := 1, region := 0xA0000000 }
def rec4 : InnRec := { dev := 3, ledger := 640, ctx := 2, claim := 4, step := 7, beds := [0xA0010000], used := [64], lens := [64], link := none }
def hosting (claims : Assoc (Option InnClaim)) (recs : List InnRec) (gets : List InnGet) (reqs : List Req) (x : Ctx) : State :=
  st { m0 with
    ctxs := [(1, { act := { plan := some guestPlan } }), (2, x)]
    regs := { m0.regs with glEpoch := 5, glCtl := 0x1001FF }
    lodge := { m0.lodge with links := [(11, { st := 2, dev := 3 })], claims, recs, gets, reqs } }
def get4 : InnGet := { id := 9, link := 11, dev := 3, ctx := 2, cls := 1, claim := 4, loc := 0xA0010000, ledger := 640, nextBlk := 0, rooms := 0 }
/-- A PUT of device 0 that was given up. -/
def reqPut : Req := { id := 1, dev := 3, link := some 11, sent := true, msg := lmsg 4 4 640 (word [(1, 63)]) 0 sealed64, cls := 1, use := .putOld 2 false 0 0 0, age := 0 }
def windows (base : Nat) : ReqClaim := { tier := 1, dev := 3, base, size := 0x10000, claim := 4 }
def claimMsg : LMsg := lmsg 2 0 0xA0010000 0 0 (leBytes 8 0x10000 ++ leBytes 8 0)
def putMsg : LMsg := lmsg 4 4 640 (word [(1, 62), (1, 63)]) 7 sealed64
def getMsg : LMsg := lmsg 6 4 0xA0010000 (word [(64, 32), (1, 24)]) 640 []

theorem meets_LodgingEffects_requests :
    (let s := hosting [(4, some claim4)] [rec4] [get4] [] {}
     s.Quiet ∧ (s.m.link 11).st = 2 ∧ (s.m.st (agentOf 11)).pwr = .active ∧ (s.m.link 11).rx = [] ∧ s.m.epoch = 5 ∧
       (∀ m ∈ [claimMsg, lmsg 3 4 0xA0010000 0 0 [], putMsg, getMsg, lmsg 7 4 0xA0010000 2 640 [], lmsg 9 4 0xA0010000 0 0 [],
          lmsg 10 4 0 7 0 []],
        m.payload.length % 16 = 0 ∧ s.m.headFault 11 m = none ∧ (m.op ≠ 2 → s.m.claimOf m = some claim4) ∧
          s.m.headFault 11 (m.withEpoch 6) = some (4, 6, 6)) ∧
       (∀ op ∈ [0, 14, 63], (lmsg op 4 0 0 0 []).op = op ∧ s.m.headFault 11 (lmsg op 4 0 0 0 []) = some (1, 0, op)) ∧
       claim4.base = 0xA0010000 ∧ s.m.recAt 4 0xA0010000 = some rec4 ∧
       s.m.lodge.gets.find? (fun g => g.dev == 3 && g.ctx == 2 && g.claim == 4 && g.loc == 0xA0010000 && g.ledger == 640) =
         some get4 ∧ W64.bits (2 : W64) 7 0 = 2) ∧
    (let s := hosting [] [] [] [] {}
     s.m.headFault 11 claimMsg = none ∧ s.m.claimFault claimMsg = none ∧
       s.m.regionOf 0xA0010000 0x10000 = some (1, 0xA0000000, 0x100000) ∧ s.m.freeClaim = some 0) ∧
    (let s := hosting [(4, some claim4)] [] [] [] {}
     putFirst putMsg = true ∧ s.m.innRec 3 640 = none ∧ s.m.putFault 11 putMsg claim4 none = none ∧
       s.m.freeBed claim4 [] = some 0xA0010000) ∧
    (let s := hosting [(4, some claim4)] [rec4] [] [] {}
     s.m.headFault 11 getMsg = none ∧ s.m.recAt 4 0xA0010000 = some rec4 ∧ s.m.lodge.gets = [] ∧ msgBlk getMsg < rec4.lens.length ∧
       W64.bits getMsg.a1 63 32 = sumNat rec4.lens ∧ (s.m.st 5).acc = [] ∧ (s.m.st 5).outst = []) := by decide +kernel

theorem meets_LodgingEffects :
    (∀ m ∈ [lmsg 1 0 5 0 0 [], lmsg 5 4 640 (word [(1, 63)]) 0xA0010000 [], lmsg 8 4 0xA0010000 0 640 sealed64, lmsg 11 4 0 2 0 [],
        lmsg 12 4 0 (word [(4, 0), (9, 8)]) 0 [], lmsg 13 4 0xA0010000 0 0 []],
     m.src = 3 ∧ m.dst = 0 ∧ msgRsvd m = none ∧ m.epoch = 5) ∧
    (let s := hosting [] [] [] [] { claims := [windows 0xA0010000, { windows 0xA0020000 with tier := 2 }] }
     s.m.epoch = 5 ∧ s.m.epoch ≠ 0 ∧ (s.m.peer 3).epoch = none ∧ s.m.putReq 11 640 0 true = none ∧
       s.m.getReq 11 0xA0010000 640 = none ∧ s.m.lodge.reqs = [] ∧ windows 0xA0010000 ∈ (s.m.ctx 2).claims ∧
       (s.m.ctx 2).claiming = none ∧ (s.m.ctx 2).swapClaiming = none) ∧
    ((hosting [] [] [] [reqPut] {}).m.putReq 11 640 0 true = some reqPut) := by decide +kernel

/-- A level held for `span`, the last sample at 691 mV. -/
def shedding (level : Nat) (span : Nat) : Mach := { m0 with shed := { m0.shed with level, span, prevMv := some 691 } }

theorem meets_SheddingLevels :
    (689 < 690 ∧ (st m0).m.shed.off = false ∧ 690 ≤ 690) ∧
    (let s := st { shedding 0 0 with regs := { m0.regs with shedCtl := m0.regs.shedCtl ||| 0x3E } }
     s.m.shed.prevMv = some 691 ∧ s.m.shed.level < 5 ∧ s.m.shedEn 5 = true ∧ 690 < 600 + s.m.shedT 5 ∧ 691 < 600 + s.m.shedT 5 ∧
       s.m.shed.off = false) ∧
    (∀ mv ∈ [690, 900], let s := st { m0 with regs := { m0.regs with shedCtl := m0.regs.shedCtl ||| 0x3E } }
     s.m.shed.prevMv = none ∧ s.m.shed.off = false ∧ 690 ≤ mv ∧ s.Quiet) ∧
    (let s := st { shedding 5 0 with regs := { m0.regs with shedCtl := m0.regs.shedCtl ||| 0x3E } }
     s.m.shed.level = 5 ∧ s.m.shed.off = false ∧ 600 + s.m.shedT 5 + s.m.shedHyst ≤ 900) ∧
    (let s := st { m0 with shed := { m0.shed with off := true } }
     s.m.shed.off = true ∧ s.Quiet ∧ 600 + s.m.shedT 5 + s.m.shedHyst ≤ 900 ∧ ¬ 600 + s.m.shedT 5 + s.m.shedHyst ≤ 690) ∧
    (∀ span ∈ [0, 65535000000], let s := st { shedding 4 span with regs := { m0.regs with shedCtl := m0.regs.shedCtl ||| 0x3E } }
     s.m.shed.off = false ∧ s.m.shed.level ≠ 0 ∧ s.Quiet ∧ s.m.shed.span = span ∧ 0 < s.m.shedHold ∧ s.m.shedHold ≤ 65535000000) := by decide +kernel

theorem meets_StationsSleepAndWake :
    (let s := st { m0 with sts := [(5, { idleSclk := 64 })] }
     s.Quiet ∧ (s.m.st 5).pwr = .active ∧ s.m.cgIdle ≠ 0 ∧ s.m.stayOn 5 = false ∧ s.m.stationIdle 5 = true ∧
       16 * s.m.cgIdle ≤ (s.m.st 5).idleSclk) ∧
    (let s := st { m0 with sts := [(5, { pwr := .clockGated, pgAclk := 2 ^ 32 })] }
     s.m.mayPowerGate 5 = true ∧ s.m.pgIdle ≤ (s.m.st 5).pgAclk) ∧
    ((st { m0 with sts := [(5, { pwr := .waking })] }).m.st 5).pwr = .waking ∧
    (let s := st { m0 with shed := { m0.shed with off := true, offSpan := 65535000000 } }
     s.m.shed.off = true ∧ s.m.shedHold ≤ s.m.shed.offSpan) := by decide +kernel
/-! ## Worked values of the spec -/

/-- R198's check value. -/
theorem test_crc64 : crc64 [0x31, 0x32, 0x33, 0x34, 0x35, 0x36, 0x37, 0x38, 0x39] = 0x995DC9BBDF1939FA := by decide +kernel
/-- R233's test vector, and its draws. -/
theorem test_acorn : acorn 0 0 0 = 0x16B01EDB4A7DB413 ∧ (List.range 4).map (acornDraw 0 0 0 0) = [0xB413, 0x4A7D, 0x1EDB, 0x16B0] := by
  decide +kernel
/-- The mask example after R239. -/
theorem test_mask : (List.range 4).map (maskKeeps 0x4000 0 0 0) = [false, false, true, true] ∧
    (List.range 4).map (maskKeeps 0xE666 0 0 0) = [true, true, true, true] := by decide +kernel

/-- The short block worked by hand after R207: its entry, its elements, and its words. -/
def shortEntry : Entry :=
  { tensor := 0x21A3C, disp := .husk, fmt := .e4m3, src := .bf16, sat := true, clipLo := 0xC2800000, clipHi := 0x42800000 }
def shortRaw : List Byte :=
  ([0x3FC0, 0xBEA0, 0x3E34, 0x3E38, 0x42C8, 0x3A80, 0xC040, 0x3E80] : List Nat).flatMap (leBytes 2) ++ leBytes 240 0
def shortSubs : List Byte :=
  [0x0A, 3, 2, 0, 1, 3, 0x28, 0x64] ++ leBytes 8 0 ++ [8, 0, 1, 0, 1, 1, 0x0A, 0] ++ leBytes 8 0 ++
  [7, 3, 2, 0, 1, 3, 0x20, 0xC3] ++ leBytes 8 0 ++ [7, 1, 2, 0, 1, 3, 2, 4] ++ leBytes 8 0

theorem test_conversion : ([0x3FC0, 0xBEA0, 0x3E34, 0x3E38, 0x42C8, 0x3A80, 0xC040, 0x3E80].map
    (fun x => (convertElem shortEntry 131 0 x).1)) = [0x54, 0xC2, 0x3B, 0x3C, 0x7E, 0x00, 0xDC, 0x40] := by decide +kernel
set_option maxRecDepth 100000 in
theorem test_husk_encode : let l := (huskEncode shortEntry 131 0 0 3 6 63 shortRaw).1
    l.length = 96 ∧ l.take 28 = leBytes 8 0x1A3C010005832D48 ++ leBytes 8 0x0001000100010001 ++ leBytes 8 0x000000018300003F ++
      leBytes 4 0 ∧ l.drop 32 = shortSubs := by decide +kernel
/-- The amax example after R257. -/
theorem test_scale :
    chooseScale .e4m3 (word [(128, 0), (1, 8)]) (some { count := 10, vals := [0x415C0000], head := 0 }) = 132 := by decide +kernel
/-- The cuts of the unaligned copy after R145. -/
theorem test_copy_cuts :
    let x : Xfer := { desc := { ring := 0, pos := 0 }, st := 0, mode := .copy, src := 0x100000123, srcHost := false, dst := 0x200004F05
                      dstHost := false, count := 10000, cls := 1, posted := false, pattern := 0 }
    x.cutAt 0 = 251 ∧ x.cutAt 251 = 4096 ∧ x.cutAt 4347 = 4096 ∧ x.cutAt 8443 = 1557 := by decide +kernel
/-- The barrier after R325: the 16th arrival leaves 0 and makes one release of 16 writes. -/
theorem test_arrive_barrier :
    let w0 := word [(2, 0), (2, 6), (0x40, 9), (1, 22), (7, 38), (8655, 43)]
    let w1 := word [(16, 0), (8656, 16), (16, 32)]
    let t := got (exec (.arrive 8655 w0 w1) (st { m0 with ctxs := [(0, { state := .armed })], sems := [(2 * 8192 + 0x40, 15)] }))
    t.m.sem 2 0x40 = 0 ∧ (t.m.st 2).cellq = (List.range 16).map (fun i => CellItem.add (8656 + i) 7 1 2) := by decide +kernel

end Sys2Proof.Tests
end

section
/-!
PROOFS. One step of the queue: what it runs, and what it keeps (R2, R8–R10).
-/
namespace Sys2Proof.Machine

theorem step_of_nil {s : State} (h : s.pending = []) : step s = .next (commit s s.m.tick) := by
  simp [step, h]

theorem step_of_cons {s : State} {c : Instr} {cs : List Instr} (h : s.pending = c :: cs) :
    step s = exec c { s with pending := cs } := by
  simp [step, h]

/-- Committing what a command has made carries out its writes, so that none is left and the memories stay canonical. -/
theorem commit_inv {s : State} (m : Mach) (h : s.mem.wf = true) : (commit s m).Inv :=
  ⟨memsWf_applyWrites _ _ h, rfl⟩

theorem exec_keeps_inv {c : Instr} {s t : State} (hs : s.Inv) (h : exec c s = .next t) : t.Inv := by
  rcases exec_eq_act c s with ⟨f, hact⟩ | ⟨-, hfault, -⟩
  · obtain ⟨u, hu, -, hinv⟩ := act_spec c s f
    rw [hact, hu] at h
    cases h
    exact hinv hs
  · rw [hfault] at h
    cases h

/-- Settles O1: the queue is not empty, so a step is its second case. -/
theorem stepRunsFront : Obligations.StepRunsFront := fun _ _ _ => step_of_cons

/-- Settles O4, by the cases of the queue: a tick is committed, and a command is `exec` from a state that meets the
invariant too. -/
theorem stepKeepsInv : Obligations.StepKeepsInv := by
  intro s t hs h
  cases hq : s.pending with
  | nil =>
    rw [step_of_nil hq] at h
    cases h
    exact commit_inv _ hs.1
  | cons c cs =>
    rw [step_of_cons hq] at h
    exact exec_keeps_inv (s := { s with pending := cs }) hs h

end Sys2Proof.Machine
end

section
/-!
PROOFS. One aclk tick (log entry 3). `Mach.steady` is all of the machine that a tick leaves as it is: every part of the
tick keeps it, so the tick does.
-/
namespace Sys2Proof.Machine

/-! ## What a tick leaves as it is -/

/-- A task without its C0_OVER mark. -/
def Task.steady (t : Task) : Task := { t with c0over := false }

/-- A station without its tokens, clocks and busy counts and its tasks' marks. -/
def Station.steady (x : Station) : Station :=
  { x with
    tokens := [], clsTokens := [], sclk := 0, slow := 0, gated := 0, engBusy := 0, fengBusy := 0, laneBusy := 0
    idleSclk := 0, pgAclk := 0, tasks := x.tasks.map Task.steady }

/-- Stations with the same steady part differ in nothing but what `Station.steady` takes out; so for each record below. -/
theorem Station.eq_of_steady {x y : Station} (h : y.steady = x.steady) :
    { y with
      tokens := x.tokens, clsTokens := x.clsTokens, sclk := x.sclk, slow := x.slow, gated := x.gated
      engBusy := x.engBusy, fengBusy := x.fengBusy, laneBusy := x.laneBusy, idleSclk := x.idleSclk
      pgAclk := x.pgAclk, tasks := x.tasks } = x :=
  congrArg (fun z : Station => { z with
    tokens := x.tokens, clsTokens := x.clsTokens, sclk := x.sclk, slow := x.slow, gated := x.gated
    engBusy := x.engBusy, fengBusy := x.fengBusy, laneBusy := x.laneBusy, idleSclk := x.idleSclk
    pgAclk := x.pgAclk, tasks := x.tasks }) h

/-- The run data of a stage without its stall and late counts. -/
def StageStats.steady (x : StageStats) : StageStats := { x with stall := [], late := [] }

theorem StageStats.eq_of_steady {x y : StageStats} (h : y.steady = x.steady) :
    { y with stall := x.stall, late := x.late } = x :=
  congrArg (fun z : StageStats => { z with stall := x.stall, late := x.late }) h

/-- The run of a stage without its stall and late counts and the causes that they make due. -/
def StageRun.steady (x : StageRun) : StageRun := { x with stats := x.stats.steady, stallDue := [] }

theorem StageRun.eq_of_steady {x y : StageRun} (h : y.steady = x.steady) :
    { y with stats := x.stats, stallDue := x.stallDue } = x :=
  congrArg (fun z : StageRun => { z with stats := x.stats, stallDue := x.stallDue }) h

/-- A context without its stages, which `Steady.stage` holds. -/
def Ctx.steady (x : Ctx) : Ctx := { x with stages := [] }

theorem Ctx.eq_of_steady {x y : Ctx} (h : y.steady = x.steady) :
    { y with stages := x.stages } = x :=
  congrArg (fun z : Ctx => { z with stages := x.stages }) h

/-- A link without its tokens. -/
def Link.steady (x : Link) : Link := { x with tokens := 0 }

theorem Link.eq_of_steady {x y : Link} (h : y.steady = x.steady) :
    { y with tokens := x.tokens } = x :=
  congrArg (fun z : Link => { z with tokens := x.tokens }) h

/-- A peer without the time it has had no link. -/
def Peer.steady (x : Peer) : Peer := { x with down := false, downAge := 0 }

theorem Peer.eq_of_steady {x y : Peer} (h : y.steady = x.steady) :
    { y with down := x.down, downAge := x.downAge } = x :=
  congrArg (fun z : Peer => { z with down := x.down, downAge := x.downAge }) h

/-- A request without its age. -/
def Req.steady (r : Req) : Req := { r with age := 0 }

/-- The lodging state without its links and peers, which `Steady` holds, and the ages of its requests. -/
def Lodge.steady (x : Lodge) : Lodge := { x with links := [], peers := [], reqs := x.reqs.map Req.steady }

theorem Lodge.eq_of_steady {x y : Lodge} (h : y.steady = x.steady) :
    { y with links := x.links, peers := x.peers, reqs := x.reqs } = x :=
  congrArg (fun z : Lodge => { z with links := x.links, peers := x.peers, reqs := x.reqs }) h

/-- A descriptor without its age. -/
def Desc.steady (d : Desc) : Desc := { d with age := 0 }

/-- A ring without the ages of its descriptors. -/
def Ring.steady (x : Ring) : Ring := { x with descs := x.descs.map Desc.steady }

theorem Ring.eq_of_steady {x y : Ring} (h : y.steady = x.steady) :
    { y with descs := x.descs } = x :=
  congrArg (fun z : Ring => { z with descs := x.descs }) h

/-- The host side without its rings, which `Steady` holds, and the ages of the attachment. -/
def HostSide.steady (x : HostSide) : HostSide := { x with rings := [], holdAge := 0, attachAge := 0 }

theorem HostSide.eq_of_steady {x y : HostSide} (h : y.steady = x.steady) :
    { y with rings := x.rings, holdAge := x.holdAge, attachAge := x.attachAge } = x :=
  congrArg (fun z : HostSide => { z with rings := x.rings, holdAge := x.holdAge, attachAge := x.attachAge }) h

/-- What a tick leaves as it is, the tables read entry by entry. -/
@[ext] structure Steady where
  mach : Mach
  st : Nat → Station
  ctx : Nat → Ctx
  stage : Nat → Nat → StageRun
  link : Nat → Link
  peer : Nat → Peer
  ring : Nat → Ring

/-- The steady part of a machine: it determines every clause of `Obligations.EmptyQueueTicks` but those of the clocks. -/
def Mach.steady (m : Mach) : Steady where
  mach := { m with sts := [], ctxs := [], lodge := m.lodge.steady, hs := m.hs.steady }
  st n := (m.st n).steady
  ctx c := (m.ctx c).steady
  stage c g := (m.stage c g).steady
  link l := (m.link l).steady
  peer d := (m.peer d).steady
  ring r := (m.ring r).steady

/-! ## Lists and tables -/

/-- Repeating a change that keeps `g` keeps `g`. -/
theorem overList_keeps {α β : Type} (g : Mach → β) {f : Mach → α → Mach} (h : ∀ s a, g (f s a) = g s) (s : Mach)
    (l : List α) : g (overList f s l) = g s := by
  induction l generalizing s with
  | nil => rfl
  | cons a l ih => exact (ih (f s a)).trans (h s a)

theorem overTasks_keeps {β : Type} (g : Mach → β) {f : Mach → Task → Mach} (h : ∀ s t, g (f s t) = g s) (s : Mach)
    (n : Nat) : g (Mach.overTasks n f s) = g s := by
  refine overList_keeps g (fun s id => ?_) s _
  cases s.task n id with
  | none => rfl
  | some t => exact h s t

/-- A change of one entry that keeps `g` of it keeps `g` of every entry. -/
theorem aget_amod_keeps {α β : Type} [DecidableEq α] (g : α → β) {d : α} {m : Assoc α} {k : Nat} {f : α → α}
    (h : g (f (aget d m k)) = g (aget d m k)) (j : Nat) : g (aget d (amod d m k f) j) = g (aget d m j) := by
  by_cases hj : j = k
  · rw [hj, aget_amod_same, h]
  · rw [aget_amod_ne _ _ _ hj]

/-- Changing every element in a way that `g` does not see changes nothing that `g` sees. -/
theorem map_map_keeps {α β : Type} {g : α → β} {f : α → α} (h : ∀ x, g (f x) = g x) (l : List α) :
    (l.map f).map g = l.map g := by
  rw [List.map_map]
  exact List.map_congr_left (fun x _ => h x)

/-! ## Updates that keep it -/

theorem Station.setTasks_steady {x : Station} {ts : List Task} (h : ts.map Task.steady = x.tasks.map Task.steady) :
    ({ x with tasks := ts } : Station).steady = x.steady := by
  simp only [Station.steady, h]

theorem Ring.setDescs_steady {x : Ring} {ds : List Desc} (h : ds.map Desc.steady = x.descs.map Desc.steady) :
    ({ x with descs := ds } : Ring).steady = x.steady := by
  simp only [Ring.steady, h]

theorem Lodge.setReqs_steady {x : Lodge} {rs : List Req} (h : rs.map Req.steady = x.reqs.map Req.steady) :
    ({ x with reqs := rs } : Lodge).steady = x.steady := by
  simp only [Lodge.steady, h]

theorem Mach.modSt_steady {s : Mach} {n : Nat} {f : Station → Station} (h : (f (s.st n)).steady = (s.st n).steady) :
    (s.modSt n f).steady = s.steady :=
  Steady.ext rfl (funext (aget_amod_keeps Station.steady h)) rfl rfl rfl rfl rfl

theorem Mach.modCtx_keeps {β : Type} (g : Ctx → β) {s : Mach} {c : Nat} {f : Ctx → Ctx} (h : g (f (s.ctx c)) = g (s.ctx c))
    (c' : Nat) : g ((s.modCtx c f).ctx c') = g (s.ctx c') :=
  aget_amod_keeps g h c'

theorem Mach.modStage_steady {s : Mach} {c g : Nat} {f : StageRun → StageRun}
    (h : (f (s.stage c g)).steady = (s.stage c g).steady) : (s.modStage c g f).steady = s.steady := by
  have hstage : ∀ c' g', ((s.modStage c g f).stage c' g').steady = (s.stage c' g').steady := fun c' g' =>
    Mach.modCtx_keeps (f := fun x => { x with stages := amod {} x.stages g f })
      (fun x => (aget ({} : StageRun) x.stages g').steady)
      (aget_amod_keeps StageRun.steady h g') c'
  exact Steady.ext rfl rfl (funext (Mach.modCtx_keeps Ctx.steady rfl)) (funext fun c' => funext (hstage c')) rfl rfl rfl

theorem Mach.modStats_steady {s : Mach} {c g : Nat} {f : StageStats → StageStats} (h : ∀ x, (f x).steady = x.steady) :
    (s.modStats c g f).steady = s.steady :=
  Mach.modStage_steady (by simp only [StageRun.steady, h])

theorem Mach.modLink_steady {s : Mach} {l : Nat} {f : Link → Link} (h : (f (s.link l)).steady = (s.link l).steady) :
    (s.modLink l f).steady = s.steady :=
  Steady.ext rfl rfl rfl rfl (funext (aget_amod_keeps Link.steady h)) rfl rfl

theorem Mach.modPeer_steady {s : Mach} {d : Nat} {f : Peer → Peer} (h : (f (s.peer d)).steady = (s.peer d).steady) :
    (s.modPeer d f).steady = s.steady :=
  Steady.ext rfl rfl rfl rfl rfl (funext (aget_amod_keeps Peer.steady h)) rfl

theorem Mach.modHs_steady {s : Mach} {f : HostSide → HostSide} (h : ∀ x, (f x).steady = x.steady)
    (hr : ∀ x, (f x).rings = x.rings) : (s.modHs f).steady = s.steady :=
  Steady.ext (congrArg (fun x => { s with sts := [], ctxs := [], lodge := s.lodge.steady, hs := x }) (h s.hs)) rfl rfl rfl rfl rfl
    (funext fun r => congrArg (fun x => (aget {} x r).steady) (hr s.hs))

theorem Mach.modRing_steady {s : Mach} {r : Nat} {f : Ring → Ring} (h : (f (s.ring r)).steady = (s.ring r).steady) :
    (s.modRing r f).steady = s.steady :=
  Steady.ext rfl rfl rfl rfl rfl rfl (funext (aget_amod_keeps Ring.steady h))

/-! ## Stall and late counts (R165) -/

theorem Mach.addStall_steady (s : Mach) (c g k n : Nat) (thrs : List Nat) : (s.addStall c g k n thrs).steady = s.steady := by
  unfold Mach.addStall
  dsimp only
  split
  · exact (Mach.modStage_steady rfl).trans (Mach.modStats_steady fun _ => rfl)
  · exact Mach.modStats_steady fun _ => rfl

theorem Mach.addStall_sts (s : Mach) (c g k n : Nat) (thrs : List Nat) : (s.addStall c g k n thrs).sts = s.sts := by
  unfold Mach.addStall
  dsimp only
  split <;> rfl

theorem Mach.countStalls_steady (s : Mach) (n k : Nat) : (s.countStalls n k).steady = s.steady := by
  refine Eq.trans (Mach.modSt_steady (Station.setTasks_steady ?_))
    (overList_keeps Mach.steady (fun m _ => Mach.addStall_steady m ..) s _)
  exact map_map_keeps (fun t => by split <;> rfl) _

/-- Counting stalls touches the tasks of station `n`, and no other part of a station. -/
theorem Mach.countStalls_st (s : Mach) (n k : Nat) :
    ∃ f : List Task → List Task, (s.countStalls n k).st = (s.modSt n (fun x => { x with tasks := f x.tasks })).st := by
  refine ⟨modWhere (fun t => t.kind == .fetch && t.cls == 0 && (s.waitCauses n t).contains causeC0Over)
    (fun t => { t with c0over := true }), ?_⟩
  have hsts : (overList (fun m (p : Nat × Nat × Nat) => m.addStall p.1 p.2.1 p.2.2 k (s.boundBy n p)) s (s.stallsAt n)).sts =
      s.sts := overList_keeps Mach.sts (fun m _ => Mach.addStall_sts m ..) s _
  funext j
  simp only [Mach.countStalls, Mach.st, Mach.modSt, hsts]

theorem Mach.countLate_steady (s : Mach) (n k : Nat) : (s.countLate n k).steady = s.steady := by
  refine overTasks_keeps Mach.steady (fun m t => ?_) s n
  cases t.late with
  | none => rfl
  | some c => exact Mach.modStats_steady fun _ => rfl

theorem Mach.countLate_sts (s : Mach) (n k : Nat) : (s.countLate n k).sts = s.sts := by
  refine overTasks_keeps Mach.sts (fun m t => ?_) s n
  cases t.late <;> rfl

/-! ## Links (R280) -/

theorem Mach.accrueLinks_steady (s : Mach) (n k : Nat) : (s.accrueLinks n k).steady = s.steady := by
  refine overList_keeps Mach.steady (fun m l => ?_) s _
  split
  · exact Mach.modLink_steady rfl
  · rfl

theorem Mach.accrueLinks_sts (s : Mach) (n k : Nat) : (s.accrueLinks n k).sts = s.sts := by
  refine overList_keeps Mach.sts (fun m l => ?_) s _
  split <;> rfl

/-! ## Stations -/

theorem Mach.tickStation_steady (s : Mach) (n : Nat) : (s.tickStation n).steady = s.steady := by
  unfold Mach.tickStation
  dsimp only
  split
  · calc _ = (((s.countStalls n s.sclkRate).countLate n s.sclkRate).accrueLinks n s.sclkRate).steady := Mach.modSt_steady rfl
      _ = s.steady := by rw [Mach.accrueLinks_steady, Mach.countLate_steady, Mach.countStalls_steady]
  · exact Mach.modSt_steady rfl

/-- Late counts and the buckets of links are not in the stations. -/
theorem Mach.counts_st (s : Mach) (n k : Nat) :
    (((s.countStalls n k).countLate n k).accrueLinks n k).st = (s.countStalls n k).st := by
  funext j
  simp only [Mach.st, Mach.accrueLinks_sts, Mach.countLate_sts]

/-- A station's tick counts its clock when the station is ACTIVE, and its gated time when it is not (R260, R264). -/
theorem Mach.tickStation_clocks (s : Mach) (n : Nat) :
    ((s.tickStation n).st n).sclk = (if (s.st n).pwr = .active then (s.st n).sclk + s.sclkRate else (s.st n).sclk) ∧
      ((s.tickStation n).st n).gated = (if (s.st n).pwr = .active then (s.st n).gated else (s.st n).gated + 1) := by
  obtain ⟨f, hst⟩ := Mach.countStalls_st s n s.sclkRate
  unfold Mach.tickStation
  by_cases hp : (s.st n).pwr = .active
  · simp [hp, Mach.counts_st, hst, Station.accrue]
  · simp [hp]

theorem Mach.tickStation_st_ne (s : Mach) {n j : Nat} (h : j ≠ n) : (s.tickStation n).st j = s.st j := by
  obtain ⟨f, hst⟩ := Mach.countStalls_st s n s.sclkRate
  unfold Mach.tickStation
  dsimp only
  split
  · rw [Mach.modSt_st_ne _ _ h, Mach.counts_st, hst, Mach.modSt_st_ne _ _ h]
  · rw [Mach.modSt_st_ne _ _ h]

theorem Mach.sclkRate_of_steady {s m : Mach} (h : m.steady = s.steady) : m.sclkRate = s.sclkRate :=
  congrArg (fun x => x.mach.sclkRate) h

theorem Mach.tickStations_st_of_notMem (s : Mach) {l : List Nat} {n : Nat} (h : n ∉ l) :
    (overList Mach.tickStation s l).st n = s.st n := by
  induction l generalizing s with
  | nil => rfl
  | cons a l ih =>
    rw [List.mem_cons, not_or] at h
    exact (ih (s.tickStation a) h.2).trans (Mach.tickStation_st_ne s h.1)

/-- Each station of a list without repetition ticks once, as it stood and at the rate that was. -/
theorem Mach.tickStations_st_of_mem (s : Mach) {l : List Nat} {n : Nat} (hl : l.Nodup) (hn : n ∈ l) :
    ∃ m : Mach, (overList Mach.tickStation s l).st n = (m.tickStation n).st n ∧ m.st n = s.st n ∧
      m.sclkRate = s.sclkRate := by
  induction l generalizing s with
  | nil => cases hn
  | cons a l ih =>
    obtain ⟨ha, hl⟩ := List.nodup_cons.1 hl
    by_cases hna : n = a
    · subst hna
      exact ⟨s, Mach.tickStations_st_of_notMem (s.tickStation n) ha, rfl, rfl⟩
    · obtain ⟨m, hm, hst, hrate⟩ := ih (s.tickStation a) hl (List.mem_of_ne_of_mem hna hn)
      exact ⟨m, hm, hst.trans (Mach.tickStation_st_ne s hna),
        hrate.trans (Mach.sclkRate_of_steady (Mach.tickStation_steady s a))⟩

/-! ## Ages -/

theorem Req.ageIf_steady (b : Bool) (r : Req) : (if b then { r with age := r.age + 1 } else r).steady = r.steady := by
  split <;> rfl

theorem Mach.ageReqs_steady (s : Mach) (p : Req → Bool) :
    (s.modLodge (fun x => { x with reqs := x.reqs.map (fun r => if p r then { r with age := r.age + 1 } else r) })).steady =
      s.steady := by
  have h := Lodge.setReqs_steady (x := s.lodge) (map_map_keeps (fun r => Req.ageIf_steady (p r) r) _)
  exact Steady.ext (congrArg (fun x => { s with sts := [], ctxs := [], lodge := x, hs := s.hs.steady }) h) rfl rfl rfl rfl rfl rfl

theorem Mach.ageLodge_steady (s : Mach) : s.ageLodge.steady = s.steady := by
  refine (overList_keeps Mach.steady (fun m d => ?_) _ _).trans (Mach.ageReqs_steady s s.reqAges)
  dsimp only
  split
  · rfl
  · split <;> exact Mach.modPeer_steady rfl

theorem Mach.ageLodge_sts (s : Mach) : s.ageLodge.sts = s.sts := by
  refine (overList_keeps Mach.sts (fun m d => ?_) _ _).trans rfl
  dsimp only
  split
  · rfl
  · split <;> rfl

theorem Mach.ageHost_steady (s : Mach) : s.ageHost.steady = s.steady := by
  unfold Mach.ageHost
  refine Eq.trans (Mach.modHs_steady (fun _ => rfl) (fun _ => rfl)) (overList_keeps Mach.steady (fun m r => ?_) s _)
  split
  · rfl
  · exact Mach.modRing_steady (Ring.setDescs_steady (map_map_keeps (fun d => by split <;> rfl) _))

theorem Mach.ageHost_sts (s : Mach) : s.ageHost.sts = s.sts := by
  unfold Mach.ageHost
  refine Eq.trans (Mach.modHs_sts _ _) (overList_keeps Mach.sts (fun m r => ?_) s _)
  split <;> rfl

/-! ## The tick -/

theorem Mach.tickStations_steady (s : Mach) (l : List Nat) : (overList Mach.tickStation s l).steady = s.steady :=
  overList_keeps Mach.steady Mach.tickStation_steady s l

/-- What a tick makes: one aclk more, the same steady part, and the clocks of each station counted once. -/
theorem Mach.tick_spec (s : Mach) : ∃ t : Mach, s.tick = { t with aclk := t.aclk + 1 } ∧ t.steady = s.steady ∧
    ∀ n, n < 6 →
      (t.st n).sclk = (if (s.st n).pwr = .active then (s.st n).sclk + s.sclkRate else (s.st n).sclk) ∧
      (t.st n).gated = (if (s.st n).pwr = .active then (s.st n).gated else (s.st n).gated + 1) := by
  refine ⟨_, rfl, ?_, fun n hn => ?_⟩
  · rw [Mach.ageHost_steady, Mach.ageLodge_steady, Mach.tickStations_steady]
  · obtain ⟨m, hm, hst, hrate⟩ := Mach.tickStations_st_of_mem s List.nodup_range (List.mem_range.2 hn)
    have hlast : (overList Mach.tickStation s (List.range 6)).ageLodge.ageHost.st n = (m.tickStation n).st n := by
      rw [← hm, Mach.st, Mach.ageHost_sts, Mach.ageLodge_sts, Mach.st]
    rw [hlast, ← hst, ← hrate]
    exact Mach.tickStation_clocks m n

/-- Settles O2: a tick keeps `Mach.steady`, and each clause but that of the clocks reads off one part of it. -/
theorem emptyQueueTicks : Obligations.EmptyQueueTicks := by
  intro s hq hout
  obtain ⟨t, ht, hsteady, hclocks⟩ := Mach.tick_spec s.m
  have hmach : { t with sts := [], ctxs := [], lodge := t.lodge.steady, hs := t.hs.steady } =
      { s.m with sts := [], ctxs := [], lodge := s.m.lodge.steady, hs := s.m.hs.steady } := congrArg Steady.mach hsteady
  have hst n : (t.st n).steady = (s.m.st n).steady := congrArg (fun x => x.st n) hsteady
  have hstage c g : (t.stage c g).steady = (s.m.stage c g).steady := congrArg (fun x => x.stage c g) hsteady
  have hring r : (t.ring r).steady = (s.m.ring r).steady := congrArg (fun x => x.ring r) hsteady
  have hlodge : t.lodge.steady = s.m.lodge.steady := congrArg Mach.lodge hmach
  have hquiet : s.m.tick.out = [] := by
    rw [ht]
    exact (congrArg Mach.out hmach).trans hout
  refine ⟨s.m.tick, by rw [step_of_nil hq, next_commit_eq_to hquiet], ?_⟩
  rw [ht]
  exact ⟨congrArg (fun x => { x with aclk := x.aclk + 1, sts := t.sts, ctxs := t.ctxs, lodge := t.lodge, hs := t.hs }) hmach,
    fun n => ⟨Station.eq_of_steady (hst n), congrArg Station.tasks (hst n)⟩,
    hclocks,
    fun c => Ctx.eq_of_steady (congrArg (fun x => x.ctx c) hsteady),
    fun c g => ⟨StageRun.eq_of_steady (hstage c g), StageStats.eq_of_steady (congrArg StageRun.stats (hstage c g))⟩,
    fun l => Link.eq_of_steady (congrArg (fun x => x.link l) hsteady),
    fun d => Peer.eq_of_steady (congrArg (fun x => x.peer d) hsteady),
    congrArg Lodge.reqs hlodge,
    Lodge.eq_of_steady hlodge,
    fun r => ⟨Ring.eq_of_steady (hring r), congrArg Ring.descs (hring r)⟩,
    HostSide.eq_of_steady (congrArg Mach.hs hmach)⟩

end Sys2Proof.Machine
end

section
/-!
PROOFS. A write of UZ_SHED_CTL at a shedding level that the part does not have (R382).
-/
namespace Sys2Proof.Machine

theorem exec_registerWrite (off size : Nat) (v : W64) (s : State) :
    exec (.registerWrite off size v) s = .next (commit s (s.m.mmioWrite s.mem off size v)) := rfl

/-- Level 9, above the levels 0 to 5 of R376: the model then takes bit 8 of UZ_SHED_CTL, the lowest bit of HYST, for
the enable bit of the level in force. Context 0 is capturing. -/
def levelNine : State := { m := {
  regs := { shedCtl := 0x10100 }, shed := { level := 9 }, ctxs := [(0, { reserve := { state := .capturing } })] } }

/-- HYST 2 in place of HYST 1 takes the lowest bit of HYST away; the level that applies becomes 5, and the capture stops
(R271). -/
theorem levelNine_hyst_write_stops_capture :
    ((commit levelNine (levelNine.m.mmioWrite levelNine.mem 0x48 8 0x10200)).m.ctx 0).reserve.state = .invalid := by
  decide +kernel

/-- Refutes O53: in a state whose shedding level is 9 a valid write of UZ_SHED_CTL that keeps EN and raises no level
changes more than the register. The statement does not bound the level; no level above 5 comes from a sample or FORCE. -/
theorem not_registerValues : ¬ Obligations.RegisterValues := by
  intro h
  obtain ⟨hgate, -⟩ := h
  obtain ⟨-, -, -, -, -, -, -, -, hshed⟩ := hgate levelNine 0x10200 rfl
  obtain ⟨-, hunlocked, -⟩ := hshed
  have hnext := (hunlocked (by decide) rfl (by decide)).1 (Or.inr (by decide))
  rw [exec_registerWrite, State.to, Host.Outcome.next.injEq] at hnext
  have hkept := congrArg (fun t : State => (t.m.ctx 0).reserve.state) hnext
  exact absurd (levelNine_hyst_write_stops_capture.symm.trans hkept) (by decide)

end Sys2Proof.Machine
end

section
/-!
PROOFS. What the work of a plan descriptor keeps. `Mach.planView c` is all that arming, withdrawing and exchanging sets read
and leave of the machine: the host side, the registers, the programs in the stations, and the contexts, of context `c`
without its run data. A region that opens or retires, and areas that are judged, change nothing of it.
-/
namespace Sys2Proof.Machine

/-! ## Reading through an update -/

theorem Mach.ctx_of_ctxs {s m : Mach} (h : m.ctxs = s.ctxs) (c : Nat) : m.ctx c = s.ctx c := by simp only [Mach.ctx, h]

theorem commit_st (s : State) (m : Mach) (n : Nat) : (commit s m).m.st n = m.st n := rfl
theorem commit_ctx (s : State) (m : Mach) (c : Nat) : (commit s m).m.ctx c = m.ctx c := rfl
theorem Mach.modHs_st (s : Mach) (f : HostSide → HostSide) (n : Nat) : (s.modHs f).st n = s.st n := rfl
theorem Mach.modCtx_st (s : Mach) (c : Nat) (f : Ctx → Ctx) (n : Nat) : (s.modCtx c f).st n = s.st n := rfl
theorem Mach.modLodge_ctx (s : Mach) (f : Lodge → Lodge) (c : Nat) : (s.modLodge f).ctx c = s.ctx c := rfl

/-! ## The view -/

/-- A context without the run data that judging its areas and changing its region may touch. -/
def Ctx.settings (x : Ctx) : Ctx :=
  { x with stages := [], demoteOn := false, tel := {}, amax := [], reserve := {}, opening := false }

@[ext] structure PlanView where
  hs : HostSide
  regs : Regs
  prog : Nat → Assoc (List (List Ins))
  ctx : Nat → Ctx

def Mach.planView (c : Nat) (m : Mach) : PlanView where
  hs := m.hs
  regs := m.regs
  prog n := (m.st n).progMem
  ctx j := if j = c then (m.ctx j).settings else m.ctx j

section
variable {s m : Mach} {c : Nat} (h : m.planView c = s.planView c)
include h

theorem Mach.hs_of_planView : m.hs = s.hs := congrArg PlanView.hs h
theorem Mach.regs_of_planView : m.regs = s.regs := congrArg PlanView.regs h
theorem Mach.progMem_of_planView (n : Nat) : (m.st n).progMem = (s.st n).progMem := congrFun (congrArg PlanView.prog h) n

theorem Mach.ctx_of_planView_ne {j : Nat} (hj : j ≠ c) : m.ctx j = s.ctx j := by
  simpa [Mach.planView, hj] using congrFun (congrArg PlanView.ctx h) j

theorem Mach.settings_of_planView : (m.ctx c).settings = (s.ctx c).settings := by
  simpa [Mach.planView] using congrFun (congrArg PlanView.ctx h) c

theorem Mach.act_of_planView : (m.ctx c).act = (s.ctx c).act := (congrArg Ctx.act (Mach.settings_of_planView h) :)
theorem Mach.shd_of_planView : (m.ctx c).shd = (s.ctx c).shd := (congrArg Ctx.shd (Mach.settings_of_planView h) :)
theorem Mach.state_of_planView : (m.ctx c).state = (s.ctx c).state := (congrArg Ctx.state (Mach.settings_of_planView h) :)
theorem Mach.swap_of_planView : (m.ctx c).swap = (s.ctx c).swap := (congrArg Ctx.swap (Mach.settings_of_planView h) :)
theorem Mach.step_of_planView : (m.ctx c).step = (s.ctx c).step := (congrArg Ctx.step (Mach.settings_of_planView h) :)
theorem Mach.arming_of_planView : (m.ctx c).arming = (s.ctx c).arming := (congrArg Ctx.arming (Mach.settings_of_planView h) :)
theorem Mach.armedOnce_of_planView : (m.ctx c).armedOnce = (s.ctx c).armedOnce := (congrArg Ctx.armedOnce (Mach.settings_of_planView h) :)
theorem Mach.claims_of_planView : (m.ctx c).claims = (s.ctx c).claims := (congrArg Ctx.claims (Mach.settings_of_planView h) :)
end

/-! ## Updates that keep it -/

variable (s : Mach) (c n : Nat)

theorem Mach.modSt_planView {f : Station → Station} (h : ∀ x, (f x).progMem = x.progMem := by intro x; rfl) :
    (s.modSt n f).planView c = s.planView c :=
  PlanView.ext rfl rfl (funext (aget_amod_keeps Station.progMem (h _))) rfl

theorem Mach.modCtx_planView {f : Ctx → Ctx} (h : ∀ x, (f x).settings = x.settings := by intro x; rfl) :
    (s.modCtx c f).planView c = s.planView c := by
  refine PlanView.ext rfl rfl rfl (funext fun j => ?_)
  by_cases hj : j = c
  · simp [Mach.planView, hj, h]
  · simp [Mach.planView, hj, Mach.modCtx_ctx_ne]

@[simp] theorem Mach.modLodge_planView (f : Lodge → Lodge) : (s.modLodge f).planView c = s.planView c := rfl
@[simp] theorem Mach.modChan_planView (f : Chan → Chan) : (s.modChan n f).planView c = s.planView c := rfl

@[simp] theorem Mach.modStage_planView (g : Nat) (f : StageRun → StageRun) :
    (s.modStage c g f).planView c = s.planView c := Mach.modCtx_planView ..

@[simp] theorem Mach.wakeStation_planView : (s.wakeStation n).planView c = s.planView c :=
  Mach.modSt_planView _ _ _ fun x => by unfold Station.askedAwake; split <;> rfl

@[simp] theorem Mach.queueAcc_planView (a : Access) : (s.queueAcc n a).planView c = s.planView c :=
  (Mach.modSt_planView ..).trans (Mach.wakeStation_planView s c n)

@[simp] theorem Mach.dropWaiting_planView (p : Hook → Bool) : (s.dropWaiting p).planView c = s.planView c :=
  overList_keeps (Mach.planView c) (fun m n => Mach.modSt_planView ..) s _

@[simp] theorem Mach.raiseVec_planView (v : Nat) : (s.raiseVec v).planView c = s.planView c := by
  unfold Mach.raiseVec Mach.sendVec
  split
  · split
    · rfl
    · split <;> rfl
  · rfl

/-! ## Regions (R282, R302) -/

@[simp] theorem Mach.retireRegion_planView (d : Nat) : (s.retireRegion d).planView c = s.planView c := by
  refine overList_keeps (Mach.planView c) (fun m p => ?_) s _
  dsimp only
  split
  · rfl
  · split
    · rfl
    · split <;> rfl

@[simp] theorem Mach.serveRegion_planView (p : Plan) : (s.serveRegion c p).planView c = s.planView c := by
  unfold Mach.serveRegion
  dsimp only
  split
  · rfl
  · exact (overList_keeps (Mach.planView c) (fun m q => Mach.queueAcc_planView ..) _ _).trans
      (Mach.modCtx_planView ..)

@[simp] theorem Mach.changeRegion_planView (old new : Option Plan) :
    (s.changeRegion c old new).planView c = s.planView c := by
  have hretired : (((s.retireRegion c).dropWaiting (· == .bedZero c)).modCtx c fun x => { x with opening := false }).planView c =
      s.planView c :=
    (Mach.modCtx_planView ..).trans (by simp)
  unfold Mach.changeRegion
  dsimp only
  split_ifs
  · rfl
  · cases new with
    | none => exact hretired
    | some p => exact (Mach.serveRegion_planView ..).trans hretired

/-! ## Captures (R271, R272) -/

@[simp] theorem Mach.setReserve_planView (f : Reserve → Reserve) : (s.setReserve c f).planView c = s.planView c := by
  have hset : (s.modCtx c fun x => { x with reserve := f x.reserve }).planView c = s.planView c :=
    Mach.modCtx_planView ..
  unfold Mach.setReserve Mach.partHeaders
  dsimp only
  split
  · exact hset
  · exact (overList_keeps (Mach.planView c) (fun m n => Mach.queueAcc_planView ..) _ _).trans
      ((Mach.dropWaiting_planView ..).trans hset)

@[simp] theorem Mach.demoteMarks_planView : (s.demoteMarks c).planView c = s.planView c := by
  unfold Mach.demoteMarks
  split
  · rfl
  · exact Mach.modCtx_planView ..

@[simp] theorem Mach.reclaim_planView (g : Nat) : (s.reclaim c g).planView c = s.planView c := by
  unfold Mach.reclaim Mach.addWasted Mach.modStats
  dsimp only
  split <;> simp

@[simp] theorem Mach.removeTask_planView (t : Task) : (s.removeTask n t).planView c = s.planView c := by
  have hfree : (s.freeEngine n t).planView c = s.planView c := by
    unfold Mach.freeEngine
    split
    · exact Mach.modSt_planView ..
    · rfl
  unfold Mach.removeTask Mach.dropAsks Mach.dropTask
  dsimp only
  rw [Mach.modSt_planView, Mach.modLodge_planView, Mach.modSt_planView,
    Mach.modSt_planView, hfree]

@[simp] theorem Mach.chanEnd_planView (ch : Nat) (st : Status) (k : Nat) : (s.chanEnd ch st k).planView c = s.planView c := by
  unfold Mach.chanEnd
  dsimp only
  split
  · exact Mach.raiseVec_planView ..
  · rfl

@[simp] theorem Mach.endTask_planView (t : Task) (st : Status) : (s.endTask n t st).planView c = s.planView c := by
  unfold Mach.endTask Mach.endChans
  dsimp only
  split <;> split <;> simp

@[simp] theorem Mach.capturesOff_planView : (s.capturesOff c).planView c = s.planView c := by
  refine (overList_keeps (Mach.planView c) (fun m n => overTasks_keeps (Mach.planView c) (fun m t => ?_) m n) _ _).trans
    ((overList_keeps (Mach.planView c) (fun m p => Mach.reclaim_planView ..) _ _).trans
      (Mach.modCtx_planView ..))
  unfold Mach.endRemote
  dsimp only
  split
  · split
    · split
      · exact Mach.endTask_planView ..
      · rfl
    · split
      · exact Mach.endTask_planView ..
      · rfl
  · rfl

@[simp] theorem Mach.stopCapture_planView : (s.stopCapture c).planView c = s.planView c := by simp [Mach.stopCapture]

/-! ## Areas (R262, R269, R272) -/

@[simp] theorem Mach.checkAreas_planView (before : ConfigSet) (newPlan : Bool) :
    (s.checkAreas c before newPlan).planView c = s.planView c := by
  have hareas (m : Mach) (f : Ctx → TelState) (g : Ctx → Assoc Amax) :
      (m.modCtx c fun x => { x with tel := f x, amax := g x }).planView c = m.planView c := Mach.modCtx_planView ..
  have hbad (m : Mach) (b : Bool) :
      (m.modCtx c fun x => { x with reserve := { x.reserve with badRegion := b } }).planView c = m.planView c :=
    Mach.modCtx_planView ..
  simp only [Mach.checkAreas, apply_ite (Mach.planView c), Mach.setReserve_planView, Mach.dropWaiting_planView,
    Mach.stopCapture_planView, hbad, hareas, ite_self]

end Sys2Proof.Machine
end

section
/-!
PROOFS. The end of a verification (R71, R72, R75, R282): its branches, and the slot that holds the plan after it.
-/
namespace Sys2Proof.Machine

/-! ## The slots -/

/-- Taking the next install changes the loader, the log, the events and station 0, and no context. -/
@[simp] theorem Mach.takeInstall_ctxs (s : Mach) (k : Nat) : (s.takeInstall k).ctxs = s.ctxs := by
  induction k generalizing s with
  | zero => rfl
  | succ k ih =>
    unfold Mach.takeInstall
    split
    · dsimp only
      split
      · simp [ih, Mach.refuseInstall, Mach.complete]
      · split <;> simp [Mach.read2]
    · rfl

/-- The plan of an install's slot. -/
def Mach.slotPlan (s : Mach) (i : Install) : Option Plan := if i.shadow then (s.ctx i.ctx).shd.plan else (s.ctx i.ctx).act.plan

theorem Mach.slotPlan_congr {s m : Mach} {i : Install} (h : m.ctxs = s.ctxs) : m.slotPlan i = s.slotPlan i := by
  simp only [Mach.slotPlan, Mach.ctx, h]

@[simp] theorem Mach.installDone_slotPlan (s : Mach) (i : Install) : (s.installDone i).slotPlan i = s.slotPlan i :=
  Mach.slotPlan_congr (Mach.takeInstall_ctxs ..)

/-- A placed plan stands in its slot: opening or closing a region takes no plan out. -/
@[simp] theorem Mach.placePlan_slotPlan (s : Mach) (i : Install) (p : Plan) : (s.placePlan i p).slotPlan i = some p := by
  unfold Mach.placePlan Mach.slotPlan
  cases i.shadow with
  | true => simp
  | false =>
    have hact := Mach.act_of_planView (Mach.changeRegion_planView
      (s.modCtx i.ctx fun x => { x with act := { x.act with plan := some p } }) i.ctx (s.plan i.ctx) (some p))
    simp [hact]

/-! ## The branches -/

section
variable {s : Mach} {i : Install}

/-- The image is here and station 0 is ACTIVE: the loader judges it. -/
structure Mach.Verifies (s : Mach) (i : Install) : Prop where
  cur : s.hs.loaderCur = some i
  awake : (s.st 0).pwr = .active
  body : i.ph = .body
  read : s.pendingHook (· == .loadRead) = false

theorem Mach.installVerified_of_fails (h : s.Verifies i) {st : Status} {off order : Nat}
    (hc : runChecks (i.ld s) loaderChecks = some (st, off, order)) :
    s.installVerified = ((s.refuseInstall i st (some off) ((i.ld s).fieldAt off) order).modHs
      (fun h => { h with loaderCur := none })).nextInstall := by
  obtain ⟨hcur, hawake, hbody, hread⟩ := h
  simp [Mach.installVerified, hcur, hawake, hbody, hread, hc]

theorem Mach.installVerified_of_busy (h : s.Verifies i) (hc : runChecks (i.ld s) loaderChecks = none)
    (hb : s.installBusy i = true) :
    s.installVerified = ((s.refuseInstall i .ldrBusy none 0 0).modHs (fun h => { h with loaderCur := none })).nextInstall := by
  obtain ⟨hcur, hawake, hbody, hread⟩ := h
  simp [Mach.installVerified, hcur, hawake, hbody, hread, hc, hb]

theorem Mach.installVerified_of_sound (h : s.Verifies i) (hc : runChecks (i.ld s) loaderChecks = none)
    (hb : s.installBusy i = false) :
    s.installVerified =
      if ((s.placePlan i (i.ld s).plan).ctx i.ctx).opening && !i.shadow then
        (s.placePlan i (i.ld s).plan).modHs (fun h => { h with loaderCur := some { i with ph := .beds, image := [] } })
      else (s.placePlan i (i.ld s).plan).installDone i := by
  obtain ⟨hcur, hawake, hbody, hread⟩ := h
  simp [Mach.installVerified, hcur, hawake, hbody, hread, hc, hb]

theorem Mach.installVerified_slotPlan (h : s.Verifies i) (hc : runChecks (i.ld s) loaderChecks = none)
    (hb : s.installBusy i = false) : s.installVerified.slotPlan i = some (i.ld s).plan := by
  rw [Mach.installVerified_of_sound h hc hb]
  split
  · exact (Mach.slotPlan_congr rfl).trans (Mach.placePlan_slotPlan ..)
  · simp

end

theorem exec_installVerified (s : State) : exec .installVerified s = .next (commit s s.m.installVerified) := rfl

/-- Settles O54: the cases of `Mach.installVerified`, and the plan that it places. -/
theorem installsVerified : Obligations.InstallsVerified := by
  intro s i hcur hawake hbody hread
  have h : s.m.Verifies i := ⟨hcur, hawake, hbody, hread⟩
  refine ⟨fun st off order hc => ?_, fun hc hb => ?_, fun hc hb => ⟨fun hdone => ?_, fun hact hopen => ?_, ?_⟩⟩
  · rw [exec_installVerified, Mach.installVerified_of_fails h hc]
  · rw [exec_installVerified, Mach.installVerified_of_busy h hc hb]
  · have hends : (((s.m.placePlan i (i.ld s.m).plan).ctx i.ctx).opening && !i.shadow) = false := by
      rcases hdone with hshd | hopen
      · simp [hshd]
      · simp [hopen]
    rw [exec_installVerified, Mach.installVerified_of_sound h hc hb, hends]
    rfl
  · rw [exec_installVerified, Mach.installVerified_of_sound h hc hb]
    simp [hact, hopen]
  · exact ⟨_, exec_installVerified s, Mach.installVerified_slotPlan h hc hb⟩

end Sys2Proof.Machine
end

section
/-!
PROOFS. A descriptor that starts (R339): the command runs the work of its opcode on the machine in which it has started,
and settles nothing after it. Work that has not touched the rings leaves it started; with its completion it ends.
-/
namespace Sys2Proof.Machine

/-- The descriptor of a ring, named. -/
abbrev Desc.refIn (d : Desc) (r : Nat) : DescRef := { ring := r, pos := d.pos }

/-- The machine in which a descriptor has started. -/
def Mach.started (s : Mach) (d : DescRef) : Mach := s.setDesc d.ring d.pos (fun x => { x with st := .started })

section
variable (s : Mach) (d : DescRef)

@[simp] theorem Mach.started_ctxs : (s.started d).ctxs = s.ctxs := rfl
@[simp] theorem Mach.started_sts : (s.started d).sts = s.sts := rfl
@[simp] theorem Mach.started_regs : (s.started d).regs = s.regs := rfl
@[simp] theorem Mach.started_keys : (s.started d).keys = s.keys := rfl
@[simp] theorem Mach.started_out : (s.started d).out = s.out := rfl
@[simp] theorem Mach.started_ctx (c : Nat) : (s.started d).ctx c = s.ctx c := rfl
@[simp] theorem Mach.started_st (n : Nat) : (s.started d).st n = s.st n := rfl
@[simp] theorem Mach.started_events : (s.started d).hs.events = s.hs.events := rfl
@[simp] theorem Mach.started_loaderCur : (s.started d).hs.loaderCur = s.hs.loaderCur := rfl
@[simp] theorem Mach.started_loaderQ : (s.started d).hs.loaderQ = s.hs.loaderQ := rfl
@[simp] theorem Mach.started_swapDescs : (s.started d).hs.swapDescs = s.hs.swapDescs := rfl
@[simp] theorem Mach.started_fabAddr (a : Nat) : (s.started d).fabAddr a = s.fabAddr a := rfl
@[simp] theorem Mach.started_installBusy (i : Install) : (s.started d).installBusy i = s.installBusy i := rfl

theorem Mach.started_descs : ((s.started d).ring d.ring).descs =
    modWhere (fun x => x.pos == d.pos) (fun x => { x with st := .started }) (s.ring d.ring).descs := by
  simp [Mach.started, Mach.setDesc]
end

/-- Nothing waits in a list whose only waiting descriptor has been given a state in which none waits. -/
theorem waits_modWhere_eq_nil {l : List Desc} {d : Desc} (h : l.filter Desc.waits = [d]) {f : Desc → Desc}
    (hf : ∀ x, (f x).waits = false) : (modWhere (fun x => x.pos == d.pos) f l).filter Desc.waits = [] := by
  rw [List.filter_eq_nil_iff]
  intro x hx hw
  obtain ⟨y, hy, rfl⟩ := List.mem_map.1 hx
  split at hw
  · simp [hf] at hw
  · next hpos =>
    have : y ∈ l.filter Desc.waits := List.mem_filter.2 ⟨hy, hw⟩
    rw [h, List.mem_singleton] at this
    simp [this] at hpos

theorem waits_modWhere_of_nil {l : List Desc} (h : l.filter Desc.waits = []) (p : Desc → Bool) {f : Desc → Desc}
    (hf : ∀ x, (f x).waits = false) : (modWhere p f l).filter Desc.waits = [] := by
  rw [List.filter_eq_nil_iff] at h ⊢
  intro x hx
  obtain ⟨y, hy, rfl⟩ := List.mem_map.1 hx
  split
  · simp [hf]
  · exact h y hy

theorem st_of_mem_modWhere {l : List Desc} {x : Desc} {p : Nat} {st : DescState}
    (hx : x ∈ modWhere (fun y => y.pos == p) (fun y => { y with st }) l) (hpos : x.pos = p) : x.st = st := by
  obtain ⟨y, -, rfl⟩ := List.mem_map.1 hx
  by_cases hy : y.pos = p
  · simp [hy]
  · simp [hy] at hpos

theorem Mach.settle_of_noneWaits {s : Mach} {r : Nat} (h : (s.ring r).descs.filter Desc.waits = []) (k : Nat) :
    s.settle r k = s := by
  refine Mach.settle_of_none ?_ k
  have hfind : (s.ring r).descs.find? Desc.waits = none := by
    rwa [List.find?_eq_none, ← List.filter_eq_nil_iff]
  simp [Mach.nextDesc, hfind]

/-! ## Completions -/

section
variable (s : Mach) (rank : Nat) (d : DescRef) (st : Status) (a b : Nat)

@[simp] theorem Mach.complete_ctxs : (s.complete rank d st a b).ctxs = s.ctxs := rfl
@[simp] theorem Mach.complete_sts : (s.complete rank d st a b).sts = s.sts := rfl
@[simp] theorem Mach.complete_regs : (s.complete rank d st a b).regs = s.regs := rfl
@[simp] theorem Mach.complete_out : (s.complete rank d st a b).out = s.out := rfl
@[simp] theorem Mach.complete_loaderCur : (s.complete rank d st a b).hs.loaderCur = s.hs.loaderCur := rfl
@[simp] theorem Mach.complete_loaderQ : (s.complete rank d st a b).hs.loaderQ = s.hs.loaderQ := rfl
@[simp] theorem Mach.complete_ctx (c : Nat) : (s.complete rank d st a b).ctx c = s.ctx c := rfl
theorem Mach.complete_modCtx (c : Nat) (f : Ctx → Ctx) :
    (s.complete rank d st a b).modCtx c f = (s.modCtx c f).complete rank d st a b := rfl
@[simp] theorem Mach.complete_st (n : Nat) : (s.complete rank d st a b).st n = s.st n := rfl
end

/-! ## Work on a started descriptor -/

/-- From the machine in which descriptor `d` has started, `m` has neither touched a ring nor ended a descriptor. -/
structure Mach.Works (s : Mach) (d : DescRef) (m : Mach) : Prop where
  rings : m.hs.rings = (s.started d).hs.rings
  events : m.hs.events = s.hs.events

theorem Mach.Works.of_hs {s m : Mach} {d : DescRef} (h : m.hs = (s.started d).hs) : s.Works d m :=
  ⟨congrArg HostSide.rings h, (congrArg HostSide.events h).trans (s.started_events d)⟩

section
variable {s : State} {r : Nat} {d : Desc}

theorem DescReady.noneWaits (h : DescReady s r d) :
    ((s.m.started (d.refIn r)).ring r).descs.filter Desc.waits = [] := by
  rw [Mach.started_descs s.m (d.refIn r)]
  exact waits_modWhere_eq_nil h.alone fun _ => rfl

/-- A descriptor command of the right opcode does that opcode's work, whatever the work is. -/
theorem DescReady.act_awake (h : DescReady s r d) {c : Instr} (hc : c.wf = okRing r) {op : Nat} (hop : dOp d.line = op)
    (f : Mems → Mach → DescRef → List W64 → Mach) :
    act c s (fun mem m => m.startAwake r op anyDesc (f mem)) =
      .next (commit s ((f s.mem (s.m.started (d.refIn r)) (d.refIn r) d.line).settle r 16)) := by
  obtain ⟨hring, -, hawake, hnext, -, hsound⟩ := h
  have hsettled : s.m.settle r 16 = s.m := Mach.settle_of_sound hnext hsound 16
  rw [act_of_wf (by simp [hc, okRing, hring])]
  simp [Mach.startAwake, Mach.startDesc, hawake, hsettled, hnext, hsound, hop, anyDesc, Mach.started]

variable {m : Mach}

theorem DescReady.settle_works (h : DescReady s r d) (hw : s.m.Works (d.refIn r) m) : m.settle r 16 = m := by
  refine Mach.settle_of_noneWaits ?_ 16
  rw [Mach.ring, hw.rings]
  exact h.noneWaits

theorem DescReady.settle_complete (h : DescReady s r d) (hw : s.m.Works (d.refIn r) m) (rank : Nat) (st : Status)
    (a b : Nat) : (m.complete rank (d.refIn r) st a b).settle r 16 =
      m.complete rank (d.refIn r) st a b := by
  refine Mach.settle_of_noneWaits ?_ 16
  have hring : m.ring r = (s.m.started (d.refIn r)).ring r := by rw [Mach.ring, hw.rings, Mach.ring]
  have hdescs : ((m.complete rank (d.refIn r) st a b).ring r).descs =
      modWhere (fun x => x.pos == d.pos) (fun x => { x with st := .completed }) (m.ring r).descs := by
    simp [Mach.complete, Mach.ring, Mach.modHs, Mach.modRing]
  rw [hdescs, hring]
  exact waits_modWhere_of_nil h.noneWaits _ fun _ => rfl

end

/-- Work that has not completed its descriptor leaves it started. -/
theorem Mach.Works.starts {s : State} {d : DescRef} {m : Mach} (h : s.m.Works d m) : Starts s (commit s m) d := by
  refine ⟨h.events, fun x hx hpos => ?_⟩
  have hmem : x ∈ ((s.m.started d).ring d.ring).descs := by
    rw [Mach.ring, ← h.rings]
    exact hx
  rw [Mach.started_descs] at hmem
  exact st_of_mem_modWhere hmem hpos

/-- Work that ends with its descriptor's completion has ended that descriptor, and no other. -/
theorem Mach.Works.ends {s : State} {d : DescRef} {m : Mach} (h : s.m.Works d m) (rank : Nat) (st : Status) (detail : Nat) :
    Ends s (commit s (m.complete rank d st detail 0)) d st detail := by
  refine ⟨⟨{ rank, aclk := m.aclk, desc := d, status := st, detail := detail % 2 ^ 32, detail2 := 0 }, ?_, rfl, rfl, rfl⟩, fun x hx hpos => ?_⟩
  · rw [← h.events]
    rfl
  · have hmem : x ∈ modWhere (fun x => x.pos == d.pos) (fun x => { x with st := .completed }) (m.ring d.ring).descs := by
      simpa [Mach.complete, Mach.ring, Mach.modHs, Mach.modRing] using hx
    exact st_of_mem_modWhere hmem hpos

end Sys2Proof.Machine
end

section
/-!
PROOFS. What arming, withdrawing and exchanging make of a context (R73, R74, R90–R96): each changes the context in one
stated way, and beside it only its run data, the stations' programs and what no plan descriptor is asked to keep.
-/
namespace Sys2Proof.Machine

/-! ## Repeating over places -/

theorem overList_preserves {α : Type} {P : Mach → Prop} {f : Mach → α → Mach} (h : ∀ s a, P s → P (f s a)) {s : Mach}
    (l : List α) (hs : P s) : P (overList f s l) := by
  induction l generalizing s with
  | nil => exact hs
  | cons a l ih => exact ih (h s a hs)

/-- What a place gets in its own turn, and keeps in the others', it has after all of them. -/
theorem overList_establishes {α : Type} {P : Mach → α → Prop} {f : Mach → α → Mach} (hself : ∀ s a, P (f s a) a)
    (hkeep : ∀ s a b, P s b → P (f s a) b) {s : Mach} {l : List α} {b : α} (hb : b ∈ l) : P (overList f s l) b := by
  induction l generalizing s with
  | nil => cases hb
  | cons a l ih =>
    rcases List.mem_cons.1 hb with rfl | hb
    · exact overList_preserves (P := fun m => P m b) (fun m a => hkeep m a b) l (hself s b)
    · exact ih hb

/-! ## Programs -/

/-- The program section of a station. -/
def progsOf (p : Option Plan) (n : Nat) : List (List Ins) := ((p.map (fun p => p.progs)).getD [])[n]?.getD []

section
variable (s : Mach) (c : Nat) (p : Option Plan)

@[simp] theorem Mach.loadProgs_hs : (s.loadProgs c p).hs = s.hs :=
  overList_keeps Mach.hs (fun m n => by dsimp only; split <;> rfl) s _

@[simp] theorem Mach.loadProgs_regs : (s.loadProgs c p).regs = s.regs :=
  overList_keeps Mach.regs (fun m n => by dsimp only; split <;> rfl) s _

@[simp] theorem Mach.loadProgs_ctxs : (s.loadProgs c p).ctxs = s.ctxs :=
  overList_keeps Mach.ctxs (fun m n => by dsimp only; split <;> rfl) s _

@[simp] theorem Mach.loadProgs_ctx (j : Nat) : (s.loadProgs c p).ctx j = s.ctx j :=
  by simp [Mach.ctx]

theorem Mach.loadProgs_progMem {n : Nat} (hn : n < 6) : aget [] ((s.loadProgs c p).st n).progMem c = progsOf p n := by
  refine overList_establishes (P := fun m n => aget [] (m.st n).progMem c = progsOf p n) (fun m a => ?_) (fun m a b hb => ?_)
    (List.mem_range.2 hn)
  · simp [progsOf]
  · by_cases hab : b = a
    · simp [hab, progsOf]
    · dsimp only
      rw [Mach.modSt_st_ne _ _ hab]
      split
      · exact hb
      · rw [Mach.wakeStation_st_ne _ hab, hb]
end

/-! ## Contexts -/

theorem Mach.modCtx_congr {s : Mach} {c : Nat} {f g : Ctx → Ctx} (h : f (s.ctx c) = g (s.ctx c)) : s.modCtx c f = s.modCtx c g :=
  congrArg (fun x => { s with ctxs := aset {} s.ctxs c x }) h

theorem Mach.modCtx_modCtx (s : Mach) (c : Nat) (f g : Ctx → Ctx) : (s.modCtx c f).modCtx c g = s.modCtx c (fun x => g (f x)) :=
  congrArg (fun l => { s with ctxs := l }) (amod_amod _ _ _ _ _)

theorem Mach.trySwap_of_noSwap {s : Mach} {mem : Mems} {c : Nat} (h : (s.ctx c).swap = none) : s.trySwap mem c = s := by
  simp [Mach.trySwap, h]

/-! ## Arming (R73) -/

/-- A context whose arm ends at a step, with the claims made. -/
def Ctx.armed (x : Ctx) (claims : List ReqClaim) (step : W64) : Ctx :=
  { x.clearRun with
    arming := false, claiming := none, claims, lostTiers := [], regained := [], farLost := false, extra := [], amax := []
    step, armedOnce := true }

@[simp] theorem Mach.writeSeeds_planView (s : Mach) (c : Nat) (step : W64) : (s.writeSeeds c step).planView c = s.planView c := by
  unfold Mach.writeSeeds
  split
  · rfl
  · refine overList_keeps (Mach.planView c) (fun m e => ?_) _ _
    exact overList_keeps (Mach.planView c) (fun m k => by rfl) _ _

/-- All that the end of an arm makes but its completion. -/
def Mach.armWork (s : Mach) (c : Nat) (claims : List ReqClaim) : Mach :=
  let s := s.modCtx c (fun x => x.armed claims (s.step0 c true))
  let s := (s.writeSeeds c (s.ctx c).step).writeSeeds c ((s.ctx c).step + 1)
  s.checkAreas c (s.ctx c).act false

theorem Mach.armWork_planView (s : Mach) (c : Nat) (claims : List ReqClaim) :
    (s.armWork c claims).planView c = (s.modCtx c (fun x => x.armed claims (s.step0 c true))).planView c := by
  simp [Mach.armWork]

theorem Mach.armDone_of_noSwap {s : Mach} {mem : Mems} {c : Nat} {k : Claiming} (hk : (s.ctx c).claiming = some k)
    (hswap : (s.ctx c).swap = none) : s.armDone mem c = (s.armWork c k.acked).completeCtx k.desc .ok 0 := by
  have hstep0 : (s.modCtx c fun x => { x.clearRun with
      arming := false, claiming := none, claims := k.acked, lostTiers := [], regained := [], farLost := false
      extra := [], amax := [] }).applyStep0 c true = s.modCtx c (fun x => x.armed k.acked (s.step0 c true)) := by
    rw [Mach.applyStep0, Mach.modCtx_modCtx]
    refine Mach.modCtx_congr ?_
    simp [Ctx.armed, Mach.step0, Mach.plan, Ctx.clearRun]
  have harmed : s.armDone mem c = ((s.armWork c k.acked).completeCtx k.desc .ok 0).trySwap mem c := by
    simp only [Mach.armDone, hk, hstep0, Mach.armWork]
  have hnone : ((s.armWork c k.acked).ctx c).swap = none := by
    rw [Mach.swap_of_planView (Mach.armWork_planView ..), Mach.modCtx_ctx]
    exact hswap
  rw [harmed, Mach.trySwap_of_noSwap (by rwa [Mach.completeCtx, Mach.complete_ctx])]

/-! ## Withdrawing (R74) -/

/-- A context whose plan has gone. -/
def Ctx.withdrawn (x : Ctx) : Ctx :=
  { x.clearRun with
    state := .idle, act := { x.act with plan := none }, claims := [], lostTiers := [], regained := [], amax := [] }

/-- What goes with a plan beside its slot: its claims, its context's semaphores and its cores' cells. -/
def Mach.unclaimed (s : Mach) (c : Nat) : Mach :=
  if (s.plan c).isSome then
    ((s.sendUnclaims c (s.ctx c).claims).clearSems c).clearCells (((s.plan c).map Plan.allCores).getD [])
  else s

/-- A request changes the lodging state alone. -/
theorem Mach.sendUnclaims_lodge (s : Mach) (c : Nat) (l : List ReqClaim) :
    ∃ x, s.sendUnclaims c l = { s with lodge := x } := by
  refine overList_preserves (P := fun m => ∃ x, m = { s with lodge := x }) (fun m k hm => ?_) l ⟨s.lodge, rfl⟩
  obtain ⟨x, rfl⟩ := hm
  unfold Mach.sendUnclaim Mach.newReq
  dsimp only
  split <;> exact ⟨_, rfl⟩

theorem Mach.unclaimed_keeps (s : Mach) (c : Nat) : (s.unclaimed c).ctxs = s.ctxs ∧ (s.unclaimed c).hs = s.hs := by
  obtain ⟨x, hx⟩ := Mach.sendUnclaims_lodge s c (s.ctx c).claims
  unfold Mach.unclaimed
  rw [hx]
  split <;> exact ⟨rfl, rfl⟩

theorem Mach.withdrawNow_planView {s : Mach} {c : Nat} (hcap : (s.ctx c).capture = none) (hcur : s.hs.loaderCur = none) :
    (s.withdrawNow c).planView c = (((s.unclaimed c).loadProgs c none).modCtx c Ctx.withdrawn).planView c := by
  obtain ⟨hctxs, hhs⟩ := Mach.unclaimed_keeps s c
  have hcap' : ((s.unclaimed c).ctx c).capture = none := by rwa [Mach.ctx, hctxs]
  have hgone : s.unclaimed c = if (s.plan c).isSome then
      ((s.sendUnclaims c (s.ctx c).claims).clearSems c).clearCells (((s.plan c).map Plan.allCores).getD []) else s := rfl
  have hplaced : s.withdrawNow c = ((((s.unclaimed c).loadProgs c none).modCtx c Ctx.withdrawn).changeRegion c (s.plan c)
      none).regionReady c := by
    simp only [Mach.withdrawNow, ← hgone, hcap']
    rfl
  have hview := Mach.changeRegion_planView (((s.unclaimed c).loadProgs c none).modCtx c Ctx.withdrawn) c (s.plan c) none
  rw [hplaced, ← hview, Mach.regionReady]
  have hready (m : Mach) (hm : m.hs.loaderCur = none) : (m.regionReady c).planView c = m.planView c := by
    simp only [Mach.regionReady, Mach.modCtx_hs, hm]
    exact Mach.modCtx_planView ..
  exact hready _ (by rw [Mach.hs_of_planView hview]; simp [hhs, hcur])

/-! ## Exchanging (R90, R92, R96) -/

/-- A context whose sets have been exchanged, without their plans; the active plan's cores have their widths read again. -/
def Ctx.exchanged (x : Ctx) (pins : Assoc Nat) : Ctx :=
  { x with
    act := { x.shd with plan := x.act.plan.map (fun p => { p with widths := pins }) }, shd := { x.act with plan := x.shd.plan } }

/-- The exchange of the sets alone, before its descriptor hears of it. -/
def Mach.exchangeWork (s : Mach) (c : Nat) : Mach :=
  (s.modCtx c (fun x => x.exchanged s.widthPin)).checkAreas c (s.ctx c).act false

theorem Mach.exchangeWork_planView (s : Mach) (c : Nat) :
    (s.exchangeWork c).planView c = (s.modCtx c (fun x => x.exchanged s.widthPin)).planView c := by
  simp [Mach.exchangeWork]

theorem Mach.exchange_of_configs {s : Mach} {mem : Mems} {c : Nat} {w : PendSwap} (hw : w.plan = false) :
    s.exchange mem c w = (s.exchangeWork c).swapEnds c w.desc .ok 0 := by
  have hsets : (s.modCtx c fun x => { x with
      act := { x.shd with plan := (s.ctx c).act.plan.map (fun p => { p with widths := s.widthPin }) }
      shd := { x.act with plan := (s.ctx c).shd.plan } }) = s.modCtx c (fun x => x.exchanged s.widthPin) :=
    Mach.modCtx_congr rfl
  simp [Mach.exchange, hw, hsets, Mach.exchangeWork]

/-- What a CFG_SWAP descriptor keeps of a context whose swap has been performed or refused. -/
def SwapDesc.heard (x : SwapDesc) (c : Nat) (st : Status) (detail : Nat) : SwapDesc :=
  { x with
    open_ := x.open_.filter (· != c)
    refused := if st == .ok then x.refused else
      match x.refused with
      | some r => if c < r.1 then some (c, st, detail) else some r
      | none => some (c, st, detail) }

/-- A CFG_SWAP descriptor whose contexts are all done is no longer kept. -/
def Mach.dropSwapDesc (s : Mach) (d : DescRef) : Mach :=
  s.modHs (fun h => { h with swapDescs := h.swapDescs.filter (fun y => y.desc != d) })

/-- A context whose swap has been performed or refused, before its descriptor hears of it. -/
def Mach.swapOver (s : Mach) (c : Nat) (st : Status) : Mach :=
  let s := s.modCtx c (fun x => { x with swap := none, swapLast := st, swapDone := true })
  if st == .ok then s else s.logv { status := st, src := srcGate, ctx := some c }

theorem Mach.swapOver_hs (s : Mach) (c : Nat) (st : Status) : (s.swapOver c st).hs = s.hs := by
  unfold Mach.swapOver
  dsimp only
  split <;> rfl

theorem Mach.swapOver_ctxs (s : Mach) (c : Nat) (st : Status) :
    (s.swapOver c st).ctxs = (s.modCtx c (fun x => { x with swap := none, swapLast := st, swapDone := true })).ctxs := by
  unfold Mach.swapOver
  dsimp only
  split <;> rfl

section
variable {d : DescRef} {l : List SwapDesc} (hl : ∀ y ∈ l, y.desc ≠ d) {e : SwapDesc} (he : e.desc = d)
include hl he

theorem modWhere_desc_last (f : SwapDesc → SwapDesc) : modWhere (fun x => x.desc == d) f (l ++ [e]) = l ++ [f e] := by
  have hkept : l.map (fun x => if x.desc == d then f x else x) = l :=
    (List.map_congr_left fun x hx => by simp [hl x hx]).trans (List.map_id l)
  rw [modWhere, List.map_append, hkept]
  simp [he]

theorem find?_desc_last : (l ++ [e]).find? (fun x => x.desc == d) = some e := by
  have hnone : l.find? (fun x => x.desc == d) = none := by simpa [List.find?_eq_none] using hl
  simp [hnone, he]
end

/-- The descriptor of a swap ends when no context of it is left. -/
def Mach.swapHeard (s : Mach) (d : DescRef) : Mach :=
  match s.hs.swapDescs.find? (fun x => x.desc == d) with
  | none => s
  | some x =>
    if !x.open_.isEmpty then s
    else
      match x.refused with
      | none => (s.dropSwapDesc d).completeCtx d .ok 0
      | some (k, st, detail) => (s.dropSwapDesc d).completeCtx d st (k * 2 ^ 16 + detail)

theorem Mach.swapHeard_of_ok {s : Mach} {d : DescRef} {x : SwapDesc}
    (hx : s.hs.swapDescs.find? (fun x => x.desc == d) = some x) (hopen : x.open_ = []) (href : x.refused = none) :
    s.swapHeard d = (s.dropSwapDesc d).completeCtx d .ok 0 := by
  simp [Mach.swapHeard, hx, hopen, href]

theorem Mach.swapHeard_of_refused {s : Mach} {d : DescRef} {x : SwapDesc} {k : Nat} {st : Status} {detail : Nat}
    (hx : s.hs.swapDescs.find? (fun x => x.desc == d) = some x) (hopen : x.open_ = [])
    (href : x.refused = some (k, st, detail)) :
    s.swapHeard d = (s.dropSwapDesc d).completeCtx d st (k * 2 ^ 16 + detail) := by
  simp [Mach.swapHeard, hx, hopen, href]

/-- A context whose swap is over, once its descriptor has heard of it. -/
def Mach.swapMarked (s : Mach) (c : Nat) (d : DescRef) (st : Status) (detail : Nat) : Mach :=
  (s.swapOver c st).modHs (fun h => { h with
    swapDescs := modWhere (fun x => x.desc == d) (fun x => x.heard c st detail) h.swapDescs })

theorem Mach.swapEnds_eq (s : Mach) (c : Nat) (d : DescRef) (st : Status) (detail : Nat) :
    s.swapEnds c d st detail = (s.swapMarked c d st detail).swapHeard d := rfl

/-- The swap of a descriptor's one context ends: the descriptor ends with it, and beside its events and what it kept of its
swaps the host side stays. -/
theorem Mach.swapEnds_of_only {s : Mach} {c : Nat} {d : DescRef} {l : List SwapDesc} (st : Status) (detail : Nat)
    (hd : s.hs.swapDescs = l ++ [{ desc := d, open_ := [c] }]) (hl : ∀ y ∈ l, y.desc ≠ d) :
    ∃ m : Mach, s.swapEnds c d st detail = m.completeCtx d st (if st = .ok then 0 else c * 2 ^ 16 + detail) ∧
      m.hs.rings = s.hs.rings ∧ m.hs.events = s.hs.events ∧
      m.ctxs = (s.modCtx c (fun x => { x with swap := none, swapLast := st, swapDone := true })).ctxs := by
  have hhs := s.swapOver_hs c st
  have hfind : (s.swapMarked c d st detail).hs.swapDescs.find? (fun x => x.desc == d) =
      some (({ desc := d, open_ := [c] } : SwapDesc).heard c st detail) := by
    have hmarked : (s.swapMarked c d st detail).hs.swapDescs =
        modWhere (fun x => x.desc == d) (fun x => x.heard c st detail) s.hs.swapDescs := by rw [← hhs]; rfl
    rw [hmarked, hd, modWhere_desc_last hl rfl]
    exact find?_desc_last hl rfl
  refine ⟨(s.swapMarked c d st detail).dropSwapDesc d, ?_, (congrArg HostSide.rings hhs :), (congrArg HostSide.events hhs :),
    s.swapOver_ctxs c st⟩
  rw [Mach.swapEnds_eq]
  by_cases hst : st = .ok
  · rw [Mach.swapHeard_of_ok hfind (by simp [SwapDesc.heard]) (by simp [SwapDesc.heard, hst]), if_pos hst, hst]
  · rw [if_neg hst]
    exact Mach.swapHeard_of_refused hfind (by simp [SwapDesc.heard]) (by simp [SwapDesc.heard, hst])

/-! ## Requesting a swap (R90, R91) -/

/-- The work of a CFG_SWAP that names one context is the request of that context's swap. -/
theorem Mach.cfgSwap_of_one {s : Mach} {mem : Mems} {d : DescRef} {l : List W64} {k : Nat}
    (hk : (List.range 4).filter (fun c => bit (dBytes l 16 1) c) = [k]) :
    s.cfgSwap mem d l = (s.modHs (fun h => { h with swapDescs := h.swapDescs ++ [{ desc := d, open_ := [k] }] })).requestSwap
      mem d (bit (dBytes l 16 1) 4) (bit (dBytes l 16 1) 5) k := by
  simp [Mach.cfgSwap, hk, overList]

theorem bits_below_four (b : Nat) : (List.range 4).filter (fun c => bit b c) = (List.range 4).filter (fun c => bit (b % 16) c) := by
  refine List.filter_congr fun c hc => ?_
  have : c < 4 := List.mem_range.1 hc
  rw [bit, bit, show 16 = 2 ^ 4 from rfl, Nat.testBit_mod_two_pow]
  simp [this]

theorem bits_of_pow {b k : Nat} (hk : k < 4) (hb : b % 16 = 2 ^ k) : (List.range 4).filter (fun c => bit b c) = [k] := by
  rw [bits_below_four, hb]
  interval_cases k <;> decide

theorem bits_of_zero {b : Nat} (hb : b % 16 = 0) : (List.range 4).filter (fun c => bit b c) = [] := by
  rw [bits_below_four, hb]
  decide

end Sys2Proof.Machine
end

section
/-!
PROOFS. PLAN_INSTALL (R71, R72, R76), and the ways in which a descriptor's command can end.
-/
namespace Sys2Proof.Machine

/-! ## The loader (R72) -/

theorem Mach.takeInstall_of_nil {s : Mach} (h : s.hs.loaderQ = []) (k : Nat) : s.takeInstall k = s := by
  cases k with
  | zero => rfl
  | succ k => simp [Mach.takeInstall, h]

theorem Mach.takeInstall_of_busy {s : Mach} {i : Install} (hcur : s.hs.loaderCur = none) (hq : s.hs.loaderQ = [i])
    (hb : s.installBusy i = true) (k : Nat) :
    s.takeInstall (k + 1) = (s.modHs (fun h => { h with loaderQ := [] })).refuseInstall i .ldrBusy none 0 0 := by
  have hbusy : (s.modHs (fun h => { h with loaderQ := [] })).installBusy i = true := hb
  simp only [Mach.takeInstall, hcur, hq, hbusy, if_true]
  exact Mach.takeInstall_of_nil rfl k

theorem Mach.read2_acc (s : Mach) (n c addr len : Nat) (hook : Hook) : ((s.read2 n c addr len hook).st n).acc =
    (s.st n).acc ++ [{ id := (s.st n).nextId, share := 0, cls := 2, ctx := c, chan := 7, cost := 4096, addr, len, hook }] :=
  Mach.queueAcc_acc ..

/-- An install whose image lies where it may is taken, and the header of its image read. -/
theorem Mach.takeInstall_of_free {s : Mach} {i : Install} (hcur : s.hs.loaderCur = none) (hq : s.hs.loaderQ = [i])
    (hb : s.installBusy i = false) (halign : i.addr % 4096 = 0) (hlocal : s.fabAddr i.addr = i.addr)
    (hroom : i.addr % 2 ^ 48 + 128 ≤ Config.hbmBytes) (k : Nat) :
    s.takeInstall (k + 1) = (((s.modHs (fun h => { h with loaderQ := [] })).wakeStation 0).modHs (fun h => { h with
      loaderCur := some i })).read2 0 i.ctx i.addr 128 .loadRead := by
  have hfree : (s.modHs (fun h => { h with loaderQ := [] })).installBusy i = false := hb
  have haddr : i.addr % 4096 = 0 ∧ ((s.modHs (fun h => { h with loaderQ := [] })).wakeStation 0).fabAddr i.addr = i.addr ∧
      i.addr % 2 ^ 48 + 128 ≤ Config.hbmBytes := ⟨halign, hlocal, hroom⟩
  simp only [Mach.takeInstall, hcur, hq, hfree, if_pos haddr]
  rfl

/-- The install that a descriptor of ring `r` asks for. -/
abbrev Desc.install (d : Desc) (r : Nat) : Install :=
  { desc := d.refIn r, addr := dAddr d.line, ctx := r / 4, shadow := dBytes d.line 16 1 % 2 == 1 }

/-- The machine in which the install waits for the loader. -/
def Mach.installQueued (s : Mach) (i : Install) : Mach := s.modHs (fun h => { h with loaderQ := h.loaderQ ++ [i] })

theorem Mach.planInstall_eq (s : Mach) (r : Nat) (d : Desc) :
    s.planInstall (d.refIn r) d.line =
      (s.installQueued (d.install r)).takeInstall ((s.installQueued (d.install r)).hs.loaderQ.length + 1) := rfl

theorem Mach.takeInstall_of_taken {s : Mach} (h : s.hs.loaderCur ≠ none) (k : Nat) : s.takeInstall k = s := by
  obtain ⟨i, hi⟩ := Option.ne_none_iff_exists'.1 h
  cases k with
  | zero => rfl
  | succ k => simp [Mach.takeInstall, hi]

/-! ## Outcomes -/

/-- From `s` to `t` neither stations, contexts, registers nor memories have changed. -/
abbrev PlansKept (s t : State) : Prop := t.m.sts = s.m.sts ∧ t.m.ctxs = s.m.ctxs ∧ t.m.regs = s.m.regs ∧ t.mem = s.mem

theorem commit_plansKept {s : State} {m : Mach} (hq : s.Quiet) (hsts : m.sts = s.m.sts) (hctxs : m.ctxs = s.m.ctxs)
    (hregs : m.regs = s.m.regs) (hout : m.out = s.m.out) : PlansKept s (commit s m) := by
  refine ⟨hsts, hctxs, hregs, ?_⟩
  rw [commit_mem, hout, hq]
  rfl

section
variable {s : State} {r : Nat} {d : Desc} (h : DescReady s r d)
include h

/-- Work that neither touches the rings nor ends its descriptor is all that the command does. -/
theorem DescReady.next_starts {c : Instr} {m : Mach} (hc : exec c s = .next (commit s (m.settle r 16)))
    (hw : s.m.Works (d.refIn r) m) : exec c s = .next (commit s m) ∧ Starts s (commit s m) (d.refIn r) := by
  rw [h.settle_works hw] at hc
  exact ⟨hc, hw.starts⟩

theorem DescReady.next_ends {c : Instr} {m : Mach} {rank : Nat} {st : Status} {detail : Nat}
    (hc : exec c s = .next (commit s ((m.complete rank (d.refIn r) st detail 0).settle r 16)))
    (hw : s.m.Works (d.refIn r) m) :
    exec c s = .next (commit s (m.complete rank (d.refIn r) st detail 0)) ∧
      Ends s (commit s (m.complete rank (d.refIn r) st detail 0)) (d.refIn r) st detail := by
  rw [h.settle_complete hw] at hc
  exact ⟨hc, hw.ends rank st detail⟩

theorem DescReady.next_ends_kept {c : Instr} {m : Mach} {rank : Nat} {st : Status} {detail : Nat}
    (hc : exec c s = .next (commit s ((m.complete rank (d.refIn r) st detail 0).settle r 16)))
    (hw : s.m.Works (d.refIn r) m) (hsts : m.sts = s.m.sts) (hctxs : m.ctxs = s.m.ctxs) (hregs : m.regs = s.m.regs)
    (hout : m.out = s.m.out) : ∃ t, exec c s = .next t ∧ Ends s t (d.refIn r) st detail ∧ PlansKept s t ∧
      t.m.hs.loaderCur = m.hs.loaderCur ∧ t.m.hs.loaderQ = m.hs.loaderQ := by
  obtain ⟨hnext, hends⟩ := h.next_ends hc hw
  exact ⟨_, hnext, hends, commit_plansKept h.quiet hsts hctxs hregs hout, rfl, rfl⟩

theorem DescReady.next_ok {c : Instr}
    (hc : exec c s = .next (commit s (((s.m.started (d.refIn r)).completeCtx (d.refIn r) .ok 0).settle r 16))) :
    ∃ t, exec c s = .next t ∧ Ends s t (d.refIn r) .ok 0 ∧ PlansKept s t := by
  obtain ⟨t, hnext, hends, hkept, -⟩ := h.next_ends_kept hc (.of_hs rfl) rfl rfl rfl rfl
  exact ⟨t, hnext, hends, hkept⟩

theorem DescReady.next_refused {c : Instr} {st : Status} {detail : Nat}
    (hc : exec c s = .next (commit s (((s.m.started (d.refIn r)).refuse (d.refIn r) st detail).settle r 16))) :
    ∃ t, exec c s = .next t ∧ Ends s t (d.refIn r) st detail ∧ PlansKept s t := by
  obtain ⟨t, hnext, hends, hkept, -⟩ := h.next_ends_kept hc (.of_hs rfl) rfl rfl rfl rfl
  exact ⟨t, hnext, hends, hkept⟩

/-! ## PLAN_INSTALL (R71, R72) -/

theorem DescReady.exec_planInstall (hop : dOp d.line = opPlanInstall) :
    exec (.planInstall r) s =
      .next (commit s (((s.m.started (d.refIn r)).planInstall (d.refIn r) d.line).settle r 16)) :=
  h.act_awake rfl hop (fun _ => Mach.planInstall)

theorem DescReady.install_waits (hop : dOp d.line = opPlanInstall) (hcur : s.m.hs.loaderCur ≠ none) :
    ∃ t, exec (.planInstall r) s = .next t ∧ Starts s t (d.refIn r) ∧ PlansKept s t ∧
      t.m.hs.loaderQ = s.m.hs.loaderQ ++ [d.install r] ∧ t.m.hs.loaderCur = s.m.hs.loaderCur := by
  have htaken : ((s.m.started (d.refIn r)).installQueued (d.install r)).hs.loaderCur ≠ none := hcur
  have hc := h.exec_planInstall hop
  rw [Mach.planInstall_eq, Mach.takeInstall_of_taken htaken] at hc
  obtain ⟨hnext, hstarts⟩ := h.next_starts hc ⟨rfl, rfl⟩
  exact ⟨_, hnext, hstarts, commit_plansKept h.quiet rfl rfl rfl rfl, rfl, rfl⟩

theorem DescReady.install_busy (hop : dOp d.line = opPlanInstall) (hcur : s.m.hs.loaderCur = none) (hq : s.m.hs.loaderQ = [])
    (hb : s.m.installBusy (d.install r) = true) :
    ∃ t, exec (.planInstall r) s = .next t ∧ Ends s t (d.refIn r) .ldrBusy 0 ∧ PlansKept s t ∧
      t.m.hs.loaderCur = none ∧ t.m.hs.loaderQ = [] := by
  have hqueue : ((s.m.started (d.refIn r)).installQueued (d.install r)).hs.loaderQ = [d.install r] := by
    simp [Mach.installQueued, Mach.modHs, hq]
  have hfree : ((s.m.started (d.refIn r)).installQueued (d.install r)).hs.loaderCur = none := hcur
  have hc := h.exec_planInstall hop
  rw [Mach.planInstall_eq, Mach.takeInstall_of_busy hfree hqueue hb, Mach.refuseInstall] at hc
  obtain ⟨t, hnext, hends, hkept, hcur', hq'⟩ := h.next_ends_kept hc ⟨by simp [Mach.installQueued, Mach.modHs], by
    simp [Mach.installQueued, Mach.modHs]⟩ (by simp [Mach.installQueued]) (by simp [Mach.installQueued])
    (by simp [Mach.installQueued]) (by simp [Mach.installQueued])
  refine ⟨t, hnext, hends, hkept, hcur'.trans ?_, hq'.trans ?_⟩
  · simp [Mach.installQueued, Mach.modHs, hcur]
  · simp [Mach.installQueued, Mach.modHs]

theorem DescReady.install_taken (hop : dOp d.line = opPlanInstall) (hcur : s.m.hs.loaderCur = none) (hq : s.m.hs.loaderQ = [])
    (hb : s.m.installBusy (d.install r) = false) (halign : dAddr d.line % 4096 = 0)
    (hlocal : s.m.fabAddr (dAddr d.line) = dAddr d.line) (hroom : dAddr d.line % 2 ^ 48 + 128 ≤ Config.hbmBytes) :
    ∃ t, exec (.planInstall r) s = .next t ∧ Starts s t (d.refIn r) ∧ t.m.hs.loaderCur = some (d.install r) ∧
      t.m.ctxs = s.m.ctxs ∧ (t.m.st 0).acc = (s.m.st 0).acc ++ [{
        id := (s.m.st 0).nextId, share := 0, cls := 2, ctx := r / 4, chan := 7, cost := 4096, addr := dAddr d.line, len := 128
        hook := .loadRead }] := by
  have hqueue : ((s.m.started (d.refIn r)).installQueued (d.install r)).hs.loaderQ = [d.install r] := by
    simp [Mach.installQueued, Mach.modHs, hq]
  have hfree : ((s.m.started (d.refIn r)).installQueued (d.install r)).hs.loaderCur = none := hcur
  have hc := h.exec_planInstall hop
  rw [Mach.planInstall_eq, Mach.takeInstall_of_free hfree hqueue hb halign hlocal hroom] at hc
  obtain ⟨hnext, hstarts⟩ := h.next_starts hc ⟨by simp [Mach.read2, Mach.installQueued, Mach.modHs], by
    simp [Mach.read2, Mach.installQueued, Mach.modHs]⟩
  refine ⟨_, hnext, hstarts, ?_, ?_, ?_⟩
  · simp [Mach.read2, Mach.modHs]
  · simp [Mach.read2, Mach.installQueued]
  · rw [commit_st, Mach.read2_acc]
    simp [Mach.installQueued, Mach.modHs_st]

end
end Sys2Proof.Machine
end

section
/-!
PROOFS. PLAN_ARM (R73, R443, R445): the arm of a plan without peers, and how an arm is refused.
-/
namespace Sys2Proof.Machine

/-! ## The arm of a plan without peers -/

theorem Plan.peerTiers_eq_nil {p : Plan} (h : ∀ k ∈ p.tiers, k.kind ≠ 1) : p.peerTiers = [] := by
  rw [Plan.peerTiers, List.filter_eq_nil_iff]
  intro i hi
  have hlen : i < p.tiers.length := List.mem_range.1 hi
  simpa [Plan.tier, hlen] using h _ (List.getElem_mem hlen)

theorem Mach.keysLoaded_iff (s : Mach) (p : Plan) : s.keysLoaded p = true ↔ ∀ k ∈ p.tiers, aget none s.keys k.keySlot ≠ none := by
  simp [Mach.keysLoaded, Option.isSome_iff_ne_none]

/-- The machine of an arm whose programs are in the stations, and whose context waits for no claim. -/
def Mach.armReady (s : Mach) (c : Nat) (p : Plan) (d : DescRef) : Mach :=
  ((({ s with regs := { s.regs with locked := true } } : Mach).modCtx c (fun y => { y with
    state := .armed, arming := true })).loadProgs c (some p)).modCtx c (fun y => { y with claiming := some { desc := d } })

section
variable (s : Mach) (c : Nat) (p : Plan) (d : DescRef)

theorem Mach.armReady_ctx : (s.armReady c p d).ctx c =
    { s.ctx c with state := .armed, arming := true, claiming := some { desc := d } } := by
  simp [Mach.armReady, Mach.ctx, Mach.modCtx]

theorem Mach.armReady_ctx_ne {j : Nat} (hj : j ≠ c) : (s.armReady c p d).ctx j = s.ctx j := by
  rw [Mach.armReady, Mach.modCtx_ctx_ne _ _ hj, Mach.loadProgs_ctx, Mach.modCtx_ctx_ne _ _ hj]
  rfl

theorem Mach.armReady_hs : (s.armReady c p d).hs = s.hs := by simp [Mach.armReady]

theorem Mach.armReady_regs : (s.armReady c p d).regs = { s.regs with locked := true } := by simp [Mach.armReady]

theorem Mach.armReady_progMem {n : Nat} (hn : n < 6) :
    aget [] ((s.armReady c p d).st n).progMem c = (p.progs[n]?).getD [] :=
  Mach.loadProgs_progMem _ c (some p) hn
end

section
variable {s : Mach} {c : Nat} {p : Plan} {d : DescRef}

/-- From `s` to `m` the plan of context `c` has been armed: the context is ARMED at the step that STEP0 gives, the programs
are in the stations, the fields of the RWL registers are locked, and the other contexts and the host side are as they were. -/
structure Mach.Arms (s m : Mach) (c : Nat) (p : Plan) : Prop where
  hs : m.hs = s.hs
  state : (m.ctx c).state = .armed
  arming : (m.ctx c).arming = false
  step : (m.ctx c).step = if p.glob.step0 ≠ 0xFFFFFFFFFFFFFFFF then p.glob.step0
    else if (s.ctx c).armedOnce then (s.ctx c).step else 0
  armedOnce : (m.ctx c).armedOnce = true
  act : (m.ctx c).act = (s.ctx c).act
  locked : m.regs.locked = true
  progs : ∀ n, n < 6 → aget [] (m.st n).progMem c = (p.progs[n]?).getD []
  others : ∀ j, j ≠ c → m.ctx j = s.ctx j

theorem Mach.armReady_step0 (hp : (s.ctx c).act.plan = some p) : (s.armReady c p d).step0 c true =
    if p.glob.step0 ≠ 0xFFFFFFFFFFFFFFFF then p.glob.step0 else if (s.ctx c).armedOnce then (s.ctx c).step else 0 := by
  simp only [Mach.step0, Mach.plan, Mach.armReady_ctx, hp]
  cases (s.ctx c).armedOnce <;> simp

theorem Mach.armWork_arms (hp : (s.ctx c).act.plan = some p) : s.Arms ((s.armReady c p d).armWork c []) c p := by
  have hview := (s.armReady c p d).armWork_planView c []
  have hctx := congrArg (fun x => Ctx.armed x [] ((s.armReady c p d).step0 c true)) (s.armReady_ctx c p d)
  refine ⟨(Mach.hs_of_planView hview).trans (s.armReady_hs c p d), ?_, ?_, ?_, ?_, ?_, ?_, fun n hn => ?_, fun j hj => ?_⟩
  · rw [Mach.state_of_planView hview, Mach.modCtx_ctx, hctx]
    rfl
  · rw [Mach.arming_of_planView hview, Mach.modCtx_ctx, hctx]
    rfl
  · rw [Mach.step_of_planView hview, Mach.modCtx_ctx, ← Mach.armReady_step0 (d := d) hp]
    rfl
  · rw [Mach.armedOnce_of_planView hview, Mach.modCtx_ctx, hctx]
    rfl
  · rw [Mach.act_of_planView hview, Mach.modCtx_ctx, hctx]
    rfl
  · rw [Mach.regs_of_planView hview, Mach.modCtx_regs, Mach.armReady_regs]
  · rw [Mach.progMem_of_planView hview]
    exact s.armReady_progMem c p d hn
  · rw [Mach.ctx_of_planView_ne hview hj, Mach.modCtx_ctx_ne _ _ hj, Mach.armReady_ctx_ne _ _ _ _ hj]

/-- An arm without peers is done in its own command (log entry 41). -/
theorem Mach.planArm_of_ready {mem : Mems} {l : List W64} (hc : d.ring / 4 = c) (hp : (s.ctx c).act.plan = some p)
    (hidle : (s.ctx c).state = .idle) (hkeys : s.keysLoaded p = true) (hpeers : p.peerTiers = [])
    (hswap : (s.ctx c).swap = none) : ∃ m : Mach, s.planArm mem d l = m.completeCtx d .ok 0 ∧ s.Arms m c p := by
  subst hc
  have hready := s.armReady_ctx (d.ring / 4) p d
  have hbegin : s.planArm mem d l = ((s.armReady (d.ring / 4) p d).claimNext (d.ring / 4) false).armDone mem (d.ring / 4) := by
    simp [Mach.planArm, hp, hidle, hkeys, hpeers, Mach.beginClaims, Mach.setClaims, Mach.armReady]
  have hnext : (s.armReady (d.ring / 4) p d).claimNext (d.ring / 4) false = s.armReady (d.ring / 4) p d := by
    simp [Mach.claimNext, hready, Ctx.claimsFor, Ctx.claimPlan, hp]
  rw [hbegin, hnext, Mach.armDone_of_noSwap (k := { desc := d }) (by rw [hready]) (by rw [hready, hswap])]
  exact ⟨_, rfl, Mach.armWork_arms hp⟩
end

section
variable {s : State} {r : Nat} {d : Desc} (h : DescReady s r d)
include h

/-! ## PLAN_ARM (R73) -/

theorem DescReady.exec_planArm (hop : dOp d.line = opPlanArm) :
    exec (.planArm r) s =
      .next (commit s (((s.m.started (d.refIn r)).planArm s.mem (d.refIn r) d.line).settle r 16)) :=
  h.act_awake rfl hop (fun mem m d l => m.planArm mem d l)

theorem DescReady.arm_refused (hop : dOp d.line = opPlanArm) {st : Status}
    (hst : st = if (s.m.ctx (r / 4)).act.plan = none ∧ (s.m.ctx (r / 4)).state = .idle then .swapNoplan else .ldrBusy)
    (hno : (s.m.ctx (r / 4)).act.plan = none ∨ (s.m.ctx (r / 4)).state ≠ .idle) :
    ∃ t, exec (.planArm r) s = .next t ∧ Ends s t (d.refIn r) st 0 ∧ PlansKept s t := by
  refine h.next_refused ?_
  rw [h.exec_planArm hop, hst]
  cases hp : (s.m.ctx (r / 4)).act.plan with
  | none => by_cases hidle : (s.m.ctx (r / 4)).state = .idle <;> simp [Mach.planArm, hp, hidle]
  | some p =>
    have hidle : (s.m.ctx (r / 4)).state ≠ .idle := by simpa [hp] using hno
    simp [Mach.planArm, hp, hidle]

theorem DescReady.arm_keyless (hop : dOp d.line = opPlanArm) {p : Plan} (hp : (s.m.ctx (r / 4)).act.plan = some p)
    (hidle : (s.m.ctx (r / 4)).state = .idle) (hk : ∃ k ∈ p.tiers, aget none s.m.keys k.keySlot = none) :
    ∃ t, exec (.planArm r) s = .next t ∧ Ends s t (d.refIn r) .ldrKey 0 ∧ PlansKept s t := by
  have hkeys : (s.m.started (d.refIn r)).keysLoaded p = false := by
    rw [← Bool.not_eq_true, Mach.keysLoaded_iff]
    simpa using hk
  refine h.next_refused ?_
  rw [h.exec_planArm hop]
  simp [Mach.planArm, hp, hidle, hkeys]

theorem DescReady.arm_done (hop : dOp d.line = opPlanArm) {p : Plan} (hp : (s.m.ctx (r / 4)).act.plan = some p)
    (hidle : (s.m.ctx (r / 4)).state = .idle) (hk : ∀ k ∈ p.tiers, aget none s.m.keys k.keySlot ≠ none)
    (hpeers : ∀ k ∈ p.tiers, k.kind ≠ 1) (hswap : (s.m.ctx (r / 4)).swap = none) :
    ∃ t, exec (.planArm r) s = .next t ∧ Ends s t (d.refIn r) .ok 0 ∧ (t.m.ctx (r / 4)).state = .armed ∧
      (t.m.ctx (r / 4)).arming = false ∧
      (t.m.ctx (r / 4)).step = (if p.glob.step0 ≠ 0xFFFFFFFFFFFFFFFF then p.glob.step0
        else if (s.m.ctx (r / 4)).armedOnce then (s.m.ctx (r / 4)).step else 0) ∧
      (t.m.ctx (r / 4)).armedOnce = true ∧ (t.m.ctx (r / 4)).act = (s.m.ctx (r / 4)).act ∧ t.m.regs.locked = true ∧
      (∀ n, n < 6 → aget [] (t.m.st n).progMem (r / 4) = (p.progs[n]?).getD []) ∧
      (∀ k, k ≠ r / 4 → t.m.ctx k = s.m.ctx k) := by
  obtain ⟨m, hm, harms⟩ := Mach.planArm_of_ready (s := s.m.started (d.refIn r)) (d := d.refIn r) (mem := s.mem)
    (l := d.line) rfl hp hidle ((Mach.keysLoaded_iff ..).2 hk) (Plan.peerTiers_eq_nil hpeers) hswap
  have hc := h.exec_planArm hop
  rw [hm] at hc
  obtain ⟨hnext, hends⟩ := h.next_ends hc (.of_hs harms.hs)
  exact ⟨_, hnext, hends, harms.state, harms.arming, harms.step, harms.armedOnce, harms.act, harms.locked, harms.progs,
    harms.others⟩

end
end Sys2Proof.Machine
end

section
/-!
PROOFS. PLAN_WITHDRAW and CFG_SWAP (R74, R90–R96), and the plan descriptors together.
-/
namespace Sys2Proof.Machine

/-! ## The withdrawal of a plan -/

/-- From `s` to `m` the plan of context `c` has gone: the context is IDLE without claims, its programs are given back, and the
other contexts and the host side are as they were. -/
structure Mach.Withdraws (s m : Mach) (c : Nat) : Prop where
  hs : m.hs = s.hs
  state : (m.ctx c).state = .idle
  act : (m.ctx c).act = { (s.ctx c).act with plan := none }
  claims : (m.ctx c).claims = []
  progs : ∀ n, n < 6 → aget [] (m.st n).progMem c = []
  others : ∀ j, j ≠ c → m.ctx j = s.ctx j

theorem Mach.withdrawNow_withdraws {s : Mach} {c : Nat} (hcap : (s.ctx c).capture = none) (hcur : s.hs.loaderCur = none) :
    s.Withdraws (s.withdrawNow c) c := by
  have hview := Mach.withdrawNow_planView hcap hcur
  obtain ⟨hctxs, hhs⟩ := s.unclaimed_keeps c
  have hctx (j : Nat) : ((s.unclaimed c).loadProgs c none).ctx j = s.ctx j := by
    rw [Mach.loadProgs_ctx, Mach.ctx_of_ctxs hctxs]
  refine ⟨?_, ?_, ?_, ?_, fun n hn => ?_, fun j hj => ?_⟩
  · rw [Mach.hs_of_planView hview, Mach.modCtx_hs, Mach.loadProgs_hs, hhs]
  · rw [Mach.state_of_planView hview, Mach.modCtx_ctx]
    rfl
  · rw [Mach.act_of_planView hview, Mach.modCtx_ctx, hctx]
    rfl
  · rw [Mach.claims_of_planView hview, Mach.modCtx_ctx]
    rfl
  · rw [Mach.progMem_of_planView hview, Mach.modCtx_st, Mach.loadProgs_progMem _ c none hn]
    rfl
  · rw [Mach.ctx_of_planView_ne hview hj, Mach.modCtx_ctx_ne _ _ hj, hctx]

/-- What gives up no arm under way gives up the claims that are asked for, and no more. -/
theorem Mach.endArm_of_notArming {s : Mach} {c : Nat} (h : (s.ctx c).arming = false) :
    ∃ x, s.endArm c = (s.modCtx c (fun y => { y with claiming := none, arming := false })).modLodge (fun _ => x) := by
  obtain ⟨x, hx⟩ := s.sendUnclaims_lodge c (((s.ctx c).claiming.map (fun k => k.acked)).getD [])
  have hdrop : s.dropClaims c false = ((({ s with lodge := x } : Mach).claimsOld c false).modCtx c fun y => { y with claiming := none }) := by
    rw [← hx]
    rfl
  simp only [Mach.endArm, h, hdrop, Mach.modCtx_modCtx]
  exact ⟨_, rfl⟩

/-- An ARMED context that is not arming, or an IDLE one with a plan, is withdrawn at once. -/
theorem Mach.planWithdraw_now {s : Mach} {c : Nat} {d : DescRef} {l : List W64} (hc : d.ring / 4 = c)
    (hswap : (s.ctx c).swap = none) (hwd : (s.ctx c).withdraw = none)
    (hst : (s.ctx c).state = .armed ∨ ((s.ctx c).state = .idle ∧ (s.ctx c).act.plan ≠ none)) (harming : (s.ctx c).arming = false)
    (hcap : (s.ctx c).capture = none) (hcur : s.hs.loaderCur = none) :
    ∃ m : Mach, s.planWithdraw d l = m.completeCtx d .ok 0 ∧ s.Withdraws m c := by
  subst hc
  rcases hst with harmed | ⟨hidle, hplan⟩
  · obtain ⟨x, hx⟩ := Mach.endArm_of_notArming harming
    have hctx : (s.endArm (d.ring / 4)).ctx (d.ring / 4) = { s.ctx (d.ring / 4) with claiming := none, arming := false } := by
      rw [hx, Mach.modLodge_ctx, Mach.modCtx_ctx]
    have hhs : (s.endArm (d.ring / 4)).hs = s.hs := by rw [hx, Mach.modLodge_hs, Mach.modCtx_hs]
    have hw : (s.endArm (d.ring / 4)).Withdraws ((s.endArm (d.ring / 4)).withdrawNow (d.ring / 4)) (d.ring / 4) :=
      Mach.withdrawNow_withdraws (by rw [hctx, hcap]) (by rw [hhs, hcur])
    refine ⟨(s.endArm (d.ring / 4)).withdrawNow (d.ring / 4), by simp [Mach.planWithdraw, hswap, hwd, harmed],
      hw.hs.trans hhs, hw.state, hw.act.trans (by rw [hctx]), hw.claims, hw.progs, fun j hj => (hw.others j hj).trans ?_⟩
    rw [hx, Mach.modLodge_ctx, Mach.modCtx_ctx_ne _ _ hj]
  · exact ⟨s.withdrawNow (d.ring / 4), by simp [Mach.planWithdraw, hswap, hwd, hidle, Option.isSome_iff_ne_none.2 hplan],
      Mach.withdrawNow_withdraws hcap hcur⟩

/-! ## The swap of one context -/

/-- The machine in which a CFG_SWAP of one context has begun. -/
def Mach.swapAsked (s : Mach) (d : DescRef) (k : Nat) : Mach :=
  s.modHs (fun h => { h with swapDescs := h.swapDescs ++ [{ desc := d, open_ := [k] }] })

/-- The machine in which the swap of that context is pending. -/
def Mach.swapPending (s : Mach) (d : DescRef) (k : Nat) (w : PendSwap) : Mach :=
  (s.swapAsked d k).modCtx k (fun x => { x with swap := some w })

theorem Mach.swapAsked_ctx (s : Mach) (d : DescRef) (k c : Nat) : (s.swapAsked d k).ctx c = s.ctx c := rfl

/-- A swap or a withdrawal of the context waits already: SWAP_BUSY, and what waits still waits. -/
theorem Mach.requestSwap_busy {s : Mach} {mem : Mems} {d : DescRef} {k : Nat} {im pl : Bool}
    (hd : ∀ y ∈ s.hs.swapDescs, y.desc ≠ d) (hbusy : (s.ctx k).swap ≠ none ∨ (s.ctx k).withdraw ≠ none) :
    ∃ m : Mach, (s.swapAsked d k).requestSwap mem d im pl k = m.completeCtx d .swapBusy (k * 2 ^ 16) ∧
      m.hs.rings = s.hs.rings ∧ m.hs.events = s.hs.events ∧ (m.ctx k).swap = (s.ctx k).swap ∧
      (m.ctx k).act = (s.ctx k).act ∧ (m.ctx k).shd = (s.ctx k).shd := by
  obtain ⟨m, hm, hrings, hevents, hctxs⟩ := Mach.swapEnds_of_only (s := s.swapAsked d k) (c := k) .swapBusy 0 rfl hd
  rw [if_neg (by decide), Nat.add_zero] at hm
  have hb : ((s.ctx k).swap.isSome || (s.ctx k).withdraw.isSome) = true := by
    simpa [Option.isSome_iff_ne_none] using hbusy
  have hctx : m.ctx k = { s.ctx k with swap := none, swapLast := .swapBusy, swapDone := true } := by
    rw [Mach.ctx_of_ctxs hctxs, Mach.modCtx_ctx, Mach.swapAsked_ctx]
  refine ⟨m.modCtx k (fun x => { x with swap := (s.ctx k).swap }), ?_, hrings, hevents, ?_, ?_, ?_⟩
  · simp only [Mach.requestSwap, Mach.swapAsked_ctx, hb, if_true, hm, Mach.completeCtx, Mach.complete_modCtx]
  all_goals rw [Mach.modCtx_ctx, hctx]

/-- The exchange of a pending swap without plans exchanges the sets, keeps each plan in its slot and ends the descriptor. -/
theorem Mach.exchange_pending {s : Mach} {mem : Mems} {d : DescRef} {k : Nat} {w : PendSwap}
    (hd : ∀ y ∈ s.hs.swapDescs, y.desc ≠ d) (hw : w.desc = d) (hpl : w.plan = false) :
    ∃ m : Mach, (s.swapPending d k w).exchange mem k w = m.completeCtx d .ok 0 ∧
      m.hs.rings = s.hs.rings ∧ m.hs.events = s.hs.events ∧
      (m.ctx k).act = { (s.ctx k).shd with plan := (s.ctx k).act.plan.map (fun p => { p with widths := s.widthPin }) } ∧
      (m.ctx k).shd = { (s.ctx k).act with plan := (s.ctx k).shd.plan } ∧ (m.ctx k).swap = none ∧
      (∀ j, j ≠ k → m.ctx j = s.ctx j) := by
  have hview := (s.swapPending d k w).exchangeWork_planView k
  have hpending : (s.swapPending d k w).ctx k = { s.ctx k with swap := some w } := by
    rw [Mach.swapPending, Mach.modCtx_ctx, Mach.swapAsked_ctx]
  have hhs : ((s.swapPending d k w).exchangeWork k).hs = (s.swapAsked d k).hs := by
    rw [Mach.hs_of_planView hview, Mach.modCtx_hs, Mach.swapPending, Mach.modCtx_hs]
  obtain ⟨m, hm, hrings, hevents, hctxs⟩ := Mach.swapEnds_of_only (s := (s.swapPending d k w).exchangeWork k) (c := k) (d := d)
    (l := s.hs.swapDescs) .ok 0 (congrArg HostSide.swapDescs hhs) hd
  have hctx : m.ctx k = { ((s.swapPending d k w).exchangeWork k).ctx k with swap := none, swapLast := .ok, swapDone := true } := by
    rw [Mach.ctx_of_ctxs hctxs, Mach.modCtx_ctx]
  refine ⟨m, ?_, hrings.trans (congrArg HostSide.rings hhs :), hevents.trans (congrArg HostSide.events hhs :), ?_, ?_, ?_,
    fun j hj => ?_⟩
  · rw [Mach.exchange_of_configs hpl, hw, hm, if_pos rfl]
  · rw [hctx, Mach.act_of_planView hview, Mach.modCtx_ctx, hpending]
    rfl
  · rw [hctx, Mach.shd_of_planView hview, Mach.modCtx_ctx, hpending]
    rfl
  · rw [hctx]
  · rw [Mach.ctx_of_ctxs hctxs, Mach.modCtx_ctx_ne _ _ hj, Mach.ctx_of_planView_ne hview hj, Mach.modCtx_ctx_ne _ _ hj,
      Mach.swapPending, Mach.modCtx_ctx_ne _ _ hj, Mach.swapAsked_ctx]

/-- The sets of an IDLE context are exchanged at once. -/
theorem Mach.requestSwap_idle {s : Mach} {mem : Mems} {d : DescRef} {k : Nat} {im : Bool}
    (hd : ∀ y ∈ s.hs.swapDescs, y.desc ≠ d) (hswap : (s.ctx k).swap = none) (hwd : (s.ctx k).withdraw = none)
    (hidle : (s.ctx k).state = .idle) :
    ∃ m : Mach, (s.swapAsked d k).requestSwap mem d im false k = m.completeCtx d .ok 0 ∧
      m.hs.rings = s.hs.rings ∧ m.hs.events = s.hs.events ∧
      (m.ctx k).act = { (s.ctx k).shd with plan := (s.ctx k).act.plan.map (fun p => { p with widths := s.widthPin }) } ∧
      (m.ctx k).shd = { (s.ctx k).act with plan := (s.ctx k).shd.plan } ∧ (m.ctx k).swap = none ∧
      (∀ j, j ≠ k → m.ctx j = s.ctx j) := by
  have hnow : (s.swapAsked d k).requestSwap mem d im false k =
      (s.swapPending d k { desc := d, immediate := im, plan := false }).exchange mem k
        { desc := d, immediate := im, plan := false } := by
    simp [Mach.requestSwap, Mach.swapPending, Mach.swapAsked_ctx, hswap, hwd, Mach.trySwap, hidle]
  obtain ⟨m, hm, hrings, hevents, hact, hshd, hnone, hothers⟩ := Mach.exchange_pending (mem := mem)
    (w := { desc := d, immediate := im, plan := false }) hd rfl rfl
  exact ⟨m, hnow.trans hm, hrings, hevents, hact, hshd, hnone, hothers⟩

/-- The swap of a RUNNING context waits for its boundary. -/
theorem Mach.requestSwap_running {s : Mach} {mem : Mems} {d : DescRef} {k : Nat}
    (hswap : (s.ctx k).swap = none) (hwd : (s.ctx k).withdraw = none) (hrun : (s.ctx k).state = .running) :
    (s.swapAsked d k).requestSwap mem d false false k =
      s.swapPending d k { desc := d, immediate := false, plan := false } := by
  simp [Mach.requestSwap, Mach.swapPending, Mach.swapAsked_ctx, hswap, hwd, Mach.trySwap, hrun]

section
variable {s : State} {r : Nat} {d : Desc} (h : DescReady s r d)
include h

/-! ## PLAN_WITHDRAW (R74) -/

theorem DescReady.exec_planWithdraw (hop : dOp d.line = opPlanWithdraw) :
    exec (.planWithdraw r) s =
      .next (commit s (((s.m.started (d.refIn r)).planWithdraw (d.refIn r) d.line).settle r 16)) :=
  h.act_awake rfl hop (fun _ => Mach.planWithdraw)

theorem DescReady.withdraw_busy (hop : dOp d.line = opPlanWithdraw)
    (hbusy : (s.m.ctx (r / 4)).swap ≠ none ∨ (s.m.ctx (r / 4)).withdraw ≠ none) :
    ∃ t, exec (.planWithdraw r) s = .next t ∧ Ends s t (d.refIn r) .ldrBusy 0 ∧ PlansKept s t := by
  have hb : ((s.m.ctx (r / 4)).swap.isSome || (s.m.ctx (r / 4)).withdraw.isSome) = true := by
    simpa [Option.isSome_iff_ne_none] using hbusy
  refine h.next_refused ?_
  rw [h.exec_planWithdraw hop]
  simp only [Mach.planWithdraw, Mach.started_ctx, hb, if_true]

theorem DescReady.withdraw_nothing (hop : dOp d.line = opPlanWithdraw) (hswap : (s.m.ctx (r / 4)).swap = none)
    (hwd : (s.m.ctx (r / 4)).withdraw = none) (hidle : (s.m.ctx (r / 4)).state = .idle)
    (hplan : (s.m.ctx (r / 4)).act.plan = none) :
    ∃ t, exec (.planWithdraw r) s = .next t ∧ Ends s t (d.refIn r) .ok 0 ∧ PlansKept s t := by
  refine h.next_ok ?_
  rw [h.exec_planWithdraw hop]
  simp [Mach.planWithdraw, hswap, hwd, hidle, hplan]

theorem DescReady.withdraw_now (hop : dOp d.line = opPlanWithdraw) (hswap : (s.m.ctx (r / 4)).swap = none)
    (hwd : (s.m.ctx (r / 4)).withdraw = none)
    (hst : (s.m.ctx (r / 4)).state = .armed ∨ ((s.m.ctx (r / 4)).state = .idle ∧ (s.m.ctx (r / 4)).act.plan ≠ none))
    (harming : (s.m.ctx (r / 4)).arming = false) (hcap : (s.m.ctx (r / 4)).capture = none) (hcur : s.m.hs.loaderCur = none) :
    ∃ t, exec (.planWithdraw r) s = .next t ∧ Ends s t (d.refIn r) .ok 0 ∧ (t.m.ctx (r / 4)).state = .idle ∧
      (t.m.ctx (r / 4)).act = { (s.m.ctx (r / 4)).act with plan := none } ∧ (t.m.ctx (r / 4)).claims = [] ∧
      (∀ n, n < 6 → aget [] (t.m.st n).progMem (r / 4) = []) ∧ (∀ k, k ≠ r / 4 → t.m.ctx k = s.m.ctx k) := by
  obtain ⟨m, hm, hw⟩ := Mach.planWithdraw_now (s := s.m.started (d.refIn r)) (d := d.refIn r) (l := d.line) rfl hswap hwd hst
    harming hcap hcur
  have hc := h.exec_planWithdraw hop
  rw [hm] at hc
  obtain ⟨hnext, hends⟩ := h.next_ends hc (.of_hs hw.hs)
  exact ⟨_, hnext, hends, hw.state, hw.act, hw.claims, hw.progs, hw.others⟩

theorem DescReady.withdraw_later (hop : dOp d.line = opPlanWithdraw) (hswap : (s.m.ctx (r / 4)).swap = none)
    (hwd : (s.m.ctx (r / 4)).withdraw = none) (harmed : (s.m.ctx (r / 4)).state ≠ .armed)
    (hidle : (s.m.ctx (r / 4)).state ≠ .idle) :
    ∃ t, exec (.planWithdraw r) s = .next t ∧ Starts s t (d.refIn r) ∧
      t.m.ctx (r / 4) = { s.m.ctx (r / 4) with withdraw := some (d.refIn r) } ∧ t.m.sts = s.m.sts := by
  have hwork : (s.m.started (d.refIn r)).planWithdraw (d.refIn r) d.line =
      (s.m.started (d.refIn r)).modCtx (r / 4) (fun x => { x with withdraw := some (d.refIn r) }) := by
    simp only [Mach.planWithdraw, Mach.started_ctx, hswap, hwd]
    split <;> simp_all
  have hc := h.exec_planWithdraw hop
  rw [hwork] at hc
  obtain ⟨hnext, hstarts⟩ := h.next_starts hc (.of_hs rfl)
  exact ⟨_, hnext, hstarts, by rw [commit_ctx, Mach.modCtx_ctx]; rfl, rfl⟩

/-! ## CFG_SWAP (R90–R97) -/

theorem DescReady.exec_cfgSwap (hop : dOp d.line = opCfgSwap) :
    exec (.cfgSwap r) s = .next (commit s (((s.m.started (d.refIn r)).cfgSwap s.mem (d.refIn r) d.line).settle r 16)) :=
  h.act_awake rfl hop (fun mem m d l => m.cfgSwap mem d l)

theorem DescReady.swap_none (hop : dOp d.line = opCfgSwap) (hb : dBytes d.line 16 1 % 16 = 0) :
    ∃ t, exec (.cfgSwap r) s = .next t ∧ Ends s t (d.refIn r) .ldrRange 0 ∧ PlansKept s t := by
  refine h.next_refused ?_
  rw [h.exec_cfgSwap hop]
  simp [Mach.cfgSwap, bits_of_zero hb]

theorem DescReady.exec_cfgSwap_of_one (hop : dOp d.line = opCfgSwap) {k : Nat} (hk : k < 4) (hb : dBytes d.line 16 1 % 16 = 2 ^ k) :
    exec (.cfgSwap r) s = .next (commit s ((((s.m.started (d.refIn r)).swapAsked (d.refIn r) k).requestSwap s.mem (d.refIn r)
      (bit (dBytes d.line 16 1) 4) (bit (dBytes d.line 16 1) 5) k).settle r 16)) := by
  rw [h.exec_cfgSwap hop, Mach.cfgSwap_of_one (bits_of_pow hk hb)]
  rfl

section
variable (hop : dOp d.line = opCfgSwap) {k : Nat} (hk : k < 4) (hb : dBytes d.line 16 1 % 16 = 2 ^ k)
include hop hk hb

theorem DescReady.swap_busy (hnew : ∀ y ∈ s.m.hs.swapDescs, y.desc ≠ d.refIn r)
    (hbusy : (s.m.ctx k).swap ≠ none ∨ (s.m.ctx k).withdraw ≠ none) :
    ∃ t, exec (.cfgSwap r) s = .next t ∧ Ends s t (d.refIn r) .swapBusy (k * 2 ^ 16) ∧
      (t.m.ctx k).swap = (s.m.ctx k).swap ∧ (t.m.ctx k).act = (s.m.ctx k).act ∧ (t.m.ctx k).shd = (s.m.ctx k).shd := by
  obtain ⟨m, hm, hrings, hevents, hswap, hact, hshd⟩ := Mach.requestSwap_busy (s := s.m.started (d.refIn r)) (mem := s.mem)
    (d := d.refIn r) (k := k) (im := bit (dBytes d.line 16 1) 4) (pl := bit (dBytes d.line 16 1) 5) hnew hbusy
  have hc := h.exec_cfgSwap_of_one hop hk hb
  rw [hm] at hc
  obtain ⟨hnext, hends⟩ := h.next_ends hc ⟨hrings, hevents⟩
  exact ⟨_, hnext, hends, hswap, hact, hshd⟩

theorem DescReady.swap_idle (hnew : ∀ y ∈ s.m.hs.swapDescs, y.desc ≠ d.refIn r)
    (hswap : (s.m.ctx k).swap = none) (hwd : (s.m.ctx k).withdraw = none)
    (hpl : bit (dBytes d.line 16 1) 5 = false) (hidle : (s.m.ctx k).state = .idle) :
    ∃ t, exec (.cfgSwap r) s = .next t ∧ Ends s t (d.refIn r) .ok 0 ∧
      (t.m.ctx k).act = { (s.m.ctx k).shd with
        plan := (s.m.ctx k).act.plan.map (fun p => { p with widths := s.m.widthPin }) } ∧
      (t.m.ctx k).shd = { (s.m.ctx k).act with plan := (s.m.ctx k).shd.plan } ∧ (t.m.ctx k).swap = none ∧
      (∀ j, j ≠ k → t.m.ctx j = s.m.ctx j) := by
  obtain ⟨m, hm, hrings, hevents, hact, hshd, hnone, hothers⟩ := Mach.requestSwap_idle (s := s.m.started (d.refIn r))
    (mem := s.mem) (d := d.refIn r) (k := k) (im := bit (dBytes d.line 16 1) 4) hnew hswap hwd hidle
  have hc := h.exec_cfgSwap_of_one hop hk hb
  rw [hpl, hm] at hc
  obtain ⟨hnext, hends⟩ := h.next_ends hc ⟨hrings, hevents⟩
  exact ⟨_, hnext, hends, hact, hshd, hnone, hothers⟩

theorem DescReady.swap_running (hswap : (s.m.ctx k).swap = none) (hwd : (s.m.ctx k).withdraw = none)
    (hpl : bit (dBytes d.line 16 1) 5 = false) (hrun : (s.m.ctx k).state = .running) (him : bit (dBytes d.line 16 1) 4 = false) :
    ∃ t, exec (.cfgSwap r) s = .next t ∧ Starts s t (d.refIn r) ∧ t.m.ctx k = { s.m.ctx k with
      swap := some { desc := d.refIn r, immediate := false, plan := false, claiming := false } } ∧ t.m.sts = s.m.sts := by
  have hc := h.exec_cfgSwap_of_one hop hk hb
  rw [hpl, him, Mach.requestSwap_running (s := s.m.started (d.refIn r)) hswap hwd hrun] at hc
  obtain ⟨hnext, hstarts⟩ := h.next_starts hc ⟨rfl, rfl⟩
  exact ⟨_, hnext, hstarts, by rw [commit_ctx, Mach.swapPending, Mach.modCtx_ctx]; rfl, rfl⟩

end
end

/-- Settles O42, outcome by outcome: each descriptor's work changes one context in one stated way, or is refused. -/
theorem planDescriptors : Obligations.PlanDescriptors := by
  intro s r d h
  refine ⟨fun hop => ⟨h.install_waits hop, fun hcur hq => ⟨h.install_busy hop hcur hq, h.install_taken hop hcur hq⟩⟩,
    fun hop => ⟨fun st hst hno => h.arm_refused hop hst hno, fun p hp hidle => ⟨h.arm_keyless hop hp hidle, h.arm_done hop hp hidle⟩⟩,
    fun hop => ⟨h.withdraw_busy hop, fun hswap hwd => ⟨h.withdraw_nothing hop hswap hwd, h.withdraw_now hop hswap hwd,
      h.withdraw_later hop hswap hwd⟩⟩,
    fun hop => ⟨h.swap_none hop, fun k hk hb hnew => ⟨h.swap_busy hop hk hb hnew, fun hswap hwd hpl =>
      ⟨h.swap_idle hop hk hb hnew hswap hwd hpl, h.swap_running hop hk hb hswap hwd hpl⟩⟩⟩⟩

end Sys2Proof.Machine
end

section
/-!
PROOFS. A station's engines and tasks: what an update of the one or the other reads as (R101–R104).
-/
namespace Sys2Proof.Machine

section
variable (s : Mach) (n e : Nat) (f g : Engine → Engine)

theorem Mach.modSt_modSt (f g : Station → Station) : (s.modSt n f).modSt n g = s.modSt n (fun x => g (f x)) := by
  simp only [Mach.modSt, amod_amod]

theorem Mach.modEng_modEng : (s.modEng n e f).modEng n e g = s.modEng n e (fun x => g (f x)) := by
  simp only [Mach.modEng, Mach.modSt_modSt, amod_amod]

theorem Mach.modEng_eng_ne {k : Nat} (h : k ≠ e) : (s.modEng n e f).eng n k = s.eng n k := by
  simp only [Mach.eng, Mach.modEng, Mach.modSt_st, aget_amod_ne _ _ _ h]

theorem Mach.modEng_st_ne {k : Nat} (h : k ≠ n) : (s.modEng n e f).st k = s.st k := Mach.modSt_st_ne _ _ h

theorem Mach.modEng_st : (s.modEng n e f).st n = { s.st n with engines := amod {} (s.st n).engines e f } :=
  Mach.modSt_st _ _ _

@[simp] theorem Mach.modEng_task (id : Nat) : (s.modEng n e f).task n id = s.task n id := by
  simp only [Mach.task, Mach.modEng_st]

@[simp] theorem Mach.modEng_engProg (t : Task) : (s.modEng n e f).engProg n t = s.engProg n t := by
  simp only [Mach.engProg, Mach.modEng_st]

theorem Mach.modSt_task {f : Station → Station} (hf : (f (s.st n)).tasks = (s.st n).tasks) (k : Nat) :
    (s.modSt n f).task n k = s.task n k := by
  simp only [Mach.task, Mach.modSt_st, hf]

@[simp] theorem Mach.modTask_eng (id : Nat) (f : Task → Task) : (s.modTask n id f).eng n e = s.eng n e := by
  simp only [Mach.eng, Mach.modTask, Mach.modSt_st]

theorem Mach.modTask_st_ne (id : Nat) (f : Task → Task) {k : Nat} (h : k ≠ n) : (s.modTask n id f).st k = s.st k :=
  Mach.modSt_st_ne _ _ h

/-- Updates of a station, of an engine and of a task leave all but the stations. -/
theorem Mach.modSt_frame (f : Station → Station) (x : Assoc Station) : { s.modSt n f with sts := x } = { s with sts := x } :=
  rfl

theorem Mach.modEng_frame (x : Assoc Station) : { s.modEng n e f with sts := x } = { s with sts := x } :=
  Mach.modSt_frame _ _ _ _

theorem Mach.modTask_frame (id : Nat) (f : Task → Task) (x : Assoc Station) :
    { s.modTask n id f with sts := x } = { s with sts := x } := Mach.modSt_frame _ _ _ _

end

theorem Mach.task_id {s : Mach} {n id : Nat} {t : Task} (h : s.task n id = some t) : t.id = id := by
  simpa using List.find?_some h

/-- A task is found under its id after an update of a task, changed where it is the one updated. -/
theorem Mach.modTask_task (s : Mach) (n : Nat) {id : Nat} {f : Task → Task} (hf : ∀ t, t.id = id → (f t).id = id) (k : Nat) :
    (s.modTask n id f).task n k = (s.task n k).map (fun t => if t.id == id then f t else t) := by
  have hid : ∀ t : Task, (if t.id == id then f t else t).id = t.id := by
    intro t
    by_cases h : t.id = id <;> simp [h, hf]
  simp only [Mach.task, Mach.modTask, Mach.modSt_st, modWhere, List.find?_map, Function.comp_def, hid]

theorem Mach.modTask_task_same {s : Mach} {n id : Nat} {t : Task} {f : Task → Task} (h : s.task n id = some t)
    (hf : ∀ t, t.id = id → (f t).id = id) : (s.modTask n id f).task n id = some (f t) := by
  simp [Mach.modTask_task s n hf, h, Mach.task_id h]

theorem Mach.modTask_task_ne (s : Mach) (n : Nat) {id k : Nat} {f : Task → Task} (hf : ∀ t, t.id = id → (f t).id = id)
    (hk : k ≠ id) : (s.modTask n id f).task n k = s.task n k := by
  rw [Mach.modTask_task s n hf]
  cases h : s.task n k with
  | none => rfl
  | some t => simp [Mach.task_id h, hk]

theorem commit_eng (s : State) (m : Mach) (n e : Nat) : (commit s m).m.eng n e = m.eng n e := rfl
theorem commit_task (s : State) (m : Mach) (n id : Nat) : (commit s m).m.task n id = m.task n id := rfl

/-- A command that changes nothing but stations leaves all else of the state. -/
theorem commit_of_sts {s : State} {m : Mach} (hq : s.Quiet) (h : { m with sts := s.m.sts } = s.m) :
    { commit s m with m := { (commit s m).m with sts := s.m.sts } } = s := by
  have hout : m.out = [] := (congrArg Mach.out h).trans hq
  rw [commit_of_out_nil hout, h]

/-- A command that updates one engine changes that engine alone. -/
theorem engineBecomes_modEng {s : State} (hq : s.Quiet) {n e : Nat} {f : Engine → Engine} {x : Engine}
    (hx : f (s.m.eng n e) = x) : EngineBecomes s (commit s (s.m.modEng n e f)) n e x := by
  refine ⟨?_, fun k hk => ?_, ?_, fun k hk => ?_, commit_of_sts hq rfl⟩
  · rw [commit_eng, Mach.modEng_eng, hx]
  · rw [commit_eng, Mach.modEng_eng_ne _ _ _ _ hk]
  · rw [commit_st, Mach.modEng_st]
  · rw [commit_st, Mach.modEng_st_ne _ _ _ _ hk]

end Sys2Proof.Machine
end

section
/-!
PROOFS. Reading an instruction (R103, R395), and what each instruction makes of its engine (R106–R118).
-/
namespace Sys2Proof.Machine

/-- An engine that stands at an instruction runs a task of its station. -/
theorem Mach.engAt_spec {s : Mach} {n e : Nat} {g : Engine} {t : Task} {i : Ins} (h : s.engAt n e = some (g, t, i)) :
    s.eng n e = g ∧ g.task = some t.id ∧ s.task n t.id = some t := by
  unfold Mach.engAt at h
  dsimp only at h
  split at h
  · cases h
  · split at h
    · cases h
    · next u hu =>
      obtain ⟨id, hid, htask⟩ := Option.bind_eq_some_iff.mp hu
      obtain ⟨j, -, hj⟩ := Option.map_eq_some_iff.mp h
      cases hj
      exact ⟨rfl, by rw [hid, Mach.task_id htask], by rwa [Mach.task_id htask]⟩

theorem exec_of_act {c : Instr} {s : State} (f : Mems → Mach → Mach) (hc : exec c s = act c s f) (hwf : c.wf = true) :
    exec c s = .next (commit s (f s.mem s.m)) := by rw [hc, act_of_wf hwf]

theorem engine_wf {n e : Nat} (hn : n < 6) (he : e < 6) : (okSt n && okEng e) = true := by
  simp [okSt, okEng, Config.nStation, hn, he]

section
variable {s : State} {n e : Nat} {g : Engine} {t : Task} {i : Ins} {c : Instr} {k : Nat} {go : Mach → Mach}

theorem EngineReads.eng (h : EngineReads s n e g t i) : s.m.eng n e = g := (Mach.engAt_spec h.1).1
theorem EngineReads.task (h : EngineReads s n e g t i) : s.m.task n t.id = some t := (Mach.engAt_spec h.1).2.2

/-- The command of the instruction at which an engine stands carries it out. -/
theorem EngineReads.exec_eq (h : EngineReads s n e g t i) (hc : exec c s = act c s (fun _ m => m.readIns n e k go))
    (hk : i.form = k) (hwf : c.wf = true) : exec c s = .next (commit s (go s.m)) := by
  rw [hc, act_of_wf hwf, Mach.readIns, h.1]
  simp only [hk, ne_eq, not_true_eq_false, if_false, h.2]

/-- An engine whose instruction stands in a word with a double-bit error fails its task (R395). -/
theorem exec_of_double (h : s.m.engAt n e = some (g, t, i))
    (hw : aget .clean (s.m.st n).progEcc (progWord t.ctx t.prog g.pc) = .double)
    (hc : exec c s = act c s (fun _ m => m.readIns n e k go)) (hk : i.form = k) (hwf : c.wf = true) :
    exec c s = .next (commit s (s.m.failInn n t 0)) := by
  rw [hc, act_of_wf hwf, Mach.readIns, h]
  simp only [hk, ne_eq, not_true_eq_false, if_false, hw]

/-! ## The command of each instruction -/

section
variable (hn : n < 6) (he : e < 6)
include hn he

theorem EngineReads.exec_land {nf lo : Nat} (h : EngineReads s n e g t (.land nf lo)) :
    exec (.land n e) s = .next (commit s (s.m.insLand n e)) :=
  h.exec_eq (go := fun m => m.insLand n e) rfl rfl (engine_wf hn he)

theorem EngineReads.exec_seta {c o : Nat} (h : EngineReads s n e g t (.seta c o)) :
    exec (.seta n e) s = .next (commit s (s.m.insSeta n e)) :=
  h.exec_eq (go := fun m => m.insSeta n e) rfl rfl (engine_wf hn he)

theorem EngineReads.exec_loop {l : Nat} {dc d : Int} (h : EngineReads s n e g t (.loop l dc d)) :
    exec (.loop n e) s = .next (commit s (s.m.insLoop n e)) :=
  h.exec_eq (go := fun m => m.insLoop n e) rfl rfl (engine_wf hn he)

theorem EngineReads.exec_batch {l : Nat} {dc d : Int} (h : EngineReads s n e g t (.batch l dc d)) :
    exec (.batch n e) s = .next (commit s (s.m.insBatch n e)) :=
  h.exec_eq (go := fun m => m.insBatch n e) rfl rfl (engine_wf hn he)

theorem EngineReads.exec_endl (h : EngineReads s n e g t .endl) :
    exec (.endl n e) s = .next (commit s (s.m.insEndl n e)) :=
  h.exec_eq (go := fun m => m.insEndl n e) rfl rfl (engine_wf hn he)

theorem EngineReads.exec_skiplen {l : Nat} (h : EngineReads s n e g t (.skiplen l)) :
    exec (.skiplen n e) s = .next (commit s (s.m.insSkiplen n e)) :=
  h.exec_eq (go := fun m => m.insSkiplen n e) rfl rfl (engine_wf hn he)

theorem EngineReads.exec_emit (h : EngineReads s n e g t i) (hi : i.form = 7) :
    exec (.emit n e) s = .next (commit s (s.m.insEmit n e)) :=
  h.exec_eq (go := fun m => m.insEmit n e) rfl hi (engine_wf hn he)

theorem EngineReads.exec_waitSemaphore {l : Nat} (h : EngineReads s n e g t (.waitSem l)) :
    exec (.waitSemaphore n e) s = .next (commit s (s.m.insWaitSem n e)) :=
  h.exec_eq (go := fun m => m.insWaitSem n e) rfl rfl (engine_wf hn he)

theorem EngineReads.exec_waitDrain (h : EngineReads s n e g t .waitDrain) :
    exec (.waitDrain n e) s = .next (commit s (s.m.insWaitDrain n e)) :=
  h.exec_eq (go := fun m => m.insWaitDrain n e) rfl rfl (engine_wf hn he)

theorem EngineReads.exec_fin (h : EngineReads s n e g t .fin) :
    exec (.fin n e) s = .next (commit s ((s.m.insEnd n e).advanceDemote n t.id)) := by
  have hfin := h.exec_eq (c := .fin n e) rfl rfl (engine_wf hn he)
  simpa only [h.eng, (Mach.engAt_spec h.1).2.1] using hfin

end
end

/-! ## Blocks of a fetch-direction run -/

@[simp] theorem Mach.closeMap_out (s : Mach) (n e id : Nat) : (s.closeMap n e id).out = s.out := by
  unfold Mach.closeMap
  dsimp only
  split
  · rfl
  · split <;> rfl

@[simp] theorem Mach.mapBytes_out (s : Mach) (n e id c fuel len : Nat) : (s.mapBytes n e id c fuel len).out = s.out := by
  induction fuel generalizing s len with
  | zero => rfl
  | succ fuel ih =>
    unfold Mach.mapBytes
    dsimp only
    split
    · rfl
    · split
      · split
        · rw [ih, Mach.closeMap_out]
        · rw [ih]
          split <;> simp
      · rw [ih, Mach.modEng_out]

theorem Mach.closePoint_of_stash {s : Mach} {n e : Nat} {t : Task} (h : isStashRun t = true) :
    s.closePoint n e t = s.modEng n e (fun g => { g with reads := g.reads ++ [.close] }) := by simp [Mach.closePoint, h]

theorem Mach.closePoint_of_fetch {s : Mach} {n e : Nat} {t : Task} (h : isStashRun t = false) :
    s.closePoint n e t = s.closeMap n e t.id := by simp [Mach.closePoint, h]

@[simp] theorem Mach.openLevel_out (s : Mach) (n e : Nat) (t : Task) (b : Bool) (k : Nat) (dc d : Int) :
    (s.openLevel n e t b k dc d).out = s.out := rfl

/-- Opening a level keeps what an update of the engine has made before it. -/
theorem Mach.modEng_openLevel (s : Mach) (n e : Nat) (f : Engine → Engine) (t : Task) (b : Bool) (k : Nat) (dc d : Int) :
    (s.modEng n e f).openLevel n e t b k dc d = s.modEng n e (fun g =>
      if k = 0 then { f g with pc := afterEndl ((f g).pc + 1) 0 ((s.engProg n t).drop ((f g).pc + 1)) }
      else { f g with
        pc := (f g).pc + 1
        loops := { isBatch := b, bodyPc := (f g).pc + 1, count := k, iter := 0, dcore := dc, doff := d, core0 := (f g).core
                   off0 := (f g).off } :: (f g).loops }) := by
  rw [Mach.openLevel, Mach.modEng_engProg, Mach.modEng_modEng]

/-! ## The instructions -/

section
variable {s : Mach} {n e : Nat} {g : Engine} {t : Task}

theorem Mach.insLand_eq {nf lo : Nat} (h : s.engAt n e = some (g, t, .land nf lo)) : s.insLand n e =
    (s.modEng n e (fun g => { g with pc := g.pc + 1, landed := true })).modTask n t.id
      (fun t => { t with nframes := nf, landoff := lo }) := by simp only [Mach.insLand, h]

theorem Mach.insSeta_eq {c o : Nat} (h : s.engAt n e = some (g, t, .seta c o)) :
    s.insSeta n e = s.modEng n e (fun g => { g with pc := g.pc + 1, core := c, off := o }) := by simp only [Mach.insSeta, h]

theorem Mach.insLoop_eq {k : Nat} {dc d : Int} (h : s.engAt n e = some (g, t, .loop k dc d)) :
    s.insLoop n e = s.openLevel n e t false k dc d := by simp only [Mach.insLoop, h]

theorem Mach.insBatch_eq {k : Nat} {dc d : Int} (h : s.engAt n e = some (g, t, .batch k dc d)) :
    s.insBatch n e = (if k = 0 then s else s.closePoint n e t).openLevel n e t true k dc d := by simp only [Mach.insBatch, h]

section
variable {l : LoopLevel} {ls : List LoopLevel} (h : s.engAt n e = some (g, t, .endl)) (hl : g.loops = l :: ls)
include h hl

theorem Mach.insEndl_next (hit : l.iter + 1 < l.count) :
    s.insEndl n e = (if l.isBatch then s.closePoint n e t else s).modEng n e (fun g => { g with
      pc := l.bodyPc, core := g.core + l.dcore, off := g.off + l.doff, loops := { l with iter := l.iter + 1 } :: ls }) := by
  simp only [Mach.insEndl, h, hl, hit, if_true]

theorem Mach.insEndl_last (hit : l.count ≤ l.iter + 1) :
    s.insEndl n e = s.modEng n e (fun g => { g with pc := g.pc + 1, core := l.core0, off := l.off0, loops := ls }) := by
  simp only [Mach.insEndl, h, hl, Nat.not_lt.mpr hit, if_false]

end

theorem Mach.insWaitSem_of_fetch {i : Nat} (h : s.engAt n e = some (g, t, .waitSem i)) (ht : isStashRun t = false) :
    s.insWaitSem n e = s.modEng n e (fun g => { g with pc := g.pc + 1 }) := by simp [Mach.insWaitSem, h, ht]

theorem Mach.insWaitSem_takes {i : Nat} (h : s.engAt n e = some (g, t, .waitSem i)) (ht : isStashRun t = true)
    (hs : 0 < s.sem n i) :
    s.insWaitSem n e = (s.setSem n i (s.sem n i - 1)).modEng n e (fun g => { g with pc := g.pc + 1 }) := by
  simp [Mach.insWaitSem, h, ht, hs]

theorem Mach.insWaitSem_waits {i : Nat} (h : s.engAt n e = some (g, t, .waitSem i)) (ht : isStashRun t = true)
    (hs : s.sem n i = 0) :
    s.insWaitSem n e = (s.modSt n (fun x => { x with waitSeq := (s.st n).waitSeq + 1 })).modEng n e
      (fun g => { g with waiting := some i, waitOrder := (s.st n).waitSeq }) := by
  simp [Mach.insWaitSem, h, ht, hs]

theorem Mach.insWaitDrain_passes (h : s.engAt n e = some (g, t, .waitDrain))
    (hd : isStashRun t = false ∨ hasTile g.reads = false) :
    s.insWaitDrain n e = s.modEng n e (fun g => { g with pc := g.pc + 1 }) := by
  rcases hd with hd | hd <;> simp [Mach.insWaitDrain, h, hd]

theorem Mach.insWaitDrain_holds (h : s.engAt n e = some (g, t, .waitDrain)) (ht : isStashRun t = true)
    (hd : hasTile g.reads = true) : s.insWaitDrain n e = s.modEng n e (fun g => { g with draining := true }) := by
  simp [Mach.insWaitDrain, h, ht, hd]

end

/-! ## SETA, LOOP, BATCH and ENDL -/

/-- Settles O17: SETA updates its engine alone. -/
theorem setaLoads : Obligations.SetaLoads := by
  intro s n e g t c o hn he hq h
  refine ⟨_, h.exec_seta hn he, ?_⟩
  rw [Mach.insSeta_eq h.1]
  exact engineBecomes_modEng hq (by rw [h.eng])

/-- Settles O18, command by command: LOOP and BATCH are `openLevel`, after BATCH's close of the open block; ENDL goes on by
its count. -/
theorem loopsIterate : Obligations.LoopsIterate := by
  intro s n e g t k dc d hn he hq
  refine ⟨fun h => ?loop, fun h ht => ?batchStash, fun h ht => ?batchFetch, fun l ls h hl => ⟨fun hit hb => ?next,
    fun hit hb ht => ?nextFetch, fun hit => ?last⟩⟩
  case loop =>
    refine ⟨_, h.exec_loop hn he, ?_⟩
    rw [Mach.insLoop_eq h.1]
    exact engineBecomes_modEng hq (by rw [h.eng])
  case batchStash =>
    refine ⟨_, h.exec_batch hn he, ?_⟩
    rw [Mach.insBatch_eq h.1]
    by_cases hk : k = 0
    · rw [if_pos hk, if_pos hk]
      exact engineBecomes_modEng hq (by rw [h.eng, if_pos hk])
    · rw [if_neg hk, if_neg hk, Mach.closePoint_of_stash ht, Mach.modEng_openLevel]
      exact engineBecomes_modEng hq (by rw [h.eng, if_neg hk])
  case batchFetch =>
    rw [h.exec_batch hn he, Mach.insBatch_eq h.1, Mach.closePoint_of_fetch ht]
    refine next_commit_eq_to ?_
    by_cases hk : k = 0 <;> simpa [hk] using hq
  case next =>
    refine ⟨_, h.exec_endl hn he, ?_⟩
    rw [Mach.insEndl_next h.1 hl hit]
    cases hbatch : l.isBatch with
    | false => exact engineBecomes_modEng hq (by rw [h.eng]; rfl)
    | true =>
      have ht : isStashRun t = true := hb.resolve_left (by simp [hbatch])
      rw [if_pos rfl, if_pos rfl, Mach.closePoint_of_stash ht, Mach.modEng_modEng]
      exact engineBecomes_modEng hq (by rw [h.eng])
  case nextFetch =>
    rw [h.exec_endl hn he, Mach.insEndl_next h.1 hl hit, if_pos hb,
      Mach.closePoint_of_fetch ht]
    exact next_commit_eq_to (by simpa using hq)
  case last =>
    refine ⟨_, h.exec_endl hn he, ?_⟩
    rw [Mach.insEndl_last h.1 hl hit]
    exact engineBecomes_modEng hq (by rw [h.eng])

/-! ## SKIPLEN -/

/-- Settles O19: SKIPLEN updates its engine alone, by the trimmed count. -/
theorem skiplenTrims : Obligations.SkiplenTrims := by
  intro s n e g t k l ls hn he hq h hl
  obtain rfl := h.eng
  refine ⟨_, h.exec_skiplen hn he, ?_⟩
  simp only [Mach.insSkiplen, h.1, hl]
  exact engineBecomes_modEng hq rfl

/-! ## EMIT -/

/-- EMIT of a stash run: the tile's read joins the stream, and its core those that the task reads. -/
def Mach.emitRead (s : Mach) (n e tid core : Nat) (item : StreamItem) : Mach :=
  ((s.modEng n e (fun g => { g with reads := g.reads ++ [item] })).modTask n tid (fun t =>
    { t with readCores := if t.readCores.contains core then t.readCores else t.readCores ++ [core] })).modEng n e
      (fun g => { g with pc := g.pc + 1 })

section
variable {s : Mach} {n e tid core : Nat} {item : StreamItem}

theorem Mach.emitRead_eng : (s.emitRead n e tid core item).eng n e =
    { s.eng n e with pc := (s.eng n e).pc + 1, reads := (s.eng n e).reads ++ [item] } := by
  rw [Mach.emitRead, Mach.modEng_eng, Mach.modTask_eng, Mach.modEng_eng]

theorem Mach.emitRead_eng_ne {k : Nat} (hk : k ≠ e) : (s.emitRead n e tid core item).eng n k = s.eng n k := by
  rw [Mach.emitRead, Mach.modEng_eng_ne _ _ _ _ hk, Mach.modTask_eng, Mach.modEng_eng_ne _ _ _ _ hk]

theorem Mach.emitRead_task {t : Task} (h : s.task n tid = some t) : (s.emitRead n e tid core item).task n tid =
    some { t with readCores := if t.readCores.contains core then t.readCores else t.readCores ++ [core] } := by
  rw [Mach.emitRead, Mach.modEng_task, Mach.modTask_task_same ((Mach.modEng_task _ _ _ _ _).trans h) (by intro _ hu; exact hu)]

theorem Mach.emitRead_task_ne {k : Nat} (hk : k ≠ tid) : (s.emitRead n e tid core item).task n k = s.task n k := by
  rw [Mach.emitRead, Mach.modEng_task, Mach.modTask_task_ne _ _ (by intro _ hu; exact hu) hk, Mach.modEng_task]

theorem Mach.emitRead_st_ne {k : Nat} (hk : k ≠ n) : (s.emitRead n e tid core item).st k = s.st k := by
  rw [Mach.emitRead, Mach.modEng_st_ne _ _ _ _ hk, Mach.modTask_st_ne _ _ _ _ hk, Mach.modEng_st_ne _ _ _ _ hk]

theorem Mach.emitRead_sts : { s.emitRead n e tid core item with sts := s.sts } = s :=
  (Mach.modEng_frame _ _ _ _ _).trans ((Mach.modTask_frame _ _ _ _ _).trans (Mach.modEng_frame _ _ _ _ _))

end

section
variable {s : Mach} {n e : Nat} {g : Engine} {t : Task} {sg : StageEntry} {p : Plan}
variable (hsg : s.stageOf t.ctx t.stage = some sg) (hp : s.plan t.ctx = some p)
include hsg hp

theorem Mach.insEmit_linear {len : Nat} (h : s.engAt n e = some (g, t, .linear len)) :
    s.insEmit n e = if isStashRun t then
        s.emitRead n e t.id (g.core + sg.firstCore).toNat
          (.tile (g.core + sg.firstCore).toNat (t.sramBase + (16 * g.off).toNat) 1 len 0 false)
      else (s.mapBytes n e t.id (g.core + sg.firstCore).toNat (2 * (16 * len / 4096) + 4) (16 * len)).modEng n e
        (fun g => { g with pc := g.pc + 1 }) := by
  simp only [Mach.insEmit, h, hsg, hp, tileBytes, if_true, Mach.emitRead]

theorem Mach.insEmit_rows {cols pitch rows : Nat} (h : s.engAt n e = some (g, t, .rows cols pitch rows)) :
    s.insEmit n e = if isStashRun t then
        s.emitRead n e t.id (g.core + sg.firstCore).toNat (.tile (g.core + sg.firstCore).toNat
          (t.sramBase + (16 * g.off).toNat) rows t.entry.src.bytes pitch (p.width (g.core + sg.firstCore).toNat == 15))
      else (s.mapBytes n e t.id (g.core + sg.firstCore).toNat (2 * (rows * 16 * t.entry.src.bytes / 4096) + 4)
        (rows * 16 * t.entry.src.bytes)).modEng n e (fun g => { g with pc := g.pc + 1 }) := by
  simp only [Mach.insEmit, h, hsg, hp, tileBytes, Bool.false_eq_true, if_false, Mach.emitRead]

end

/-- Settles O20: both forms are one read or one mapping of the tile's bytes, by the direction of the run. -/
theorem emitAppends : Obligations.EmitAppends := by
  intro s n e g t i sg p hn he hq h hsg hp core off reads maps
  have hreads : ∀ item, i.form = 7 → s.m.insEmit n e = s.m.emitRead n e t.id core item → reads item := by
    intro item hi hins
    refine ⟨_, h.exec_emit hn he hi, ?_⟩
    rw [hins]
    simp only [commit_eng, commit_task, commit_st]
    exact ⟨by rw [Mach.emitRead_eng, h.eng], fun _ hk => Mach.emitRead_eng_ne hk, Mach.emitRead_task h.task,
      fun _ hk => Mach.emitRead_task_ne hk, fun _ hk => Mach.emitRead_st_ne hk, commit_of_sts hq Mach.emitRead_sts⟩
  have hmaps : ∀ b, i.form = 7 → s.m.insEmit n e = (s.m.mapBytes n e t.id core (2 * (b / 4096) + 4) b).modEng n e
      (fun g => { g with pc := g.pc + 1 }) → maps b := by
    intro b hi hins
    refine (h.exec_emit hn he hi).trans ?_
    rw [hins]
    exact next_commit_eq_to (by simpa using hq)
  refine ⟨fun len hi => ⟨fun ht => ?_, fun ht => ?_⟩, fun cols pitch rows hi => ⟨fun ht => ?_, fun ht => ?_⟩⟩ <;> subst hi
  · exact hreads _ rfl ((Mach.insEmit_linear hsg hp h.1).trans (if_pos ht))
  · exact hmaps _ rfl ((Mach.insEmit_linear hsg hp h.1).trans (if_neg (by simp [ht])))
  · exact hreads _ rfl ((Mach.insEmit_rows hsg hp h.1).trans (if_pos ht))
  · exact hmaps _ rfl ((Mach.insEmit_rows hsg hp h.1).trans (if_neg (by simp [ht])))

/-! ## WAIT -/

/-- Settles O21: the four outcomes of a WAIT, and its pass in a fetch run. -/
theorem waitsActInStashRuns : Obligations.WaitsActInStashRuns := by
  intro s n e g t i hn he hq pass
  have hpass : ∀ {c : Instr} {m : Mach}, exec c s = .next (commit s m) →
      m = s.m.modEng n e (fun g => { g with pc := g.pc + 1 }) → s.m.eng n e = g → pass c := by
    rintro c m hc rfl hg
    exact ⟨_, hc, engineBecomes_modEng hq (by rw [hg])⟩
  refine ⟨fun h => ⟨fun ht => ?fetch, fun ht hs => ?takes, fun ht hs => ?waits⟩,
    fun h => ⟨fun hd => ?passes, fun ht hd => ?holds⟩⟩
  case fetch => exact hpass (h.exec_waitSemaphore hn he) (Mach.insWaitSem_of_fetch h.1 ht) h.eng
  case takes =>
    rw [h.exec_waitSemaphore hn he, Mach.insWaitSem_takes h.1 ht hs]
    exact next_commit_eq_to hq
  case waits =>
    refine ⟨_, h.exec_waitSemaphore hn he, ?_⟩
    rw [Mach.insWaitSem_waits h.1 ht hs]
    have heng : ∀ k, (s.m.modSt n (fun x => { x with waitSeq := (s.m.st n).waitSeq + 1 })).eng n k = s.m.eng n k := by
      intro k
      simp only [Mach.eng, Mach.modSt_st]
    simp only [commit_eng, commit_st]
    refine ⟨?_, ?_, fun k hk => ?_, commit_of_sts hq rfl⟩
    · rw [Mach.modEng_eng, heng, h.eng]
    · rw [Mach.modEng_st, Mach.modSt_st]
    · rw [Mach.modEng_eng_ne _ _ _ _ hk, heng]
  case passes => exact hpass (h.exec_waitDrain hn he) (Mach.insWaitDrain_passes h.1 hd) h.eng
  case holds =>
    refine ⟨_, h.exec_waitDrain hn he, ?_⟩
    rw [Mach.insWaitDrain_holds h.1 ht hd]
    exact engineBecomes_modEng hq (by rw [h.eng])

/-! ## Runs -/

theorem exec_engineDispatch {s : State} {n : Nat} (hn : n < 6) :
    exec (.engineDispatch n) s = .next (commit s (s.m.dispatch n)) :=
  exec_of_act (fun _ m => m.dispatch n) rfl (by simp [Instr.wf, okSt, Config.nStation, hn])

theorem Mach.dispatch_eq {s : Mach} {n e : Nat} {t : Task} (h : (s.st n).nextRun = some (t, e)) : s.dispatch n =
    (s.modSt n (fun x => { x with engines := aset {} x.engines e { task := some t.id } })).modTask n t.id
      (fun t => { t with eng := some e, ph := .run }) := by simp only [Mach.dispatch, h]

section
variable {s : Mach} {n e : Nat} {g : Engine} {t : Task} (h : s.engAt n e = some (g, t, .fin))
include h

theorem Mach.insEnd_of_stash (ht : isStashRun t = true) : s.insEnd n e =
    (s.modEng n e (fun g => { g with reads := g.reads ++ [.last], done := true })).runCloses n e (g.reads.length + 1) := by
  simp only [Mach.insEnd, h, ht, if_true, (Mach.engAt_spec h).1]

theorem Mach.insEnd_of_fetch (ht : isStashRun t = false) : s.insEnd n e =
    ((s.closeMap n e t.id).modSt n (fun x => { x with engines := aset {} x.engines e {} })).modTask n t.id
      (fun t => { t with eng := none, allClosed := true, ph := if t.ph == .run then .move else t.ph }) := by
  simp only [Mach.insEnd, h, ht, Bool.false_eq_true, if_false]

end

/-- Settles O22: a run begins with `dispatch` and ends with `insEnd`; every command that reads an instruction meets its
word's error first. -/
theorem runsBeginAndEnd : Obligations.RunsBeginAndEnd := by
  refine ⟨fun s n e t hn he => ⟨fun hq hnext => ?dispatch, fun g h => ⟨fun ht => ?stash, fun ht => ?fetch⟩⟩,
    fun s n e g t nf lo hn he hq h => ?land, fun s n e g t i c hn he h hw hc => ?double⟩
  case dispatch =>
    rw [exec_engineDispatch hn, Mach.dispatch_eq hnext]
    exact next_commit_eq_to hq
  case stash => rw [h.exec_fin hn he, Mach.insEnd_of_stash h.1 ht]
  case fetch => rw [h.exec_fin hn he, Mach.insEnd_of_fetch h.1 ht]
  case land =>
    rw [h.exec_land hn he, Mach.insLand_eq h.1]
    exact next_commit_eq_to hq
  case double =>
    simp only [List.mem_cons, Prod.mk.injEq, List.not_mem_nil, or_false] at hc
    rcases hc with ⟨rfl, hi⟩ | ⟨rfl, hi⟩ | ⟨rfl, hi⟩ | ⟨rfl, hi⟩ | ⟨rfl, hi⟩ | ⟨rfl, hi⟩ | ⟨rfl, hi⟩ | ⟨rfl, hi⟩ |
      ⟨rfl, hi⟩ | ⟨rfl, hi⟩ <;> exact exec_of_double h hw rfl hi (engine_wf hn he)

end Sys2Proof.Machine
end

section
/-!
PROOFS. Bytes that leave core SRAM with a stash run's tiles (R113, R119), and bytes that a delivery brings there (R126,
R138, R192).
-/
namespace Sys2Proof.Machine

/-! ## Tiles -/

section
variable {s : Mach} {n e : Nat}

theorem Mach.runCloses_of_tile {core off rows ru pitch : Nat} {pad : Bool} {r : List StreamItem}
    (h : (s.eng n e).reads = .tile core off rows ru pitch pad :: r) (k : Nat) : s.runCloses n e k = s := by
  cases k <;> simp [Mach.runCloses, h]

theorem Mach.runCloses_of_nil (h : (s.eng n e).reads = []) (k : Nat) : s.runCloses n e k = s := by
  cases k <;> simp [Mach.runCloses, h]

/-- Bytes for which the open block of their core has room join it, and it stays open. -/
theorem Mach.feedRaw_of_room {core : Nat} {l : List Byte} (hcore : (s.eng n e).openCore = some core) (hl : l ≠ [])
    (hroom : (s.eng n e).openLen + l.length < 4096) (k : Nat) : s.feedRaw n e core (k + 1) l =
    s.modEng n e (fun g => { g with openBytes := g.openBytes ++ l, openLen := g.openLen + l.length }) := by
  have hlen : l.length ≤ 4096 - (s.eng n e).openLen := by omega
  have hopen : ¬ 4096 - (s.eng n e).openLen ≤ l.length := by omega
  simp only [Mach.feedRaw, List.isEmpty_iff, hl, if_false, hcore, bne_self_eq_false, Bool.false_eq_true,
    List.take_of_length_le hlen, List.drop_of_length_le hlen, hopen]
  cases k <;> simp [Mach.feedRaw]

end

theorem exec_coreSramReadReturn {s : State} {n e : Nat} (hn : n < 6) (he : e < 6) (err : Bool) :
    exec (.coreSramReadReturn n e err) s = .next (commit s (s.m.sramReturn s.mem n e err)) :=
  exec_of_act (fun mem m => m.sramReturn mem n e err) rfl (engine_wf hn he)

section
variable {s : Mach} {mem : Mems} {n e core off rows ru pitch : Nat} {pad : Bool} {t : Task} {r : List StreamItem}
variable (ht : (s.eng n e).task.bind (s.task n) = some t)
include ht

theorem Mach.sramReturn_of_error (hr : (s.eng n e).reads = .tile core off rows ru pitch pad :: r) :
    s.sramReturn mem n e true = (s.modEng n e (fun g => { g with reads := r })).failSend n t .rderr := by
  simp [Mach.sramReturn, ht, Mach.runCloses_of_tile hr, hr]

/-- The last tile outstanding of an engine that does not drain joins the open block. -/
theorem Mach.sramReturn_of_room (hr : (s.eng n e).reads = [.tile core off rows ru pitch pad])
    (hd : (s.eng n e).draining = false) (hcore : (s.eng n e).openCore = some core)
    (hroom : (s.eng n e).openLen + (tileData mem.sram core off rows ru pitch pad).length < 4096)
    (hl : tileData mem.sram core off rows ru pitch pad ≠ []) (hw : s.outWaits n t.id .raw = false) :
    s.sramReturn mem n e false = s.modEng n e (fun g => { g with
      reads := [], openBytes := g.openBytes ++ tileData mem.sram core off rows ru pitch pad
      openLen := g.openLen + (tileData mem.sram core off rows ru pitch pad).length }) := by
  have hfeed := Mach.feedRaw_of_room (s := s.modEng n e (fun g => { g with reads := [] })) (n := n) (e := e)
    (core := core) (by simpa using hcore) hl (by simpa using hroom)
    (2 * ((tileData mem.sram core off rows ru pitch pad).length / 4096) + 3)
  rw [Mach.modEng_modEng] at hfeed
  simp [Mach.sramReturn, ht, hw, Mach.runCloses_of_tile hr, hr, hfeed, Mach.runCloses_of_nil, hd]

end

/-! ## Frames -/

theorem memRead_placed {l : List Byte} {i : Nat} (hi : i < l.length) (m : List Host.Cell) (a : Nat) :
    memRead (memWrites m (placed a l)) (a + i) = (l[i]?).getD 0 := by
  induction l generalizing m a i with
  | nil => simp at hi
  | cons b l ih =>
    cases i with
    | zero => simp [placed, memRead_placed_frame, memRead_memWrite_same]
    | succ i =>
      have hrest := ih (Nat.lt_of_succ_lt_succ hi) (memWrite m a b) (a + 1)
      rw [Nat.add_right_comm, Nat.add_assoc] at hrest
      simpa [placed] using hrest

/-- The writes of a frame: its payload, and then its header of 32 B. -/
def frameWrites (a : Nat) (l : List Byte) : List (Nat × Byte) := placed (a + 32) (l.drop 32) ++ placed a (l.take 32)

theorem memRead_frameWrites {l : List Byte} {i : Nat} (hi : i < l.length) (m : List Host.Cell) (a : Nat) :
    memRead (memWrites m (frameWrites a l)) (a + i) = (l[i]?).getD 0 := by
  rw [frameWrites, memWrites_append]
  by_cases h : i < 32
  · rw [memRead_placed (by simp; omega), List.getElem?_take_of_lt h]
  · rw [memRead_placed_frame _ _ _ _ (Or.inr (by simp; omega))]
    obtain ⟨j, rfl⟩ := Nat.exists_eq_add_of_le (Nat.le_of_not_lt h)
    rw [← Nat.add_assoc, memRead_placed (by simp; omega), List.getElem?_drop]

theorem memRead_frameWrites_frame {l : List Byte} {a x : Nat} (hx : ∀ i, i < l.length → x ≠ a + i) (m : List Host.Cell) :
    memRead (memWrites m (frameWrites a l)) x = memRead m x := by
  have hout : x < a ∨ a + l.length ≤ x := by
    by_contra h
    exact hx (x - a) (by omega) (by omega)
  rw [frameWrites, memWrites_append, memRead_placed_frame _ _ _ _ (by simp; omega),
    memRead_placed_frame _ _ _ _ (by simp; omega)]

/-! ## The delivery port -/

theorem exec_deliveryBlockWrite {s : State} {n k : Nat} (hn : n < 6) (hk : k < 3) :
    exec (.deliveryBlockWrite n k) s = .next (commit s (s.m.deliver n k)) :=
  exec_of_act (fun _ m => m.deliver n k) rfl (by simp [Instr.wf, okSt, Config.nStation, hn, hk])

theorem deliverable_of_mem {x : Station} {p : Task → Bool} {t : Task} (h : t ∈ (x.tasks.filter Task.deliverable).filter p) :
    t.deliverable = true := (List.mem_filter.mp (List.mem_filter.mp h).1).2

/-- What the port serves, of either class, in turn or first, is deliverable. -/
theorem Station.nextDelivery_deliverable {x : Station} {t : Task} (h : x.nextDelivery = some t) : t.deliverable = true := by
  unfold Station.nextDelivery at h
  dsimp only at h
  split at h
  · next u hu =>
    cases h
    split at hu
    · next v hv => cases hu; exact deliverable_of_mem (List.mem_of_find?_eq_some hv)
    · exact deliverable_of_mem (List.mem_of_head? hu)
  · split at h
    · next v hv => cases h; exact deliverable_of_mem (List.mem_of_find?_eq_some hv)
    · exact deliverable_of_mem (List.mem_of_head? h)

section
variable {s : Mach} {n : Nat} {t : Task}
variable (hpwr : (s.st n).pwr = .active) (hnext : (s.st n).nextDelivery = some t) (ht : s.task n t.id = some t)
include hpwr hnext ht

theorem Mach.deliver_of_double (hecc : t.ecc = .double) (k : Nat) : s.deliver n k = s.failFetch n t .innerr 1 t.delivered := by
  have hd := Station.nextDelivery_deliverable hnext
  simp only [Task.deliverable, Bool.and_eq_true, Bool.or_eq_true, beq_iff_eq] at hd
  obtain ⟨⟨⟨⟨hkind, -⟩, hph⟩, -⟩, -⟩ := hd
  have hfail : (t.ph == .fail) = false := by rcases hph with hph | hph <;> rw [hph] <;> rfl
  simp [Mach.deliver, hpwr, hnext, Mach.readInn, ht, hecc, hfail, Mach.failInn, hkind]

theorem Mach.deliver_of_clean (hecc : t.ecc = .clean) (k : Nat) : s.deliver n k =
    if k = 2 then s.failFetch n t .innerr 1 t.delivered
    else (if k = 1 then s.corrected n t t.delivered else s).deliverBlock n t := by
  simp [Mach.deliver, hpwr, hnext, Mach.readInn, ht, hecc]

end

/-! ## A block that is not the last -/

/-- The note of a delivery goes to a core that has none of it (R216), and the station remembers it. -/
def Mach.announce (s : Mach) (n core : Nat) (noted : Bool) (nt : Note) (d : DelivRec) : Mach :=
  if noted then s else (s.writeNote core nt).modSt n (fun x => { x with deliveries := x.deliveries ++ [d] })

section
variable (s : Mach) (n core : Nat) (noted : Bool) (nt : Note) (d : DelivRec)

theorem Mach.announce_noted : s.announce n core true nt d = s := rfl

@[simp] theorem Mach.announce_out : (s.announce n core noted nt d).out = s.out := by cases noted <;> rfl

@[simp] theorem Mach.announce_task (k : Nat) : (s.announce n core noted nt d).task n k = s.task n k := by
  cases noted with
  | true => rfl
  | false => exact Mach.modSt_task (s.writeNote core nt) n rfl k

theorem Mach.announce_seq :
    (aget {} (s.announce n core false nt d).notes core).seq = ((aget {} s.notes core).seq + 1) % 2 ^ 32 := by
  simp only [Mach.announce, Bool.false_eq_true, if_false, Mach.modSt_notes, Mach.writeNote, aget_aset_same]

theorem Mach.announce_notes_ne {k : Nat} (hk : k ≠ core) :
    aget {} (s.announce n core noted nt d).notes k = aget {} s.notes k := by
  cases noted with
  | true => rfl
  | false =>
    simp only [Mach.announce, Bool.false_eq_true, if_false, Mach.modSt_notes, Mach.writeNote, aget_aset_ne _ _ _ hk]

end

@[simp] theorem Mach.write_task (s : Mach) (sp : Space) (bytes : List (Nat × Byte)) (n k : Nat) :
    (s.write sp bytes).task n k = s.task n k := rfl

theorem commit_notes (s : State) (m : Mach) : (commit s m).m.notes = m.notes := rfl

/-- A command whose one write is to core SRAM changes no other memory. -/
theorem commit_mem_of_sram {s : State} {m : Mach} {bytes : List (Nat × Byte)} (h : m.out = [{ space := .sram, bytes }]) :
    (commit s m).mem = { s.mem with sram := memWrites s.mem.sram bytes } := by
  rw [commit_mem, h]
  rfl

/-- Where the frame of a fetch's block stands in core SRAM: at LANDOFF, behind the earlier blocks of its core (R126). -/
def Task.frameAddr (t : Task) (p : Plan) (g : StageEntry) (b : Blk) : Nat :=
  sramAddr b.core (16 * (p.progLand g.home t.prog).2 + 4128 *
    ((t.blks.filter (fun x => x.core == b.core)).filter (fun x => decide (x.ix < b.ix))).length)

/-- The frame of a fetch's block: a raw one gets a header (R192). -/
def Task.frame (t : Task) (b : Blk) (data : List Byte) : List Byte :=
  if t.rc.isRaw then synthFrame t.entry t.stage t.mb b.ix data else data

/-- A fetch with blocks left after the next one: its core has its note, its frame is written, and it goes on. -/
theorem Mach.deliverBlock_more {s : Mach} {n : Nat} {t : Task} {g : StageEntry} {p : Plan} {b : Blk} {data : List Byte}
    (hg : s.stageOf t.ctx t.stage = some g) (hp : s.plan t.ctx = some p) (hb : t.blks[t.delivered]? = some b)
    (hdata : t.got[t.delivered]? = some data) (hmore : t.delivered + 1 < t.nexp) (ht : s.task n t.id = some t) :
    ∃ (nt : Note) (d : DelivRec) (v : Task),
      (s.deliverBlock n t).out =
        s.out ++ [{ space := .sram, bytes := frameWrites (t.frameAddr p g b) (t.frame b data) }] ∧
      (s.deliverBlock n t).notes = (s.announce n b.core (t.noted.contains b.core) nt d).notes ∧
      (s.deliverBlock n t).task n t.id = some v ∧ v.delivered = t.delivered + 1 ∧ b.core ∈ v.noted ∧ v.got = t.got := by
  simp only [Mach.deliverBlock, hg, hp, hb, hdata, Nat.not_le.mpr hmore, if_false]
  refine ⟨_, _, _, ?out, rfl, Mach.modTask_task_same (t := t) ?task (fun _ _ => rfl), rfl, ?noted, rfl⟩
  case out => exact congrArg (· ++ _) (Mach.announce_out s n b.core (t.noted.contains b.core) _ _)
  case task =>
    rw [Mach.modSt_task _ _ rfl, Mach.write_task]
    exact (Mach.announce_task s n b.core (t.noted.contains b.core) _ _ _).trans ht
  case noted => by_cases h : b.core ∈ t.noted <;> simp [h]

/-- Settles O28, read by read and block by block: a tile joins the open block by `feedRaw`, a block reaches its frame by
`deliverBlock`, and errors fail the task. -/
theorem dataMoves : Obligations.DataMoves := by
  refine ⟨?_, ?_⟩
  · intro s n e core off rows ru pitch pad t r hn he ht hr l
    refine ⟨fun hq hnil hdrain hcore hroom hl hw => ?joins, ?fails⟩
    case joins =>
      subst hnil
      refine ⟨_, exec_coreSramReadReturn hn he false, ?_⟩
      rw [Mach.sramReturn_of_room ht hr hdrain hcore hroom hl hw]
      exact engineBecomes_modEng hq rfl
    case fails => rw [exec_coreSramReadReturn hn he true, Mach.sramReturn_of_error ht hr]
  · intro s n t hn hpwr hnext ht
    refine ⟨fun hecc k hk => ?double, fun hecc => ?clean⟩
    case double => rw [exec_deliveryBlockWrite hn hk, Mach.deliver_of_double hpwr hnext ht hecc]
    case clean =>
      have hport : ∀ k, k < 3 → exec (.deliveryBlockWrite n k) s = .next (commit s
          (if k = 2 then s.m.failFetch n t .innerr 1 t.delivered
          else (if k = 1 then s.m.corrected n t t.delivered else s.m).deliverBlock n t)) := by
        intro k hk
        rw [exec_deliveryBlockWrite hn hk, Mach.deliver_of_clean hpwr hnext ht hecc]
      refine ⟨?none, fun g p b data hq hg hp hb hdata hmore => ?block, ?one, ?two⟩
      case none => simpa only [OfNat.zero_ne_ofNat, zero_ne_one, if_false] using hport 0 (by decide)
      case one => simpa only [OfNat.one_ne_ofNat, if_false, if_true, Mach.corrected] using hport 1 (by decide)
      case two => simpa only [if_true] using hport 2 (by decide)
      case block =>
        intro frame a
        obtain ⟨nt, d, v, hout, hnotes, htask, hdel, hnoted, hgot⟩ := Mach.deliverBlock_more hg hp hb hdata hmore ht
        rw [hq] at hout
        refine ⟨_, v, hport 0 (by decide), ?_⟩
        simp only [OfNat.zero_ne_ofNat, zero_ne_one, if_false]
        rw [commit_mem_of_sram hout, commit_task, commit_notes, hnotes]
        refine ⟨fun i hi => memRead_frameWrites hi _ _, fun x hx => memRead_frameWrites_frame hx _, rfl, rfl, htask, hdel,
          hnoted, hgot, fun h => ?_, fun h => ?_, fun k hk => Mach.announce_notes_ne _ _ _ _ _ _ hk⟩
        · rw [List.contains_iff_mem.mpr h, Mach.announce_noted]
        · rw [show t.noted.contains b.core = false by simpa using h, Mach.announce_seq]

end Sys2Proof.Machine
end

section
/-!
PROOFS. Every command answers, or stops on absent HBM (log entry 8); one that names no unit has no effect (log entry 2).
-/
namespace Sys2Proof.Machine

/-- A command that answers has kept the queue: it is `act`, which keeps it, and its one fault answers nothing. -/
theorem exec_pending {i : Instr} {s t : State} (h : exec i s = .next t) : t.pending = s.pending := by
  rcases exec_eq_act i s with ⟨f, hact⟩ | ⟨-, hfault, -⟩
  · obtain ⟨u, hu, hpending, -⟩ := act_spec i s f
    rw [hact, hu] at h
    cases h
    exact hpending
  · rw [hfault] at h
    cases h

theorem exec_of_not_wf {i : Instr} {s : State} (h : i.wf = false) : exec i s = .next s := by
  rcases exec_eq_act i s with ⟨f, hact⟩ | ⟨hwf, -, -⟩
  · rw [hact, act_of_not_wf h]
  · rw [hwf] at h
    cases h

/-- Settles O6, from the one form of every command, `exec_eq_act`. -/
theorem onlyAbsentHbmStops : Obligations.OnlyAbsentHbmStops := by
  refine ⟨fun i s => ?_, fun _ _ _ => exec_pending, fun _ _ => exec_of_not_wf⟩
  rcases exec_eq_act i s with ⟨f, hact⟩ | ⟨-, hfault, habsent⟩
  · obtain ⟨t, ht, -⟩ := act_spec i s f
    exact .inl ⟨t, hact.trans ht⟩
  · exact .inr ⟨hfault, habsent⟩

end Sys2Proof.Machine
end

section
/-!
PROOFS. Answers of local HBM (R139, R141, R157): what the two commands are, what a write leaves in memory, and what an
answer brings to a stash, a guest's PUT and a local COPY.
-/
namespace Sys2Proof.Machine

/-! ## The bytes of a write -/

/-- The writes to fabric addresses that the memory of the board takes, and those that core SRAM takes. -/
def toBoard (l : List (Nat × Byte)) : List (Nat × Byte) := l.filter (fun p => (Config.sramOfFabric p.1).isNone)
def toSram (l : List (Nat × Byte)) : List (Nat × Byte) := l.filterMap (fun p => (Config.sramOfFabric p.1).map (fun x => (x, p.2)))

/-- A write of no bytes is none. -/
def Mach.storeAt (s : Mach) (sp : Space) (l : List (Nat × Byte)) : Mach := if l.isEmpty then s else s.write sp l

section
variable (s : Mach) (l : List (Nat × Byte))

/-- A write that succeeds stores each of its bytes in the memory that holds its address. -/
theorem Mach.writeFab_of_ok : s.writeFab l false = (s.storeAt .fab (toBoard l)).storeAt .sram (toSram l) := rfl

/-- The machine but for its writes and free values, which is all that a write changes. -/
theorem Mach.writeFab_frame (err : Bool) (o : List MemWr) (k : Nat) :
    { s.writeFab l err with out := o, freeNo := k } = { s with out := o, freeNo := k } := by
  unfold Mach.writeFab
  dsimp only
  split_ifs <;> rfl

theorem Mach.storeAt_frame (sp : Space) (o : List MemWr) : { s.storeAt sp l with out := o } = { s with out := o } := by
  unfold Mach.storeAt
  split <;> rfl

theorem applyWrites_storeAt (mem : Mems) (sp : Space) :
    applyWrites mem (s.storeAt sp l).out = applyWrites (applyWrites mem s.out) [{ space := sp, bytes := l }] := by
  cases l with
  | nil => cases sp <;> rfl
  | cons p l => exact applyWrites_append _ _ _

@[simp] theorem Mach.writeFab_sts (err : Bool) : (s.writeFab l err).sts = s.sts :=
  (congrArg Mach.sts (s.writeFab_frame l err [] 0) :)

@[simp] theorem Mach.writeFab_lodge (err : Bool) : (s.writeFab l err).lodge = s.lodge :=
  (congrArg Mach.lodge (s.writeFab_frame l err [] 0) :)

@[simp] theorem Mach.writeFab_devid (err : Bool) : (s.writeFab l err).devid = s.devid :=
  (congrArg Mach.devid (s.writeFab_frame l err [] 0) :)

@[simp] theorem Mach.writeFab_st (err : Bool) (n : Nat) : (s.writeFab l err).st n = s.st n := by
  simp only [Mach.st, Mach.writeFab_sts]

@[simp] theorem Mach.writeFab_task (err : Bool) (n k : Nat) : (s.writeFab l err).task n k = s.task n k := by
  simp only [Mach.task, Mach.writeFab_st]

@[simp] theorem Mach.writeFab_link (err : Bool) (k : Nat) : (s.writeFab l err).link k = s.link k := by
  simp only [Mach.link, Mach.writeFab_lodge]

end

/-- The memories after a write that succeeds. -/
theorem applyWrites_writeFab {s : Mach} (h : s.out = []) (mem : Mems) (l : List (Nat × Byte)) :
    applyWrites mem (s.writeFab l false).out =
      { mem with fab := memWrites mem.fab (toBoard l), sram := memWrites mem.sram (toSram l) } := by
  rw [Mach.writeFab_of_ok, applyWrites_storeAt, applyWrites_storeAt, h]
  rfl

/-! ## The commands -/

section
variable {s : State} {n id : Nat} {a : Access} {err : Bool}

theorem exec_hbmWriteResponse (hn : n < 6) (h : s.m.absent n id true err = false) :
    exec (.hbmWriteResponse n id err) s = .next (commit s (s.m.writeResponse s.mem n id err)) := by
  simp [exec, execHbmWriteResponse, h, act, Instr.wf, okSt, Config.nStation, hn]

theorem exec_hbmReadReturn (hn : n < 6) (h : s.m.absent n id false err = false) :
    exec (.hbmReadReturn n id err) s = .next (commit s (s.m.readReturn s.mem n id err)) := by
  simp [exec, execHbmReadReturn, h, act, Instr.wf, okSt, Config.nStation, hn]

theorem exec_hbmWriteResponse_of_absent (hn : n < 6) (h : s.m.absent n id true err = true) :
    exec (.hbmWriteResponse n id err) s = .fault .hbmAbsent := by
  simp [exec, execHbmWriteResponse, h, Instr.wf, okSt, Config.nStation, hn]

theorem exec_hbmReadReturn_of_absent (hn : n < 6) (h : s.m.absent n id false err = true) :
    exec (.hbmReadReturn n id err) s = .fault .hbmAbsent := by
  simp [exec, execHbmReadReturn, h, Instr.wf, okSt, Config.nStation, hn]
end

/-- A byte of an access that no HBM holds. -/
theorem Mach.absent_of_byte {s : Mach} {n id b : Nat} {w : Bool} {a : Access} (ha : s.hbmAcc n id w = some a) (hb : b < a.len)
    (hno : fabExists (a.addr + b) = false) : s.absent n id w false = true := by
  simp only [Mach.absent, ha, Bool.not_false, Bool.true_and, List.any_eq_true]
  exact ⟨b, List.mem_range.mpr hb, by rw [hno]; rfl⟩

/-! ## What an answer does -/

section
variable {s : Mach} {mem : Mems} {n id : Nat} {a : Access}

@[simp] theorem Mach.dropAcc_st : (s.dropAcc n id).st n = { s.st n with outst := (s.st n).outst.filter (fun b => b.id != id) } :=
  Mach.modSt_st _ _ _

theorem Mach.dropAcc_st_ne {k : Nat} (h : k ≠ n) : (s.dropAcc n id).st k = s.st k := Mach.modSt_st_ne _ _ h

@[simp] theorem Mach.dropAcc_task (k : Nat) : (s.dropAcc n id).task n k = s.task n k := Mach.modSt_task s n rfl k

@[simp] theorem Mach.dropAcc_acc (k : Nat) : ((s.dropAcc n id).st k).acc = (s.st k).acc := by
  by_cases hk : k = n
  · rw [hk, Mach.dropAcc_st]
  · rw [Mach.dropAcc_st_ne hk]

@[simp] theorem Mach.dropAcc_nextId (k : Nat) : ((s.dropAcc n id).st k).nextId = (s.st k).nextId := by
  by_cases hk : k = n
  · rw [hk, Mach.dropAcc_st]
  · rw [Mach.dropAcc_st_ne hk]

@[simp] theorem Mach.dropAcc_lodge : (s.dropAcc n id).lodge = s.lodge := rfl
@[simp] theorem Mach.dropAcc_devid : (s.dropAcc n id).devid = s.devid := rfl
@[simp] theorem Mach.dropAcc_link (l : Nat) : (s.dropAcc n id).link l = s.link l := rfl

theorem Station.behindPosted_of_chan {x : Station} (h : a.chan ≠ 7) : x.behindPosted a = false := by
  simp [Station.behindPosted, h]

theorem Mach.reap_of_none (h : s.task n id = none) : s.reap n id = s := by simp [Mach.reap, h]

theorem Mach.reap_of_live {t : Task} (h : s.task n id = some t) (hph : t.ph ≠ .fail) : s.reap n id = s := by
  simp [Mach.reap, h, hph]

/-- The machine with the bytes of a write that has its response, which is over. -/
def Mach.wrote (s : Mach) (n : Nat) (a : Access) (id : Nat) (err : Bool) : Mach :=
  (s.dropAcc n id).writeFab (a.data.filter (fun p => fabExists p.1)) err

@[simp] theorem Mach.wrote_st (err : Bool) : (s.wrote n a id err).st n =
    { s.st n with outst := (s.st n).outst.filter (fun b => b.id != id) } := by simp [Mach.wrote]
@[simp] theorem Mach.wrote_task (err : Bool) (k : Nat) : (s.wrote n a id err).task n k = s.task n k := by simp [Mach.wrote]
@[simp] theorem Mach.wrote_lodge (err : Bool) : (s.wrote n a id err).lodge = s.lodge := by simp [Mach.wrote]
@[simp] theorem Mach.wrote_devid (err : Bool) : (s.wrote n a id err).devid = s.devid := by simp [Mach.wrote]

@[simp] theorem Mach.wrote_link (err : Bool) (l : Nat) : (s.wrote n a id err).link l = s.link l := by simp [Mach.wrote]

theorem Mach.writeResponse_of_acc (ha : s.hbmAcc n id true = some a) (hb : (s.st n).behindPosted a = false) {err : Bool} {m : Mach}
    (hm : m = ((s.wrote n a id err).writeAnswered mem n a err).reap n a.owner) :
    s.writeResponse mem n id err = if a.chan = 7 then (m.finishXfers n).endCuts mem n else m := by
  simp [Mach.writeResponse, ha, hb, hm, Mach.wrote]

theorem Mach.readReturn_of_acc (ha : s.hbmAcc n id false = some a) (hb : (s.st n).behindPosted a = false) {err : Bool} {m : Mach}
    (hm : m = ((s.dropAcc n id).readAnswered mem n a err).reap n a.owner) :
    s.readReturn mem n id err = if a.chan = 7 then m.endCuts mem n else m := by
  simp [Mach.readReturn, ha, hb, hm]

/-- Off channel 7 a write response is what the access's owner takes, and no more. -/
theorem Mach.writeResponse_of_metadata (ha : s.hbmAcc n id true = some a) (hc : a.chan ≠ 7) (err : Bool) :
    s.writeResponse mem n id err = ((s.wrote n a id err).writeAnswered mem n a err).reap n a.owner := by
  rw [Mach.writeResponse_of_acc ha (Station.behindPosted_of_chan hc) rfl, if_neg hc]

end

/-! ## What the owner of an access takes -/

section
variable {s : Mach} {mem : Mems} {n : Nat} {a : Access} {err : Bool}

theorem Mach.writeAnswered_of_slot {k i : Nat} (h : a.hook = .slotWrite k i) :
    s.writeAnswered mem n a err = s.slotWritten n k err := by
  simp only [Mach.writeAnswered, h]

theorem Mach.writeAnswered_of_guest {p : Nat} (h : a.hook = .guestWrite p) :
    s.writeAnswered mem n a false = s.putWritten n p := by
  simp only [Mach.writeAnswered, h, Mach.logWrite, Bool.false_eq_true, if_false]

theorem Mach.writeAnswered_of_plain (h : a.hook = .plain) : s.writeAnswered mem n a false = s := by
  simp only [Mach.writeAnswered, h, Mach.logWrite, Bool.false_eq_true, if_false]

theorem Mach.readAnswered_of_xfer {r p o : Nat} {tgt : Bool} (h : a.hook = .xferRead r p o tgt) :
    s.readAnswered mem n a false = s.xferData r p o tgt (fabReads mem a.addr a.len) := by
  simp only [Mach.readAnswered, h, Bool.false_eq_true, if_false]

end

/-! ## A write of metadata -/

theorem memRead_toBoard_frame {l : List (Nat × Byte)} {x : Nat}
    (h : ∀ p ∈ l, p.1 ≠ x ∨ (Config.sramOfFabric x).isSome = true) (m : List Host.Cell) :
    memRead (memWrites m (toBoard l)) x = memRead m x := by
  refine memRead_memWrites_frame _ _ _ fun p hp => ?_
  obtain ⟨hmem, hnone⟩ := List.mem_filter.mp hp
  rintro rfl
  rcases h p hmem with hne | hsome
  · exact hne rfl
  · simp [Option.isNone_iff_eq_none.mp hnone] at hsome

theorem memRead_toSram_frame {l : List (Nat × Byte)} {x : Nat} (h : ∀ p ∈ l, Config.sramOfFabric p.1 ≠ some x)
    (m : List Host.Cell) : memRead (memWrites m (toSram l)) x = memRead m x := by
  refine memRead_memWrites_frame _ _ _ fun p hp => ?_
  obtain ⟨q, hq, hmap⟩ := List.mem_filterMap.mp hp
  obtain ⟨y, hy, rfl⟩ := Option.map_eq_some_iff.mp hmap
  rintro rfl
  exact h q hq hy

/-- Settles O26: nothing waits for a write of metadata, so its response is the access's end and its bytes. -/
theorem hbmWriteStores : Obligations.HbmWriteStores := by
  intro s n id a hn hq ha habsent hhook hchan htask hexists
  have hm : s.m.writeResponse s.mem n id false = (s.m.dropAcc n id).writeFab a.data false := by
    rw [Mach.writeResponse_of_metadata ha hchan, Mach.writeAnswered_of_plain hhook, Mach.reap_of_none (by simpa using htask),
      Mach.wrote, List.filter_eq_self.mpr hexists]
  have hmem : (commit s ((s.m.dropAcc n id).writeFab a.data false)).mem =
      { s.mem with fab := memWrites s.mem.fab (toBoard a.data), sram := memWrites s.mem.sram (toSram a.data) } :=
    applyWrites_writeFab (s := s.m.dropAcc n id) hq s.mem a.data
  have hframe : { (s.m.dropAcc n id).writeFab a.data false with out := [] } = { s.m.dropAcc n id with out := [] } := by
    rw [Mach.writeFab_of_ok, Mach.storeAt_frame, Mach.storeAt_frame]
  refine ⟨_, exec_hbmWriteResponse hn habsent, ?_⟩
  rw [hm, hmem]
  refine ⟨?_, fun k hk => ?_, ?_, rfl, fun x hx => memRead_toBoard_frame hx _, fun x hx => memRead_toSram_frame hx _, rfl⟩
  · rw [commit_st, Mach.writeFab_st, Mach.dropAcc_st]
  · rw [commit_st, Mach.writeFab_st, Mach.dropAcc_st_ne hk]
  · rw [commit_m, hframe]
    exact congrArg (fun o => { s.m with out := o }) hq.symm

/-! ## Answers to a stash, a guest's PUT and a local COPY -/

@[simp] theorem fabReads_length (mem : Mems) (a n : Nat) : (fabReads mem a n).length = n := by simp [fabReads]

/-- A stash with further slot writes out does not write its record yet. -/
theorem Mach.cellarDone_of_more {s : Mach} {n id : Nat} {t : Task} (h : s.task n id = some t) (hmore : t.slotsDone ≠ t.slotsIssued) :
    s.cellarDone n id = s := by
  simp [Mach.cellarDone, h, hmore]

/-- A slot that is not a stash's last is counted. -/
theorem Mach.slotWritten_of_more {s : Mach} {n id : Nat} {t : Task} (h : s.task n id = some t) (hph : t.ph ≠ .fail)
    (hmore : t.slotsDone + 1 ≠ t.slotsIssued) :
    s.slotWritten n id false = s.modTask n id (fun t => { t with slotsDone := t.slotsDone + 1 }) := by
  have hdone := Mach.modTask_task_same h (f := fun t => { t with slotsDone := t.slotsDone + 1 }) (fun _ h => h)
  simp [Mach.slotWritten, h, hph, Mach.cellarDone_of_more hdone hmore]

section
variable {s : Mach} {n p : Nat} {q : InnPut}

/-- The PUT_ACK of a guest's block (R294). -/
def InnPut.answer (q : InnPut) (devid : Nat) : TxMsg where
  msg := mkMsg lopPutAck q.cls devid q.dev q.ctx q.claim (BitVec.ofNat 64 q.ledger) (word [(q.blk, 0), (b2n q.fin, 63)])
    (BitVec.ofNat 64 (if q.fin then q.loc else 0)) []
  cls := q.cls

/-- Once no write of a PUT waits or is out, it is answered on its link. -/
theorem Mach.putWritten_of_last (hq : s.lodge.puts.find? (fun x => x.id == p && agentOf x.link == n) = some q)
    (hlast : ∀ b ∈ (s.st n).acc ++ (s.st n).outst, b.hook ≠ .guestWrite p) :
    (s.putWritten n p).sts = s.sts ∧
      (s.putWritten n p).lodge.puts = s.lodge.puts.filter (fun x => !(x.id == p && agentOf x.link == n)) ∧
      ((s.putWritten n p).link q.link).tx = (s.link q.link).tx ++ [q.answer s.devid] ∧
      ∀ l, l ≠ q.link → (s.putWritten n p).link l = s.link l := by
  have hmore : ((s.st n).acc ++ (s.st n).outst).any (fun a => a.hook == .guestWrite p) = false := by
    simpa only [List.any_eq_false, beq_iff_eq] using hlast
  simp only [Mach.putWritten, hq, hmore, Bool.false_eq_true, if_false]
  refine ⟨rfl, rfl, ?_, fun l hl => Mach.modLink_link_ne _ _ hl⟩
  rw [Mach.queueTx, Mach.modLink_link]
  rfl

end

/-! ### Accesses that join a station -/

@[simp] theorem Station.askedAwake_outst (x : Station) : x.askedAwake.outst = x.outst := by unfold Station.askedAwake; split <;> rfl
@[simp] theorem Station.askedAwake_tasks (x : Station) : x.askedAwake.tasks = x.tasks := by unfold Station.askedAwake; split <;> rfl
@[simp] theorem Station.askedAwake_cuts (x : Station) : x.askedAwake.cuts = x.cuts := by unfold Station.askedAwake; split <;> rfl

section
variable (s : Mach) (n : Nat) (a : Access) (k : Nat)

theorem Mach.queueAcc_st : (s.queueAcc n a).st n =
    { (s.st n).askedAwake with
      idleSclk := 0, pgAclk := 0, acc := (s.st n).acc ++ [{ a with id := (s.st n).nextId }], nextId := (s.st n).nextId + 1 } := by
  simp [Mach.queueAcc]

@[simp] theorem Mach.queueAcc_outst : ((s.queueAcc n a).st k).outst = (s.st k).outst := by
  by_cases hk : k = n
  · simp [hk, Mach.queueAcc_st]
  · rw [Mach.queueAcc_st_ne _ _ hk]

@[simp] theorem Mach.queueAcc_cuts : ((s.queueAcc n a).st k).cuts = (s.st k).cuts := by
  by_cases hk : k = n
  · simp [hk, Mach.queueAcc_st]
  · rw [Mach.queueAcc_st_ne _ _ hk]

@[simp] theorem Mach.queueAcc_task (id : Nat) : (s.queueAcc n a).task k id = s.task k id := by
  by_cases hk : k = n
  · simp [hk, Mach.task, Mach.queueAcc_st]
  · rw [Mach.task, Mach.queueAcc_st_ne _ _ hk, Mach.task]

end

section
variable {s : Mach} {x : Xfer} {r p o : Nat} {l : List Byte}

theorem Mach.xferData_of_copy (hx : s.xfer r p = some x) (hmode : x.mode = .copy) (hhost : x.dstHost = false) :
    s.xferData r p o false l = s.xferWriteAt x o l := by
  simp [Mach.xferData, hx, hmode, hhost]

/-- The access by which a transfer writes bytes to a local target (R144, R145). -/
def Xfer.writeAcc (x : Xfer) (o : Nat) (l : List Byte) : Access where
  share := 1
  cls := x.cls
  ctx := x.desc.ring / 4
  chan := 7
  cost := fabCost (x.dst + o)
  addr := x.dst + o
  len := l.length
  data := placed (x.dst + o) l
  write := true
  posted := x.posted
  hook := .xferWrite x.desc.ring x.desc.pos o

theorem Mach.xferWriteAt_of_local (hhost : x.dstHost = false) : s.xferWriteAt x o l = s.queueAcc x.st (x.writeAcc o l) := by
  simp [Mach.xferWriteAt, Mach.xferAcc, hhost, Xfer.writeAcc]

end

/-- A write response that ends a guest's PUT is answered on the PUT's link. -/
theorem Mach.writeResponse_of_guest {s : Mach} {mem : Mems} {n id p : Nat} {a : Access} {q : InnPut}
    (ha : s.hbmAcc n id true = some a) (hc : a.chan ≠ 7) (hhook : a.hook = .guestWrite p) (htask : s.task n a.owner = none)
    (hq : s.lodge.puts.find? (fun x => x.id == p && agentOf x.link == n) = some q)
    (hacc : ∀ b ∈ (s.st n).acc, b.hook ≠ .guestWrite p) (hout : ∀ b ∈ (s.st n).outst, b.hook = .guestWrite p → b.id = id) :
    s.writeResponse mem n id false = (s.wrote n a id false).putWritten n p ∧
      ∀ b ∈ ((s.wrote n a id false).st n).acc ++ ((s.wrote n a id false).st n).outst, b.hook ≠ .guestWrite p := by
  have hlast : ∀ b ∈ ((s.wrote n a id false).st n).acc ++ ((s.wrote n a id false).st n).outst, b.hook ≠ .guestWrite p := by
    simp only [Mach.wrote_st, List.mem_append, List.mem_filter, bne_iff_ne, ne_eq]
    rintro b (hb | ⟨hb, hid⟩) heq
    · exact hacc b hb heq
    · exact hid (hout b hb heq)
  refine ⟨?_, hlast⟩
  rw [Mach.writeResponse_of_metadata ha hc, Mach.writeAnswered_of_guest hhook, Mach.reap_of_none]
  obtain ⟨hsts, -⟩ := Mach.putWritten_of_last (by simpa using hq) hlast
  have hst : ((s.wrote n a id false).putWritten n p).st n = (s.wrote n a id false).st n := by simp only [Mach.st, hsts]
  have hkept := Mach.wrote_task (s := s) (n := n) (id := id) (a := a) false a.owner
  simp only [Mach.task] at hkept htask ⊢
  rw [hst, hkept, htask]

/-- Settles O27: the first two clauses and the last say what the model's commands are; each of the others follows an answer
to its owner. -/
theorem hbmAnswers : Obligations.HbmAnswers := by
  refine ⟨fun s n id a err hn hb => ⟨fun ha habsent => ⟨_, rfl, ?write⟩, fun ha habsent => ⟨_, rfl, ?read⟩⟩,
    fun s n id a hn hb ha habsent hc => ⟨fun k i t hhook howner ht hph hmore => ?slot, fun p q hhook htask hq hacc hout => ?guest⟩,
    fun s n id a r p o x hn hb ha habsent hhook hx hmode hhost htask hcuts => ?copy,
    fun s n id a b hn hlt hno => ⟨fun ha => exec_hbmWriteResponse_of_absent hn (Mach.absent_of_byte ha hlt hno),
      fun ha => exec_hbmReadReturn_of_absent hn (Mach.absent_of_byte ha hlt hno)⟩⟩
  case write => rw [exec_hbmWriteResponse hn habsent, Mach.writeResponse_of_acc ha hb rfl, Mach.wrote]
  case read => rw [exec_hbmReadReturn hn habsent, Mach.readReturn_of_acc ha hb rfl]
  case slot =>
    have ht' : (s.m.wrote n a id false).task n k = some t := by simpa using ht
    rw [exec_hbmWriteResponse hn habsent, Mach.writeResponse_of_metadata ha hc, Mach.writeAnswered_of_slot hhook, howner,
      Mach.slotWritten_of_more ht' hph hmore, Mach.reap_of_live (Mach.modTask_task_same ht' (by exact fun _ h => h)) hph]
    rfl
  case guest =>
    obtain ⟨heq, hlast⟩ := Mach.writeResponse_of_guest (mem := s.mem) ha hc hhook htask hq hacc hout
    obtain ⟨-, hputs, htx, hne⟩ := Mach.putWritten_of_last (by simpa using hq) hlast
    refine ⟨_, exec_hbmWriteResponse hn habsent, ?_⟩
    rw [heq]
    rw [Mach.wrote_lodge] at hputs
    rw [Mach.wrote_link, Mach.wrote_devid] at htx
    exact ⟨hputs, htx, fun l hl => (hne l hl).trans (Mach.wrote_link ..)⟩
  case copy =>
    have hdata : (s.m.dropAcc n id).readAnswered s.mem n a false =
        (s.m.dropAcc n id).queueAcc x.st (x.writeAcc o (fabReads s.mem a.addr a.len)) := by
      rw [Mach.readAnswered_of_xfer hhook, Mach.xferData_of_copy (s := s.m.dropAcc n id) hx hmode hhost,
        Mach.xferWriteAt_of_local hhost]
    have hreap := Mach.reap_of_none (s := (s.m.dropAcc n id).queueAcc x.st (x.writeAcc o (fabReads s.mem a.addr a.len)))
      (n := n) (id := a.owner) (by simpa using htask)
    have hcuts' : (((s.m.dropAcc n id).queueAcc x.st (x.writeAcc o (fabReads s.mem a.addr a.len))).st n).cuts = [] := by
      simpa using hcuts
    refine ⟨_, exec_hbmReadReturn hn habsent, ?_⟩
    rw [Mach.readReturn_of_acc ha hb rfl, hdata, hreap, Mach.endCuts_of_none hcuts', ite_self, commit_st, Mach.queueAcc_acc,
      Mach.dropAcc_acc, Mach.dropAcc_nextId]
    simp only [Xfer.writeAcc, fabReads_length]

end Sys2Proof.Machine
end

section
/-!
PROOFS. The extra lead of a late tier (R163), and a stall count at its threshold (R168, R448).
-/
namespace Sys2Proof.Machine

/-! ## Commands that change one context -/

/-- A command that updates one context changes that context alone. -/
theorem contextBecomes_modCtx {s : State} (hq : s.Quiet) {c : Nat} {f : Ctx → Ctx} {x : Ctx} (hx : f (s.m.ctx c) = x) :
    ContextBecomes s (commit s (s.m.modCtx c f)) c x := by
  refine ⟨?_, fun k hk => ?_, ?_⟩
  · rw [commit_ctx, Mach.modCtx_ctx, hx]
  · rw [commit_ctx, Mach.modCtx_ctx_ne _ _ hk]
  · rw [commit_of_out_nil (m := s.m.modCtx c f) hq]
    rfl

/-! ## Extra leads -/

/-- What 64 fetches on time make of an extra lead and its run; what is left of a longer run stays (log entry 19). -/
def easedLead (p : Nat × Nat) : Nat × Nat := if 64 ≤ p.2 then (p.1 - 1, p.2 - 64) else p

theorem Mach.leadDown_eq (s : Mach) (c n tier : Nat) : s.leadDown c n tier =
    s.modCtx c (fun x => { x with extra := amod (0, 0) x.extra (2 * n + tier - 1) easedLead }) := rfl

theorem Ctx.lead_of_tier {x : Ctx} {n tier : Nat} (h : tier = 1 ∨ tier = 2) :
    x.lead n tier = (aget (0, 0) x.extra (2 * n + tier - 1)).1 := if_pos h

theorem Mach.leadDown_extra (s : Mach) (c n tier : Nat) :
    ((s.leadDown c n tier).ctx c).extra = amod (0, 0) (s.ctx c).extra (2 * n + tier - 1) easedLead := by
  rw [Mach.leadDown_eq, Mach.modCtx_ctx]

theorem Mach.leadDown_lead (s : Mach) (c n : Nat) {tier : Nat} (h : tier = 1 ∨ tier = 2) :
    ((s.leadDown c n tier).ctx c).lead n tier = (easedLead (aget (0, 0) (s.ctx c).extra (2 * n + tier - 1))).1 := by
  rw [Ctx.lead_of_tier h, Mach.leadDown_extra, aget_amod_same]

/-- The leads of other stations and tiers stand at other places of the table. -/
theorem Mach.leadDown_lead_ne (s : Mach) (c : Nat) {n tier k d : Nat} (h : tier = 1 ∨ tier = 2) (hd : d = 1 ∨ d = 2)
    (hne : k ≠ n ∨ d ≠ tier) : ((s.leadDown c n tier).ctx c).lead k d = (s.ctx c).lead k d := by
  rw [Ctx.lead_of_tier hd, Mach.leadDown_extra, aget_amod_ne _ _ _ (by omega), Ctx.lead_of_tier hd]

theorem exec_extraLeadDecrease {s : State} {c n tier : Nat} (hc : c < 4) (hn : n < 6) (h : tier = 1 ∨ tier = 2) :
    exec (.extraLeadDecrease c n tier) s = .next (commit s (s.m.leadDown c n tier)) :=
  exec_of_act (fun _ m => m.leadDown c n tier) rfl (by simp [Instr.wf, okCtx, okSt, Config.nCtx, Config.nStation, hc, hn, h])

/-! ## Stall counts -/

/-- A count has reached a threshold; a threshold of 0 never is. -/
def reachesAny (thrs : List Nat) (v : Nat) : Bool := thrs.any (fun thr => decide (thr ≠ 0) && decide (thr ≤ v))

theorem reachesAny_iff {thrs : List Nat} {v : Nat} : reachesAny thrs v = true ↔ ∃ thr ∈ thrs, thr ≠ 0 ∧ thr ≤ v := by
  simp [reachesAny]

/-- A cause falls due at a threshold, unless it is due or has been raised. -/
def Mach.fallDue (s : Mach) (c g k : Nat) (thrs : List Nat) : Mach :=
  if reachesAny thrs (aget 0 (s.stage c g).stats.stall k) && !((s.stage c g).stallDue ++ (s.stage c g).stallRaised).contains k then
    s.modStage c g (fun y => { y with stallDue := y.stallDue ++ [k] })
  else s

/-- The stall counts after `n` sclk under cause `k`. -/
def StageRun.stalled (y : StageRun) (k n : Nat) : StageRun :=
  { y with stats := { y.stats with stall := amod 0 y.stats.stall k (fun v => satAdd 64 v n) } }

section
variable (m : Mach) (c g k n : Nat) (thrs : List Nat) (y : StageRun)

theorem StageRun.stalled_count : aget 0 (y.stalled k n).stats.stall k = satAdd 64 (aget 0 y.stats.stall k) n := by
  simp [StageRun.stalled]

@[simp] theorem StageRun.stalled_due : (y.stalled k n).stallDue = y.stallDue := rfl
@[simp] theorem StageRun.stalled_raised : (y.stalled k n).stallRaised = y.stallRaised := rfl

theorem Mach.addStall_eq : m.addStall c g k n thrs = (m.modStage c g (fun y => y.stalled k n)).fallDue c g k thrs := rfl

theorem Mach.fallDue_stage : (m.fallDue c g k thrs).stage c g =
    if reachesAny thrs (aget 0 (m.stage c g).stats.stall k) = true ∧ k ∉ (m.stage c g).stallDue ∧ k ∉ (m.stage c g).stallRaised then
      { m.stage c g with stallDue := (m.stage c g).stallDue ++ [k] }
    else m.stage c g := by
  unfold Mach.fallDue
  simp only [apply_ite (fun s : Mach => s.stage c g), Mach.modStage_stage, Bool.and_eq_true, Bool.not_eq_true',
    List.contains_eq_mem, decide_eq_false_iff_not, List.mem_append, not_or]

/-- A stall is counted, and its cause falls due at a threshold. -/
theorem Mach.addStall_stage : (m.addStall c g k n thrs).stage c g =
    if reachesAny thrs (satAdd 64 (aget 0 (m.stage c g).stats.stall k) n) = true ∧
        k ∉ (m.stage c g).stallDue ∧ k ∉ (m.stage c g).stallRaised then
      { (m.stage c g).stalled k n with stallDue := (m.stage c g).stallDue ++ [k] }
    else (m.stage c g).stalled k n := by
  rw [Mach.addStall_eq, Mach.fallDue_stage, Mach.modStage_stage, StageRun.stalled_count, StageRun.stalled_due,
    StageRun.stalled_raised]

end

/-! ## The interrupt -/

theorem exec_stallThreshold {s : State} {c g k : Nat} (hc : c < 4) (hg : g < 64) (hk : k < 11) :
    exec (.stallThreshold c g k) s = .next (commit s (s.m.stallCheck c g k)) :=
  exec_of_act (fun _ m => m.stallCheck c g k) rfl (by simp [Instr.wf, okCtx, Config.nCtx, hc, hg, hk])

/-- A vector is sent, pends or is held: nothing but the MSI-X state changes. -/
theorem Mach.raiseVec_frame (m : Mach) (v : Nat) (x : Msix) : { m.raiseVec v with msix := x } = { m with msix := x } := by
  unfold Mach.raiseVec Mach.sendVec
  split
  · split
    · rfl
    · split <;> rfl
  · rfl

@[simp] theorem Mach.raiseVec_out (m : Mach) (v : Nat) : (m.raiseVec v).out = m.out :=
  (congrArg Mach.out (m.raiseVec_frame v {}) :)
@[simp] theorem Mach.raiseVec_sts (m : Mach) (v : Nat) : (m.raiseVec v).sts = m.sts :=
  (congrArg Mach.sts (m.raiseVec_frame v {}) :)
@[simp] theorem Mach.raiseVec_hs (m : Mach) (v : Nat) : (m.raiseVec v).hs = m.hs :=
  (congrArg Mach.hs (m.raiseVec_frame v {}) :)
@[simp] theorem Mach.raiseVec_chans (m : Mach) (v : Nat) : (m.raiseVec v).chans = m.chans :=
  (congrArg Mach.chans (m.raiseVec_frame v {}) :)

/-- The context raises cause 2 and its vector for a stall cause, which is not due any more and is not raised again (R168). -/
def Mach.raiseStall (m : Mach) (c g k : Nat) : Mach :=
  (((m.modStage c g (fun y => { y with
      stallDue := y.stallDue.filter (fun j => j != k), stallRaised := y.stallRaised ++ [k] })).modCtx c
    (fun x => { x with lastCause := k, lastStage := g })).setIrq (8 * c + 2)).raiseVec (20 + c)

theorem Mach.stallCheck_of_due {m : Mach} {c g k : Nat} (h : k ∈ (m.stage c g).stallDue) :
    m.stallCheck c g k = m.raiseStall c g k := by
  simp only [Mach.stallCheck, List.contains_iff_mem.mpr h, if_true, Mach.raiseStall, Mach.raiseCtx, irqStall]

theorem Mach.stallCheck_of_not_due {m : Mach} {c g k : Nat} (h : k ∉ (m.stage c g).stallDue) : m.stallCheck c g k = m := by
  simp [Mach.stallCheck, h]

/-- Settles O13: each clause is one operation, EXTRA_LEAD_DECREASE's, the count's and STALL_THRESHOLD's. -/
theorem lateAndStallRules : Obligations.LateAndStallRules := by
  refine ⟨fun s c n tier hc hn ht hq => ?lead, fun m c g k sclk thrs => ?count, fun s c g k hc hg hk hq => ⟨fun h => ?due, fun h => ?notDue⟩⟩
  case lead =>
    refine ⟨_, exec_extraLeadDecrease hc hn ht, ?_, fun k d _ hd hne => Mach.leadDown_lead_ne s.m c ht hd hne, ?_⟩
    · rw [commit_ctx, Mach.leadDown_lead s.m c n ht, easedLead, apply_ite Prod.fst]
    · refine contextBecomes_modCtx hq ?_
      rw [commit_ctx, Mach.leadDown_extra]
      rfl
  case count =>
    intro x y
    have hx : x = _ := Mach.addStall_stage m c g k sclk thrs
    have hstats : x.stats = (y.stalled k sclk).stats := by rw [hx]; split <;> rfl
    have hraised : x.stallRaised = y.stallRaised := by rw [hx]; split <;> rfl
    have hcount : aget 0 x.stats.stall k = satAdd 64 (aget 0 y.stats.stall k) sclk := by rw [hstats, StageRun.stalled_count]
    have hdue : x.stallDue = if reachesAny thrs (aget 0 x.stats.stall k) = true ∧ k ∉ y.stallDue ∧ k ∉ y.stallRaised then
        y.stallDue ++ [k] else y.stallDue := by
      rw [hcount, hx]
      split <;> rfl
    rw [hdue, hraised]
    refine ⟨hcount, rfl, fun hthr => ?_, fun hnot => if_neg ?_⟩
    · split
      · simp
      · next h => exact or_iff_not_and_not.mpr fun hk => h ⟨reachesAny_iff.mpr hthr, hk⟩
    · rintro ⟨hreach, -, hk⟩
      obtain ⟨thr, hthr, hpos, hle⟩ := reachesAny_iff.mp hreach
      rcases hnot with hbelow | hmem
      · have := hbelow thr hthr
        omega
      · exact hk hmem
  case due =>
    rw [exec_stallThreshold hc hg hk, Mach.stallCheck_of_due h]
    exact next_commit_eq_to (by simpa [Mach.raiseStall] using hq)
  case notDue => rw [exec_stallThreshold hc hg hk, Mach.stallCheck_of_not_due h, commit_self hq]

end Sys2Proof.Machine
end

section
/-!
PROOFS. TRANSFER_ISSUE (R133, R134, R151–R153): the access that is chosen has its turn, goes out and is outstanding.
-/
namespace Sys2Proof.Machine

/-! ## The parts of an issue -/

/-- The turn of an access that goes next: its context's, and the counts and tokens of its class. -/
def Mach.turned (s : Mach) (n share : Nat) (a : Access) : Mach :=
  s.modSt n (fun x =>
    let y := x.countWrr share a ((s.readyHead n share 1).isSome && (s.readyHead n share 2).isSome)
    let z := { y with ctxTurn := aset 0 y.ctxTurn (4 * share + a.cls) (a.ctx + 1) }
    match s.clsBucket a with
    | some k => z.spendCls k a.cost
    | none => z)

/-- An access leaves those that wait and joins those outstanding; on a channel its task has had its turn. -/
def Station.goesOut (x : Station) (a : Access) : Station :=
  { x with
    acc := x.acc.filter (fun b => b.id != a.id), outst := x.outst ++ [a]
    chanTurn := if a.chan < 8 then aset 0 x.chanTurn a.turnKey a.taskKey else x.chanTurn }

section
variable {s : Mach} {n share : Nat} {a : Access}

theorem Mach.turned_st (s : Mach) (n share : Nat) (a : Access) : ∃ w t c,
    (s.turned n share a).st n = { s.st n with wrr := w, ctxTurn := t, clsTokens := c } := by
  unfold Mach.turned Station.countWrr
  rw [Mach.modSt_st]
  dsimp only
  split <;> split_ifs <;> exact ⟨_, _, _, rfl⟩

theorem Mach.turned_st_ne {k : Nat} (h : k ≠ n) : (s.turned n share a).st k = s.st k := Mach.modSt_st_ne _ _ h

/-- The access that is chosen goes out when its share holds its tokens (R152). -/
theorem Mach.transferIssue_of_choice (hpwr : (s.st n).pwr = .active) (hchoose : s.choose n share = some a)
    (htok : share < 3 → 6 * a.cost ≤ (s.st n).tok share) : s.transferIssue n share = (s.turned n share a).issueAccess n a := by
  have hhas : ¬(share < 3 ∧ (s.st n).tok share < 6 * a.cost) := fun h => by have := htok h.1; omega
  simp only [Mach.transferIssue, hpwr, bne_self_eq_false, Bool.false_eq_true, if_false, hchoose, hhas]
  rfl

/-- An access is outstanding, and a share of HBM traffic has spent its tokens. -/
def Mach.putOut (s : Mach) (n : Nat) (a : Access) : Mach :=
  s.modSt n (fun x => if a.share < 3 then (x.goesOut a).spend a.share a.cost else x.goesOut a)

/-- What an access that goes out sends on its way: a block or a request to a tier, or the lines of a host operand. -/
def Mach.sendAway (m : Mach) (n : Nat) (a : Access) : Mach :=
  match a.hook with
  | .putSend t b => m.readInn n t b (fun m => m.sendPut n t b)
  | .farSend t b => m.readInn n t b (fun m => m.sendFar n t b)
  | .peerAsk t first => m.askPeer n t first
  | _ => if a.share = 3 then m.toHost n a else m

theorem Mach.issueAccess_eq (s : Mach) (n : Nat) (a : Access) :
    s.issueAccess n a = (s.putOut n (s.issued n a)).sendAway n (s.issued n a) := by
  have hout (b : Access) : (fun x : Station => if b.share < 3 then (x.goesOut b).spend b.share b.cost else x.goesOut b) =
      (fun x =>
        let y := { x with acc := x.acc.filter (fun c => c.id != b.id), outst := x.outst ++ [b] }
        let z := if b.chan < 8 then { y with chanTurn := aset 0 y.chanTurn b.turnKey b.taskKey } else y
        if b.share < 3 then z.spend b.share b.cost else z) := by
    funext x
    by_cases hc : b.chan < 8 <;> simp [hc, Station.goesOut]
  unfold Mach.issueAccess Mach.putOut
  rw [hout]
  rfl

theorem Mach.sendAway_of_hbm {m : Mach} (hshare : a.share < 3) (hsend : ∀ t b, a.hook ≠ .putSend t b ∧ a.hook ≠ .farSend t b)
    (hask : ∀ t b, a.hook ≠ .peerAsk t b) : m.sendAway n a = m := by
  unfold Mach.sendAway
  split
  · next h => exact absurd h (hsend _ _).1
  · next h => exact absurd h (hsend _ _).2
  · next h => exact absurd h (hask _ _)
  · exact if_neg (Nat.ne_of_lt hshare)

/-! ## What goes out -/

theorem Mach.issued_urgent (hshare : a.share < 3) :
    s.issued n a = { a with urgent := a.cls == 0 && !a.write, data := (s.issued n a).data } := by
  simp [Mach.issued, hshare]

theorem Mach.issued_data (h : ∀ c, a.hook ≠ .telStation c) : (s.issued n a).data = a.data := by
  unfold Mach.issued
  dsimp only
  split
  · next hc => exact absurd hc (h _)
  · rfl

theorem Mach.issued_station {c : Nat} (h : a.hook = .telStation c) :
    (s.issued n a).data = placed a.addr (stationRecBytes (s.st n) s.aclk) := by simp [Mach.issued, h]

/-- A station record holds no count of a turn. -/
theorem Mach.turned_issued_station {c : Nat} (h : a.hook = .telStation c) :
    ((s.turned n share a).issued n a).data = placed a.addr (stationRecBytes (s.st n) s.aclk) := by
  obtain ⟨w, t, c, hst⟩ := s.turned_st n share a
  rw [Mach.issued_station h, hst]
  rfl

/-! ## The command -/

/-- A descriptor's posted write ends as it goes out (R140); where nothing that goes out is posted, no more is done. -/
theorem Mach.issueNext_of_unposted (h : ∀ b ∈ ((s.transferIssue n share).st n).outst, b ∈ (s.st n).outst ∨ b.posted = false) :
    s.issueNext n share = s.transferIssue n share := by
  unfold Mach.issueNext
  dsimp only
  split
  · rfl
  · next b hb =>
    refine if_neg fun hposted => ?_
    simp only [Bool.and_eq_true, Bool.not_eq_true', List.any_eq_false, beq_iff_eq] at hposted
    obtain ⟨hp, hnew⟩ := hposted
    rcases h b (List.mem_of_getLast? hb) with hold | hun
    · exact hnew b hold rfl
    · rw [hp] at hun
      cases hun

theorem exec_transferIssue {s : State} {n share : Nat} (hn : n < 6) (hshare : share < 4) :
    exec (.transferIssue n share) s = .next (commit s (s.m.issueNext n share)) :=
  exec_of_act (fun _ m => m.issueNext n share) rfl (by simp [Instr.wf, okSt, Config.nStation, hn, hshare])

/-- The access that is chosen on a share of HBM traffic is out, and nothing else goes. -/
theorem Mach.transferIssue_of_hbm (hpwr : (s.st n).pwr = .active) (hchoose : s.choose n share = some a) (hshare : a.share = share)
    (hlt : share < 3) (htok : 6 * a.cost ≤ (s.st n).tok share) (hsend : ∀ t b, a.hook ≠ .putSend t b ∧ a.hook ≠ .farSend t b)
    (hask : ∀ t b, a.hook ≠ .peerAsk t b) :
    s.transferIssue n share = (s.turned n share a).putOut n ((s.turned n share a).issued n a) := by
  subst hshare
  rw [Mach.transferIssue_of_choice hpwr hchoose fun _ => htok, Mach.issueAccess_eq]
  exact Mach.sendAway_of_hbm hlt hsend hask

/-- The station from which an access of HBM traffic has gone out. -/
theorem Mach.putOut_turned_st (hlt : a.share < 3) {o : Access} (ho : o = (s.turned n a.share a).issued n a) : ∃ w t c k,
    ((s.turned n a.share a).putOut n o).st n = { s.st n with
      wrr := w, ctxTurn := t, clsTokens := c, chanTurn := k, outst := (s.st n).outst ++ [o]
      acc := (s.st n).acc.filter (fun b => b.id != a.id)
      tokens := aset shareDepth (s.st n).tokens a.share ((s.st n).tok a.share - 6 * a.cost) } := by
  obtain ⟨w, t, c, hst⟩ := s.turned_st n a.share a
  subst ho
  have hshare : ((s.turned n a.share a).issued n a).share < 3 := hlt
  rw [Mach.putOut, Mach.modSt_st, hst, if_pos hshare]
  exact ⟨w, t, c, _, rfl⟩

end

/-- Settles O24: the chosen access is out of the station as its turn has left it. -/
theorem transferIssued : Obligations.TransferIssued := by
  intro s n share a hn hlt hq hpwr hchoose hshare htok hposted hsend hask
  have hissue := Mach.transferIssue_of_hbm hpwr hchoose hshare hlt htok hsend hask
  subst hshare
  generalize ho : (s.m.turned n a.share a).issued n a = o at hissue
  obtain ⟨w, t, c, k, hst⟩ := Mach.putOut_turned_st (s := s.m) (n := n) hlt ho.symm
  have hnext : s.m.issueNext n a.share = (s.m.turned n a.share a).putOut n o := by
    rw [Mach.issueNext_of_unposted, hissue]
    intro b hb
    rw [hissue, hst] at hb
    rcases List.mem_append.mp hb with hold | hnew
    · exact .inl hold
    · rw [List.mem_singleton.mp hnew, ← ho]
      exact .inr hposted
  refine ⟨_, o, exec_transferIssue hn (Nat.lt_succ_of_lt hlt), ?_⟩
  rw [hnext, commit_st, hst]
  refine ⟨rfl, ?_, fun h => ?_, fun c h => ?_, rfl, ?_, rfl, fun k hk => ?_, ?_⟩
  · rw [← ho]
    exact Mach.issued_urgent hlt
  · rw [← ho, Mach.issued_data h]
  · rw [← ho, Mach.turned_issued_station h]
  · exact aget_aset_same _ _ _ _
  · rw [commit_st, Mach.putOut, Mach.modSt_st_ne _ _ hk, Mach.turned_st_ne hk]
  · exact commit_of_sts hq rfl

end Sys2Proof.Machine
end

section
/-!
PROOFS. What only takes accesses out of those outstanding, and issues none: updates of all but the stations, and what the
failure of a fetch does (R143, R392, R390).
-/
namespace Sys2Proof.Machine

/-- From `s` to `m` no access has become outstanding. -/
def Mach.OutstWithin (s m : Mach) : Prop := ∀ n, (m.st n).outst ⊆ (s.st n).outst

namespace Mach.OutstWithin

variable {s m : Mach}

theorem refl (s : Mach) : s.OutstWithin s := fun _ => List.Subset.refl _

theorem ite {p : Prop} [Decidable p] {u v : Mach} (hu : s.OutstWithin u) (hv : s.OutstWithin v) :
    s.OutstWithin (if p then u else v) := by
  split
  · exact hu
  · exact hv

section
variable (h : s.OutstWithin m)
include h

theorem of_sts {u : Mach} (hsts : u.sts = m.sts) : s.OutstWithin u := by
  simpa only [Mach.OutstWithin, Mach.st, hsts] using h

theorem modSt {n : Nat} {f : Station → Station} (hf : (f (m.st n)).outst ⊆ (m.st n).outst) : s.OutstWithin (m.modSt n f) := by
  intro k
  by_cases hk : k = n
  · subst hk
    rw [Mach.modSt_st]
    exact List.Subset.trans hf (h k)
  · rw [Mach.modSt_st_ne _ _ hk]
    exact h k

theorem modTask (n id : Nat) (f : Task → Task) : s.OutstWithin (m.modTask n id f) := h.modSt (List.Subset.refl _)
theorem dropTask (n id : Nat) : s.OutstWithin (m.dropTask n id) := h.modSt (List.Subset.refl _)

theorem queueAcc (n : Nat) (a : Access) : s.OutstWithin (m.queueAcc n a) := by
  intro k
  rw [Mach.queueAcc_outst]
  exact h k

theorem overList {α : Type} {f : Mach → α → Mach} (hf : ∀ u a, s.OutstWithin u → s.OutstWithin (f u a)) (l : List α) :
    s.OutstWithin (Machine.overList f m l) := overList_preserves (P := s.OutstWithin) hf l h

theorem overTasks {f : Mach → Task → Mach} (hf : ∀ u t, s.OutstWithin u → s.OutstWithin (f u t)) (n : Nat) :
    s.OutstWithin (Mach.overTasks n f m) := by
  refine h.overList (fun u id hu => ?_) _
  split
  · exact hf _ _ hu
  · exact hu

/-! ## Tasks that end -/

theorem freeEngine (n : Nat) (t : Task) : s.OutstWithin (m.freeEngine n t) := by
  unfold Mach.freeEngine
  split
  · exact h.modSt (List.Subset.refl _)
  · exact h

theorem dropAsks (n id : Nat) : s.OutstWithin (m.dropAsks n id) :=
  (h.modSt (n := n) (f := fun x => { x with
    acc := x.acc.filter (fun a => !a.asks id), outst := x.outst.filter (fun a => !a.asks id) })
    (List.filter_subset_self _)).of_sts rfl

theorem haltAsks (n id : Nat) : s.OutstWithin (m.haltAsks n id) :=
  (h.modSt (n := n) (f := fun x => { x with acc := x.acc.filter (fun a => !a.asks id) }) (List.Subset.refl _)).modTask _ _ _

theorem removeTask (n : Nat) (t : Task) : s.OutstWithin (m.removeTask n t) :=
  (((h.freeEngine n t).dropTask n t.id).dropAsks n t.id).modSt (List.Subset.refl _)

theorem raiseVec (v : Nat) : s.OutstWithin (m.raiseVec v) := h.of_sts (Mach.raiseVec_sts m v)

theorem chanEnd (ch : Nat) (st : Status) (k : Nat) : s.OutstWithin (m.chanEnd ch st k) := by
  have hnote : s.OutstWithin (m.chanNote ch st k) := h.of_sts rfl
  unfold Mach.chanEnd
  dsimp only
  split
  · exact (hnote.of_sts (u := ((m.chanNote ch st k).modChan ch (fun x => { x with pend := true })).markSet (w1cPend ch)) rfl).raiseVec _
  · exact hnote

theorem endTask (n : Nat) (t : Task) (st : Status) : s.OutstWithin (m.endTask n t st) := by
  have hgone := h.removeTask n t
  unfold Mach.endTask Mach.endChans
  dsimp only
  split <;> split
  · exact (hgone.chanEnd _ _ _).chanEnd _ _ _
  · exact hgone.chanEnd _ _ _
  · exact hgone.chanEnd _ _ _
  · exact hgone

/-! ## A context that enters ABORTING -/

theorem writeRec (n : Nat) (t : Task) (rc : Rec) : s.OutstWithin (m.writeRec n t rc) := by
  unfold Mach.writeRec
  split
  · exact h
  · exact (h.of_sts rfl).queueAcc _ _

theorem addWasted (c g k : Nat) : s.OutstWithin (m.addWasted c g k) := h.of_sts rfl
theorem logTask (n : Nat) (t : Task) (st : Status) (kind block addr : Nat) : s.OutstWithin (m.logTask n t st kind block addr) :=
  h.of_sts rfl

theorem cancelFetch (n : Nat) (t : Task) : s.OutstWithin (m.cancelFetch n t) := by
  have hfree := (h.addWasted t.ctx t.stage t.heldBytes).freeEngine n t
  exact ite h (ite (hfree.endTask _ _ _) (hfree.modTask _ _ _))

theorem abortTask (n : Nat) (t : Task) : s.OutstWithin (m.abortTask n t) := by
  unfold Mach.abortTask
  split
  · exact (h.writeRec _ _ _).modTask _ _ _
  · exact h.dropTask _ _
  · exact (h.logTask _ _ _ _ _ _).dropTask _ _
  · exact (h.logTask _ _ _ _ _ _).dropTask _ _
  · exact h.cancelFetch _ _
  · exact h

theorem dropTickets (p : Ticket → Bool) : s.OutstWithin (m.dropTickets p) :=
  h.overList (fun _ _ hu => hu.modSt (List.Subset.refl _)) _

theorem discardEvent (e : QEvent) : s.OutstWithin (m.discardEvent e) := by
  unfold Mach.discardEvent
  dsimp only
  split
  · exact h.of_sts rfl
  · exact h

theorem flushEvents (c : Nat) (all : Bool) : s.OutstWithin (m.flushEvents c all) :=
  h.overList (fun _ _ hu => (hu.overList (fun _ e hv => hv.discardEvent e) _).modSt (List.Subset.refl _)) _

theorem modCtx (c : Nat) (f : Ctx → Ctx) : s.OutstWithin (m.modCtx c f) := h.of_sts rfl
theorem modRec (c g k : Nat) (f : RecInfo → RecInfo) : s.OutstWithin (m.modRec c g k f) := h.of_sts rfl
theorem logv (e : VEntry) : s.OutstWithin (m.logv e) := h.of_sts rfl
theorem raiseCtx (c k : Nat) : s.OutstWithin (m.raiseCtx c k) := (h.of_sts (u := m.setIrq (8 * c + k)) rfl).raiseVec _

theorem semwaits (c : Nat) : s.OutstWithin (m.semwaits c) := by
  refine h.overList (fun u n hu => hu.overList (fun v p hv => ?_) _) _
  split
  · exact ite ((hv.logv _).raiseCtx _ _) hv
  · exact hv

theorem enterAborting (c : Nat) (st : Status) : s.OutstWithin (m.enterAborting c st) := by
  unfold Mach.enterAborting
  refine OutstWithin.overList ?_ (fun u n hu => hu.overTasks (fun v t hv => ite (hv.abortTask n t) hv) n) _
  exact ((((h.modCtx _ _).logv _).semwaits c).flushEvents c _).dropTickets _

theorem forceAbort (c rank : Nat) (st : Status) : s.OutstWithin (m.forceAbort c rank st) := by
  unfold Mach.forceAbort
  dsimp only
  split
  · exact (h.modCtx _ _).enterAborting c st
  · exact (h.modCtx _ _).enterAborting c st
  · exact ite (h.of_sts rfl) h
  · exact h

/-! ## Fetches -/

theorem failFetch (n : Nat) (t : Task) (st : Status) (kind block : Nat) : s.OutstWithin (m.failFetch n t st kind block) := by
  unfold Mach.failFetch
  refine (overTasks ?_ (fun u v hu => ite ((hu.logTask _ _ _ _ _ _).dropTask _ _) hu) n).forceAbort _ _ _
  have hlost (u : Mach) (hu : s.OutstWithin u) : s.OutstWithin (match t.fill with
      | some k => if t.replayRec.isSome then u else u.modRec t.ctx t.stage k (fun r => { r with lost := some (r.lost.getD .reclost) })
      | none => u) := by
    split
    · exact ite hu (hu.modRec _ _ _ _)
    · exact hu
  have hlogged := hlost _ ((h.logTask n t st kind block (m.ledgerOf t)).addWasted t.ctx t.stage t.heldBytes)
  have hleft := fun (u : Mach) (hu : s.OutstWithin u) (id : Nat) (v : Task) => ((hu.freeEngine n v).haltAsks n id).modSt (n := n)
    (f := fun x => { x with acc := x.acc.filter (fun a => a.owner != id) }) (List.Subset.refl _)
  exact ite ((hleft _ hlogged _ _).modTask _ _ _) ((hleft _ hlogged _ _).endTask _ _ _)

theorem fillRooms (n id fuel : Nat) : s.OutstWithin (m.fillRooms n id fuel) := by
  induction fuel generalizing m with
  | zero => exact h
  | succ fuel ih =>
    unfold Mach.fillRooms
    split
    · exact h
    · split
      · exact ih (h.modTask n id Task.takeRoom)
      · exact h

theorem queueTx (l : Nat) (x : TxMsg) : s.OutstWithin (m.queueTx l x) := h.of_sts rfl

theorem newReq (use : ReqUse) (dev : Nat) (link : Option Nat) (msg : LMsg) (cls : Nat) :
    s.OutstWithin (m.newReq use dev link msg cls) := by
  refine h.of_sts ?_
  cases link <;> rfl

theorem askPeer (n id : Nat) (first : Bool) : s.OutstWithin (m.askPeer n id first) := by
  have hroom : s.OutstWithin (if first then m.fillRooms n id 63 else m) := ite (h.fillRooms n id 63) h
  unfold Mach.askPeer
  generalize (if first then m.fillRooms n id 63 else m) = u at hroom
  dsimp only
  split
  · exact hroom
  · split
    · split
      · exact (hroom.modTask _ _ _).newReq _ _ _ _ _
      · split
        · exact hroom
        · exact (hroom.modTask _ _ _).queueTx _ _
    · exact (hroom.dropAsks _ _).failFetch _ _ _ _ _

end


end Mach.OutstWithin
end Sys2Proof.Machine
end

section
/-!
PROOFS. TRANSFER_ISSUE toward the links and CXL (R133, R144, R156, R280, R403): the access that is chosen holds its slot, and
what it sends goes out. LINK_LAYER_ACCEPTANCE (R30 step 6, R133): a send that has gone out frees its slot.
-/
namespace Sys2Proof.Machine

/-! ## Share 3 -/

/-- The machine in which the access chosen on the links and CXL has had its turn and is outstanding. -/
def Mach.onLinks (s : Mach) (n : Nat) (a : Access) : Mach :=
  (s.modSt n (fun x => { x with ctxTurn := aset 0 x.ctxTurn (12 + a.cls) (a.ctx + 1) })).modSt n
    (fun x => { x with
      acc := x.acc.filter (fun b => b.id != a.id), outst := x.outst ++ [{ a with urgent := false }]
      chanTurn := if a.chan < 8 then aset 0 x.chanTurn (16 * a.chan + (12 + a.cls)) a.taskKey else x.chanTurn })

section
variable {s : Mach} {n : Nat} {a : Access}

/-- No class bucket meters the links, and no weights order their classes (R152, R156). -/
theorem Mach.turned_of_links (h : a.share = 3) :
    s.turned n 3 a = s.modSt n (fun x => { x with ctxTurn := aset 0 x.ctxTurn (12 + a.cls) (a.ctx + 1) }) := by
  simp [Mach.turned, Station.countWrr, Mach.clsBucket, h]

theorem Mach.issued_of_links (h : a.share = 3) (htel : ∀ c, a.hook ≠ .telStation c) : s.issued n a = { a with urgent := false } := by
  calc s.issued n a = { a with urgent := a.cls == 0 && decide (a.share < 3) && !a.write, data := (s.issued n a).data } := rfl
    _ = { a with urgent := false } := by rw [Mach.issued_data htel, h]; simp

theorem Mach.putOut_of_links (h : a.share = 3) (s : Mach) (n : Nat) : s.putOut n a = s.modSt n (fun x => x.goesOut a) := by
  simp [Mach.putOut, h]

theorem Mach.putOut_turned_of_links (h : a.share = 3) :
    (s.turned n 3 a).putOut n { a with urgent := false } = s.onLinks n a := by
  rw [Mach.turned_of_links h, Mach.putOut_of_links (by exact h)]
  simp only [Mach.onLinks, Station.goesOut, Access.turnKey, h, if_true]
  rfl

/-- The access that is chosen on the links and CXL is out, and what it sends goes. -/
theorem Mach.transferIssue_of_links (hpwr : (s.st n).pwr = .active) (hchoose : s.choose n 3 = some a) (hshare : a.share = 3)
    (htel : ∀ c, a.hook ≠ .telStation c) :
    s.transferIssue n 3 = (s.onLinks n a).sendAway n { a with urgent := false } := by
  rw [Mach.transferIssue_of_choice hpwr hchoose (fun h => absurd h (by decide)), Mach.issueAccess_eq, Mach.issued_of_links hshare htel,
    Mach.putOut_turned_of_links hshare]

theorem Mach.onLinks_outst : ((s.onLinks n a).st n).outst = (s.st n).outst ++ [{ a with urgent := false }] := by
  simp [Mach.onLinks]

theorem Mach.onLinks_task (k : Nat) : (s.onLinks n a).task n k = s.task n k := by
  simp [Mach.onLinks, Mach.task]

end

/-- What an access sends on its way leaves it the last that is outstanding, or ends it: no posted write has gone out. -/
theorem exec_transferIssue_of_links {s : State} {n : Nat} {a : Access} {m : Mach} (hn : n < 6) (hpwr : (s.m.st n).pwr = .active)
    (hchoose : s.m.choose n 3 = some a) (hshare : a.share = 3) (hposted : a.posted = false) (htel : ∀ c, a.hook ≠ .telStation c)
    (hm : (s.m.onLinks n a).sendAway n { a with urgent := false } = m) (hout : (s.m.onLinks n a).OutstWithin m) :
    exec (.transferIssue n 3) s = .next (commit s m) := by
  have hissue : s.m.transferIssue n 3 = m := (Mach.transferIssue_of_links hpwr hchoose hshare htel).trans hm
  rw [exec_transferIssue hn (by decide), Mach.issueNext_of_unposted, hissue]
  intro b hb
  have hmem := hout n (hissue ▸ hb)
  rw [Mach.onLinks_outst] at hmem
  rcases List.mem_append.mp hmem with hold | hnew
  · exact .inl hold
  · rw [List.mem_singleton.mp hnew]
    exact .inr hposted

/-! ## What goes out -/

namespace Mach.OutstWithin
section
variable {s m : Mach} (h : s.OutstWithin m)
include h

theorem hostWrite (port : Nat) (use : HostUse) (addr : Nat) (l : List Byte) (retry : Bool) :
    s.OutstWithin (m.hostWrite port use addr l retry) := h.of_sts rfl
theorem hostRead (port : Nat) (use : HostUse) (addr len : Nat) (retry : Bool) :
    s.OutstWithin (m.hostRead port use addr len retry) := h.of_sts rfl

theorem sendPut (n id blk : Nat) : s.OutstWithin (m.sendPut n id blk) := by
  unfold Mach.sendPut
  split
  · exact h
  · split
    · exact ((h.modTask _ _ _).modTask _ _ _).newReq _ _ _ _ _
    · exact h

theorem sendFar (n id i : Nat) : s.OutstWithin (m.sendFar n id i) := by
  unfold Mach.sendFar
  split
  · exact h
  · exact ((h.modTask _ _ _).modTask _ _ _).overList (fun u p hu => hu.hostWrite _ _ _ _ _) _

end
end Mach.OutstWithin

/-- A task whose Inn words are sound, and one that is gone, lets a send go on. -/
theorem Mach.readInn_of_clean {s : Mach} {n id blk : Nat} {go : Mach → Mach} (h : ∀ u, s.task n id = some u → u.ecc = .clean) :
    s.readInn n id blk go = go s := by
  unfold Mach.readInn
  split
  · rfl
  · next t ht => rw [h t ht]

/-- The host lines of a write toward a host target. -/
def Mach.putLines (m : Mach) (a : Access) (use : HostUse) : Mach :=
  overList (fun (m : Mach) (q : Nat × List Byte) => m.hostWrite 0 use q.1 q.2 false) m (hostLines a.addr (a.data.map (fun q => q.2)))

theorem Mach.OutstWithin.putLines {s m : Mach} (h : s.OutstWithin m) (a : Access) (use : HostUse) :
    s.OutstWithin (m.putLines a use) := h.overList (fun _ _ hu => hu.hostWrite _ _ _ _ _) _

section
variable {m : Mach} {n t b : Nat} {a : Access}

theorem Mach.sendAway_of_put (h : a.hook = .putSend t b) (hclean : ∀ u, m.task n t = some u → u.ecc = .clean) :
    m.sendAway n a = m.sendPut n t b := by
  simp only [Mach.sendAway, h, Mach.readInn_of_clean hclean]

theorem Mach.sendAway_of_far (h : a.hook = .farSend t b) (hclean : ∀ u, m.task n t = some u → u.ecc = .clean) :
    m.sendAway n a = m.sendFar n t b := by
  simp only [Mach.sendAway, h, Mach.readInn_of_clean hclean]

theorem Mach.sendAway_of_ask {f : Bool} (h : a.hook = .peerAsk t f) : m.sendAway n a = m.askPeer n t f := by
  simp only [Mach.sendAway, h]

end

/-- Reads that go out on CXL: the port and what each is for (R332; log entry 120). -/
def Hook.hostReads (n : Nat) : Hook → Option (Nat × HostUse)
  | .slotRead t i => some (n % 2, .farRead n t i)
  | .farBack t => some (n % 2, .farBack n t)
  | .xferRead r p o tgt => some (0, .xferRead r p o tgt)
  | .xferBack r p => some (0, .xferBack r p)
  | .ckptBack c => some (0, .ckptBack c)
  | _ => none

/-- Writes that go out on CXL as host lines, of the access with an id. -/
def Hook.hostWrites (id : Nat) : Hook → Option HostUse
  | .xferWrite r p o => some (.xferLine r p o)
  | .ckptWrite c => some (.ckptLine c id)
  | _ => none

section
variable {a : Access} {n : Nat} (hshare : a.share = 3) (m : Mach)
include hshare

theorem Mach.sendAway_of_read {p : Nat × HostUse} (h : a.hook.hostReads n = some p) :
    m.sendAway n a = m.hostRead p.1 p.2 a.addr a.len false := by
  unfold Hook.hostReads at h
  split at h <;> cases h <;> next hh => simp only [Mach.sendAway, Mach.toHost, hh, hshare, if_true]

theorem Mach.sendAway_of_write {use : HostUse} (h : a.hook.hostWrites a.id = some use) : m.sendAway n a = m.putLines a use := by
  unfold Hook.hostWrites at h
  split at h <;> cases h <;> next hh => simp only [Mach.sendAway, Mach.toHost, hh, hshare, if_true, Mach.putLines]

end

/-! ## Acceptance -/

/-- A send of a task has gone out: its PUT has been sent on its link, or no host line of it is held. -/
def Mach.HasGoneOut (s : Mach) (n : Nat) (h : Hook) : Prop :=
  (∀ t b, h = .putSend t b → ∀ r ∈ s.lodge.reqs, r.use = .put n t b ∨ (∃ c o, r.use = .putOld c o n t b) → r.sent = true) ∧
    ∀ t b, h = .farSend t b → ∀ o ∈ s.hs.ops, o.use = .farLine n t → o.issued = true

theorem Mach.wentOut_iff {s : Mach} {n : Nat} {h : Hook} (hsend : ∃ t b, h = .putSend t b ∨ h = .farSend t b) :
    s.wentOut n h = true ↔ s.HasGoneOut n h := by
  obtain ⟨t, b, rfl | rfl⟩ := hsend
  · simp [Mach.wentOut, Mach.HasGoneOut, -Bool.exists_bool]
    refine forall₂_congr fun r _ => imp_congr ?_ Iff.rfl
    cases r.use <;> simp [and_assoc]
  · simp [Mach.wentOut, Mach.HasGoneOut]

section
variable {s : Mach} {n id : Nat} {a : Access} {t : Task}

/-- The station in which a send has freed its slot. -/
def Station.freed (x : Station) (id : Nat) : Station := { x with outst := x.outst.filter (fun b => b.id != id) }

theorem Mach.linkAccept_of_held (ha : (s.st n).outst.find? (fun b => b.id == id) = some a) (hout : s.wentOut n a.hook = false) :
    s.linkAccept n id = s := by simp [Mach.linkAccept, ha, hout]

variable (ha : (s.st n).outst.find? (fun b => b.id == id) = some a) (hout : s.wentOut n a.hook = true)
include ha hout

theorem Mach.linkAccept_of_noTask (ht : s.task n a.owner = none) : s.linkAccept n id = s.dropAcc n id := by
  have hgone : (s.dropAcc n id).task n a.owner = none := by simpa using ht
  simp only [Mach.dropAcc] at hgone
  simp [Mach.linkAccept, ha, hout, hgone, Mach.dropAcc]

theorem Mach.linkAccept_of_task (ht : s.task n a.owner = some t) (hph : t.ph ≠ .fail) :
    s.linkAccept n id = (s.dropAcc n id).sendsGone n t.id := by
  have hgoes : (s.dropAcc n id).task n a.owner = some t := by simpa using ht
  simp only [Mach.dropAcc] at hgoes
  simp [Mach.linkAccept, ha, hout, hgoes, hph, Mach.dropAcc]

end

/-- A stash toward a tier whose blocks have all gone out (R30 step 6), in a station as it stands. -/
def Task.allGone (t : Task) (x : Station) : Prop :=
  t.kind = .stash ∧ (t.path = .peer ∨ t.path = .far) ∧ (t.ph = .move ∨ t.ph = .run) ∧ t.allCoded = true ∧ t.blks ≠ [] ∧
    t.sendsQueued = t.blks.length ∧ x.sending t.id = false

section
variable {s : Mach} {n : Nat} {t : Task}

theorem Mach.sendsGone_of_more (ht : s.task n t.id = some t) (h : ¬t.allGone (s.st n)) : s.sendsGone n t.id = s := by
  simp only [Mach.sendsGone, ht]
  refine if_neg fun hall => h ?_
  simpa [Task.allGone, and_assoc] using hall

theorem Mach.sendsGone_of_all (ht : s.task n t.id = some t) (h : t.allGone (s.st n)) :
    s.sendsGone n t.id = s.writePending n t.id := by
  simp only [Mach.sendsGone, ht]
  refine if_pos ?_
  simpa [Task.allGone, and_assoc] using h

end

/-- A task as its PENDING record is written: rooms beyond those it fills go back. -/
def Task.pended (t : Task) : Task := { t with ph := .recWrite, rooms := min t.rooms (packRooms (t.blks.map Blk.sealedLen)).1 }

/-- The write of a task's PENDING record. -/
def Mach.pendingAcc (s : Mach) (t : Task) (k : Nat) : Access :=
  recAccess t.ctx t.id (s.recAddr t.ctx t.stage k) (s.tierRec t .pending) (.recWrite t.id)

theorem Mach.writePending_of_fill {s : Mach} {n k : Nat} {t : Task} (ht : s.task n t.id = some t) (hk : t.fill = some k) :
    (s.writePending n t.id).task n t.id = some t.pended ∧ ((s.writePending n t.id).st n).outst = (s.st n).outst ∧
      ((s.writePending n t.id).st n).acc = (s.st n).acc ++ [{ s.pendingAcc t k with id := (s.st n).nextId }] := by
  have heq : s.writePending n t.id = ((s.modTask n t.id Task.pended).modRec t.ctx t.stage k
      (fun r => { r with rc := s.tierRec t .pending })).queueAcc n (s.pendingAcc t k) := by
    simp only [Mach.writePending, ht, Mach.writeRec, hk]
    rfl
  have hst : ((s.modTask n t.id Task.pended).modRec t.ctx t.stage k (fun r => { r with rc := s.tierRec t .pending })).st n =
      { s.st n with tasks := modWhere (fun y => y.id == t.id) Task.pended (s.st n).tasks } :=
    Mach.modSt_st s n (fun x => { x with tasks := modWhere (fun y => y.id == t.id) Task.pended x.tasks })
  rw [heq]
  refine ⟨?_, ?_, ?_⟩
  · rw [Mach.queueAcc_task]
    exact Mach.modTask_task_same ht fun _ h => h
  · rw [Mach.queueAcc_outst, hst]
  · rw [Mach.queueAcc_acc, hst]

theorem exec_linkLayerAcceptance {s : State} {n id : Nat} (hn : n < 6) :
    exec (.linkLayerAcceptance n id) s = .next (commit s (s.m.linkAccept n id)) :=
  exec_of_act (fun _ m => m.linkAccept n id) rfl (by simp [Instr.wf, okSt, Config.nStation, hn])

theorem stationBecomes_dropAcc {s : State} (hq : s.Quiet) (n id : Nat) :
    StationBecomes s (commit s (s.m.dropAcc n id)) n { s.m.st n with outst := (s.m.st n).outst.filter (fun b => b.id != id) } := by
  refine ⟨?_, fun k hk => ?_, commit_of_sts hq rfl⟩
  · rw [commit_st, Mach.dropAcc_st]
  · rw [commit_st, Mach.dropAcc_st_ne hk]

/-- Settles O25: what an access sends on its way leaves no posted write behind, and a send that is accepted frees its slot
before its task is looked at. -/
theorem sendsGoOut : Obligations.SendsGoOut := by
  refine ⟨?issue, ?accept⟩
  case issue =>
    intro s n a hn hpwr hchoose hshare hposted m clean goes lines
    have hout : (s.m.onLinks n a).OutstWithin (s.m.onLinks n a) := .refl _
    have hgoes {u : Mach} (htel : ∀ c, a.hook ≠ .telStation c) (hu : (s.m.onLinks n a).sendAway n { a with urgent := false } = u)
        (hwithin : (s.m.onLinks n a).OutstWithin u) : goes u :=
      exec_transferIssue_of_links hn hpwr hchoose hshare hposted htel hu hwithin
    have hclean {t : Nat} (h : clean t) : ∀ u, (s.m.onLinks n a).task n t = some u → u.ecc = .clean := by
      rwa [Mach.onLinks_task]
    have hread {p : Nat × HostUse} (h : a.hook.hostReads n = some p) : goes (m.hostRead p.1 p.2 a.addr a.len false) := by
      refine hgoes (fun c hc => ?_) (Mach.sendAway_of_read (by exact hshare) _ (by exact h)) (hout.hostRead _ _ _ _ _)
      rw [hc] at h
      cases h
    have hwrite {use : HostUse} (h : a.hook.hostWrites a.id = some use) : lines use := by
      refine hgoes (fun c hc => ?_) (Mach.sendAway_of_write (by exact hshare) _ (by exact h)) (hout.putLines a use)
      rw [hc] at h
      cases h
    exact ⟨fun t b h hc => hgoes (by simp [h]) (Mach.sendAway_of_put (by exact h) (hclean hc)) (hout.sendPut n t b),
      fun t b h hc => hgoes (by simp [h]) (Mach.sendAway_of_far (by exact h) (hclean hc)) (hout.sendFar n t b),
      fun t f h => hgoes (by simp [h]) (Mach.sendAway_of_ask (by exact h)) (hout.askPeer n t f),
      fun t i h => hread (by rw [h]; rfl), fun t h => hread (by rw [h]; rfl), fun r p o d h => hread (by rw [h]; rfl),
      fun r p h => hread (by rw [h]; rfl), fun c h => hread (by rw [h]; rfl),
      fun r p o h => hwrite (by rw [h]; rfl), fun c h => hwrite (by rw [h]; rfl)⟩
  case accept =>
    intro s n a hn hq ha hsend free out
    have hwent : s.m.wentOut n a.hook = true ↔ out := Mach.wentOut_iff hsend
    have hexec := exec_linkLayerAcceptance (s := s) (id := a.id) hn
    refine ⟨fun hnot => ?held, fun hgo htask => ?noTask, fun t hgo htask hph => ?task⟩
    case held =>
      rw [hexec, Mach.linkAccept_of_held ha (Bool.eq_false_iff.mpr (mt hwent.mp hnot)), commit_self hq]
    case noTask =>
      rw [Mach.linkAccept_of_noTask ha (hwent.mpr hgo) htask] at hexec
      exact ⟨_, hexec, stationBecomes_dropAcc hq n a.id⟩
    case task =>
      rw [Mach.linkAccept_of_task ha (hwent.mpr hgo) htask hph] at hexec
      have hid : t.id = a.owner := Mach.task_id htask
      have ht : (s.m.dropAcc n a.id).task n t.id = some t := by rw [Mach.dropAcc_task, hid, htask]
      have hst : (s.m.dropAcc n a.id).st n = free := Mach.dropAcc_st
      intro whole
      refine ⟨fun hnot => ?_, fun k hwhole hk => ?_⟩
      · rw [Mach.sendsGone_of_more ht (hst ▸ hnot)] at hexec
        exact ⟨_, hexec, stationBecomes_dropAcc hq n a.id⟩
      · obtain ⟨htask', hout', hacc'⟩ := Mach.writePending_of_fill ht hk
        rw [Mach.sendsGone_of_all ht (hst ▸ hwhole)] at hexec
        rw [hst] at hout' hacc'
        exact ⟨_, _, hexec, htask', hout', hacc', rfl, rfl, rfl, rfl⟩

end Sys2Proof.Machine
end

section
/-!
PROOFS. What XFER and INLINE put on channel 7 as they start (R140–R146, R342, R343).
-/
namespace Sys2Proof.Machine

/-! ## The commands -/

/-- A descriptor command of the right opcode and form does that opcode's work, whatever the work is. -/
theorem DescReady.act_form {s : State} {r : Nat} {d : Desc} (h : DescReady s r d) {c : Instr} (hc : c.wf = okRing r) {op : Nat}
    (hop : dOp d.line = op) {p : List W64 → Bool} (hp : p d.line = true) (f : Mach → DescRef → List W64 → Mach) :
    act c s (fun _ m => m.startAwake r op p f) =
      .next (commit s ((f (s.m.started (d.refIn r)) (d.refIn r) d.line).settle r 16)) := by
  obtain ⟨hring, -, hawake, hnext, -, hsound⟩ := h
  have hsettled : s.m.settle r 16 = s.m := Mach.settle_of_sound hnext hsound 16
  rw [act_of_wf (by simp [hc, okRing, hring])]
  simp [Mach.startAwake, Mach.startDesc, hawake, hsettled, hnext, hsound, hop, hp, Mach.started]

/-- The four commands of XFER, by the MODE of their descriptor (R144). -/
theorem DescReady.exec_xfer {s : State} {r : Nat} {d : Desc} (h : DescReady s r d) {c : Instr}
    (hc : (c, xMode d.line) ∈ [(Instr.copy r, 0), (.fill r, 1), (.compare r, 2), (.compareConst r, 3)]) (hop : dOp d.line = opXfer) :
    exec c s = .next (commit s (((s.m.started (d.refIn r)).startXfer (d.refIn r) d.line).settle r 16)) := by
  simp only [List.mem_cons, Prod.mk.injEq, List.not_mem_nil, or_false] at hc
  rcases hc with ⟨rfl, hmode⟩ | ⟨rfl, hmode⟩ | ⟨rfl, hmode⟩ | ⟨rfl, hmode⟩ <;>
    exact h.act_form rfl hop (by simp [hmode]) Mach.startXfer

theorem DescReady.exec_inline {s : State} {r : Nat} {d : Desc} (h : DescReady s r d) (hop : dOp d.line = opInline) :
    exec (.inline r) s = .next (commit s (((s.m.started (d.refIn r)).startInline (d.refIn r) d.line).settle r 16)) :=
  h.act_form rfl hop rfl Mach.startInline

/-! ## The end of a descriptor of no bytes -/

section
variable (s : Mach) (ch : Nat) (st : Status) (k : Nat)

/-- The end of a channel's work writes its entry and may raise its interrupt. -/
theorem Mach.chanEnd_keeps : (s.chanEnd ch st k).hs = s.hs ∧ (s.chanEnd ch st k).sts = s.sts ∧
    ((s.chanEnd ch st k).chan ch).status = st := by
  unfold Mach.chanEnd
  dsimp only
  split
  · refine ⟨by simp [Mach.chanNote], by simp [Mach.chanNote], ?_⟩
    simp [Mach.chan, Mach.chanNote, Mach.modChan]
  · exact ⟨rfl, rfl, by simp [Mach.chanNote]⟩

end

theorem commit_chan (s : State) (m : Mach) (ch : Nat) : (commit s m).m.chan ch = m.chan ch := rfl

theorem Mach.complete_chan (s : Mach) (rank : Nat) (d : DescRef) (st : Status) (a b ch : Nat) :
    (s.complete rank d st a b).chan ch = s.chan ch := rfl

/-- A transfer of no bytes ends EMPTY, in its channel's entry too (R142; log entry 36). -/
theorem DescReady.next_empty {s : State} {r : Nat} {d : Desc} (h : DescReady s r d) {c : Instr} {ch : Nat}
    (hc : exec c s = .next (commit s
      ((((s.m.started (d.refIn r)).chanEnd ch .empty 0).complete ch (d.refIn r) .empty 0 0).settle r 16))) :
    ∃ t, exec c s = .next t ∧ Ends s t (d.refIn r) .empty 0 ∧ (t.m.chan ch).status = .empty ∧ t.m.sts = s.m.sts := by
  obtain ⟨hhs, hsts, hstatus⟩ := (s.m.started (d.refIn r)).chanEnd_keeps ch .empty 0
  obtain ⟨hnext, hends⟩ := h.next_ends hc (.of_hs hhs)
  refine ⟨_, hnext, hends, ?_, ?_⟩
  · rw [commit_chan, Mach.complete_chan, hstatus]
  · rw [commit_m, Mach.complete_sts, hsts, Mach.started_sts]

/-! ## Accesses that join a station -/

/-- From `s` to `m` the accesses `as` have joined station `n`, and of the contexts, of what is outstanding and of the other
stations nothing has changed. -/
structure Mach.Queues (s m : Mach) (n : Nat) (as : List Access) : Prop where
  acc : (m.st n).acc = (s.st n).acc ++ as
  outst : (m.st n).outst = (s.st n).outst
  others : ∀ k, k ≠ n → m.st k = s.st k
  ctxs : m.ctxs = s.ctxs
  out : m.out = s.out

section
variable (s : Mach) (n : Nat) (a b : Access)

theorem Mach.queues_one : s.Queues (s.queueAcc n a) n [{ a with id := (s.st n).nextId }] :=
  ⟨Mach.queueAcc_acc .., Mach.queueAcc_outst .., fun _ hk => Mach.queueAcc_st_ne _ _ hk, Mach.queueAcc_ctxs ..,
    Mach.queueAcc_out ..⟩

theorem Mach.queues_two : s.Queues ((s.queueAcc n a).queueAcc n b) n
    [{ a with id := (s.st n).nextId }, { b with id := (s.st n).nextId + 1 }] := by
  have hid : ((s.queueAcc n a).st n).nextId = (s.st n).nextId + 1 := by rw [Mach.queueAcc_st]
  refine ⟨?_, ?_, fun k hk => ?_, by simp, by simp⟩
  · rw [Mach.queueAcc_acc, Mach.queueAcc_acc, hid, List.append_assoc]
    rfl
  · rw [Mach.queueAcc_outst, Mach.queueAcc_outst]
  · rw [Mach.queueAcc_st_ne _ _ hk, Mach.queueAcc_st_ne _ _ hk]

end

/-! ## A transfer of one part -/

/-- The transfer that an XFER starts (R144). -/
def xferOf (d : DescRef) (l : List W64) : Xfer where
  desc := d
  st := xStation l
  mode := match xMode l with
    | 0 => .copy
    | 1 => .fill
    | 2 => .compare
    | _ => .compareConst
  src := xSrc l
  srcHost := xSrcHost l
  dst := dAddr l
  dstHost := xDstHost l
  count := xCount l
  cls := xClass l
  posted := xPosted l
  pattern := xPattern l

section
variable {s : Mach} {x : Xfer} {r p : Nat}

/-- The accesses of the part at offset 0 of a transfer (R144–R147). -/
def Mach.firstPart (s : Mach) (x : Xfer) : Mach :=
  match x.mode with
  | .copy => s.xferReadAt x 0 x.count false
  | .fill => s.xferWriteAt x 0 (patternAt x.pattern (x.dst + 0) x.count)
  | .compare => (s.xferReadAt x 0 x.count false).xferReadAt x 0 x.count true
  | .compareConst => s.xferReadAt x 0 x.count true

theorem Mach.pumpXfer_of_issued (hx : s.xfer r p = some x) (h : x.count ≤ x.issued) (k : Nat) : s.pumpXfer r p k = s := by
  cases k <;> simp [Mach.pumpXfer, hx, h]

theorem Mach.modXfer_xfer (hx : s.xfer r p = some x) {f : Xfer → Xfer} (hf : ∀ x, (f x).desc = x.desc) :
    (s.modXfer r p f).xfer r p = some (f x) := by
  have hdesc : ∀ y : Xfer, (if y.desc == { ring := r, pos := p } then f y else y).desc = y.desc := fun y => by
    split
    · exact hf y
    · rfl
  have hself : (x.desc == { ring := r, pos := p }) = true := by simpa using List.find?_some hx
  simp only [Mach.xfer, Mach.modXfer, Mach.modHs, modWhere, List.find?_map, Function.comp_def, hdesc] at hx ⊢
  rw [hx, Option.map_some, if_pos hself]

/-- The access of a read of `n` bytes of a transfer at offset `o` of its source or its target. -/
def Xfer.readAcc (x : Xfer) (o n : Nat) (target : Bool) : Access where
  id := 0
  share := 0
  cls := x.cls
  ctx := x.desc.ring / 4
  chan := 7
  cost := fabCost ((if target then x.dst else x.src) + o)
  addr := (if target then x.dst else x.src) + o
  len := n
  hook := .xferRead x.desc.ring x.desc.pos o target

theorem Mach.xferReadAt_of_local {o n : Nat} {target : Bool} (hhost : (if target then x.dstHost else x.srcHost) = false) :
    s.xferReadAt x o n target = s.queueAcc x.st (x.readAcc o n target) := by
  simp [Mach.xferReadAt, Mach.xferAcc, hhost, Xfer.readAcc]

theorem Mach.xferReadAt_hs (o n : Nat) (target : Bool) : (s.xferReadAt x o n target).hs = s.hs := by
  simp [Mach.xferReadAt, Mach.xferAcc]

theorem Mach.firstPart_hs (hhost : x.dstHost = false) : (s.firstPart x).hs = s.hs := by
  unfold Mach.firstPart
  split
  · exact Mach.xferReadAt_hs ..
  · rw [Mach.xferWriteAt_of_local hhost, Mach.queueAcc_hs]
  · rw [Mach.xferReadAt_hs, Mach.xferReadAt_hs]
  · exact Mach.xferReadAt_hs ..

/-- Before its first part a transfer has asked for nothing. -/
structure Xfer.Fresh (x : Xfer) : Prop where
  stop : x.stop = false
  issued : x.issued = 0
  cuts : x.cuts = []

/-- A transfer once a part of its first `n` bytes is on its way. -/
def Xfer.firstCut (x : Xfer) (n : Nat) : Xfer := { x with issued := 0 + n, cuts := x.cuts ++ [(0, n)] }

/-- A transfer that ends before the next 4 KiB boundary of its target is one part (R145). -/
theorem Mach.pumpXfer_of_onePart (hx : s.xfer r p = some x) (hfresh : x.Fresh) (hcount : x.count ≠ 0)
    (hfit : x.count ≤ 4096 - x.dst % 4096) (hhost : x.dstHost = false) (k : Nat) :
    s.pumpXfer r p (k + 1) = (s.modXfer r p (·.firstCut x.count)).firstPart x := by
  obtain ⟨hstop, hissued, hcuts⟩ := hfresh
  have hcut : x.cutAt 0 = x.count := by simp [Xfer.cutAt, hfit]
  have hcutOff : ((s.modXfer r p (·.firstCut x.count)).firstPart x).xfer r p = some (x.firstCut x.count) := by
    rw [Mach.xfer, Mach.firstPart_hs hhost]
    exact Mach.modXfer_xfer hx fun _ => rfl
  have hstep : s.pumpXfer r p (k + 1) = ((s.modXfer r p (·.firstCut x.count)).firstPart x).pumpXfer r p k := by
    rw [Mach.pumpXfer, hx]
    simp only [hstop, hissued, hcuts, hcut]
    rw [if_neg (by simp [hcount])]
    rfl
  rw [hstep, Mach.pumpXfer_of_issued hcutOff (by simp [Xfer.firstCut])]

end

/-! ## XFER -/

/-- The descriptor `d` with words `l` asks for a transfer of one part, between local operands that it may use, that is not
in progress (R140, R144, R148). -/
structure Mach.OnePart (s : Mach) (d : DescRef) (l : List W64) : Prop where
  count : xCount l ≠ 0
  fits : xCount l ≤ 4096 - dAddr l % 4096
  dstLocal : xDstHost l = false
  posted : xPosted l = true → s.testMode = true ∨ s.allIdle = true
  target : s.targetBad (dAddr l) (xCount l) = false
  source : xHasSrc l = true → xSrcHost l = false ∧ (s.allIdle = true ∨ rangeInSram (xSrc l) (xCount l) = false)
  new : s.xfer d.ring d.pos = none

section
variable {s : Mach} {d : DescRef} {l : List W64}

theorem xferOf_fresh (d : DescRef) (l : List W64) : (xferOf d l).Fresh := ⟨rfl, rfl, rfl⟩

theorem Mach.startXfer_of_empty (hcount : xCount l = 0) :
    s.startXfer d l = (s.chanEnd (8 * xStation l + 7) .empty 0).complete (8 * xStation l + 7) d .empty 0 0 := by
  rw [Mach.startXfer, if_pos hcount]

/-- The transfer joins those in progress, its first part on its way. -/
def Mach.joined (s : Mach) (d : DescRef) (l : List W64) : Mach :=
  (s.modHs (fun h => { h with xfers := h.xfers ++ [xferOf d l] })).modXfer d.ring d.pos (·.firstCut (xCount l))

theorem Mach.OnePart.startXfer (h : s.OnePart d l) : s.startXfer d l = (s.joined d l).firstPart (xferOf d l) := by
  obtain ⟨hcount, hfits, hdst, hposted, htarget, hsource, hnew⟩ := h
  have hmode : (xPosted l && !s.testMode && !s.allIdle) = false := by
    cases hp : xPosted l
    · rfl
    · obtain ht | hi := hposted hp
      · simp [ht]
      · simp [hi]
  have hsrcHost : (xHasSrc l && xSrcHost l) = false := by
    cases hs : xHasSrc l
    · rfl
    · exact (hsource hs).1
  have hsrcBad : (xHasSrc l && !xSrcHost l && !s.allIdle && rangeInSram (xSrc l) (xCount l)) = false := by
    cases hs : xHasSrc l
    · rfl
    · obtain hi | hr := (hsource hs).2
      · simp [hi]
      · simp [hr]
  have hfound : (s.modHs (fun h => { h with xfers := h.xfers ++ [xferOf d l] })).xfer d.ring d.pos = some (xferOf d l) := by
    rw [Mach.xfer] at hnew ⊢
    simp [Mach.modHs, List.find?_append, hnew, xferOf]
  have hstart : s.startXfer d l =
      (s.modHs (fun h => { h with xfers := h.xfers ++ [xferOf d l] })).pumpXfer d.ring d.pos 16 := by
    rw [Mach.startXfer, if_neg hcount, if_neg (by simp [hmode]), if_neg (by simp [hdst, htarget]), if_neg (by simp [hsrcBad]),
      if_neg (by simp [hdst, hsrcHost])]
    rfl
  rw [hstart, Mach.pumpXfer_of_onePart hfound (xferOf_fresh d l) hcount hfits hdst 15]
  rfl

/-- The accesses of a transfer's first part, of all its bytes (R144). -/
def Xfer.firstAccs (x : Xfer) (id : Nat) : List Access :=
  match x.mode with
  | .copy => [{ x.readAcc 0 x.count false with id }]
  | .fill => [{ x.writeAcc 0 (patternAt x.pattern (x.dst + 0) x.count) with id }]
  | .compare => [{ x.readAcc 0 x.count false with id }, { x.readAcc 0 x.count true with id := id + 1 }]
  | .compareConst => [{ x.readAcc 0 x.count true with id }]

theorem Mach.queues_firstPart {x : Xfer} (hdst : x.dstHost = false)
    (hsrc : x.mode = .copy ∨ x.mode = .compare → x.srcHost = false) :
    s.Queues (s.firstPart x) x.st (x.firstAccs (s.st x.st).nextId) := by
  unfold Mach.firstPart Xfer.firstAccs
  cases hmode : x.mode with
  | copy =>
    have hlocal : x.srcHost = false := hsrc (.inl hmode)
    simpa only [Mach.xferReadAt_of_local (target := false) hlocal] using Mach.queues_one ..
  | fill => simpa only [Mach.xferWriteAt_of_local hdst] using Mach.queues_one ..
  | compare =>
    have hlocal : x.srcHost = false := hsrc (.inr hmode)
    simpa only [Mach.xferReadAt_of_local (target := false) hlocal, Mach.xferReadAt_of_local (target := true) hdst] using
      Mach.queues_two ..
  | compareConst => simpa only [Mach.xferReadAt_of_local (target := true) hdst] using Mach.queues_one ..

/-- Only COPY and COMPARE have a source. -/
theorem Mach.OnePart.srcLocal (h : s.OnePart d l) (hmode : (xferOf d l).mode = .copy ∨ (xferOf d l).mode = .compare) :
    (xferOf d l).srcHost = false := by
  refine (h.source ?_).1
  unfold xferOf at hmode
  rw [xHasSrc]
  split at hmode <;> simp_all

theorem Mach.OnePart.started (h : s.OnePart d l) (e : DescRef) : (s.started e).OnePart d l := by
  obtain ⟨hcount, hfits, hdst, hposted, htarget, hsource, hnew⟩ := h
  exact ⟨hcount, hfits, hdst, hposted, htarget, hsource, hnew⟩

end

/-! ## What the commands leave -/

/-- From `s` to `t` the accesses `as` have joined station `n`, and nothing else has changed of the stations, of the contexts
and of memory. -/
def Puts (s t : State) (n : Nat) (as : List Access) : Prop :=
  (t.m.st n).acc = (s.m.st n).acc ++ as ∧ (t.m.st n).outst = (s.m.st n).outst ∧ (∀ k, k ≠ n → t.m.st k = s.m.st k) ∧
    t.m.ctxs = s.m.ctxs ∧ t.mem = s.mem

section
variable {s : State} {m b : Mach} {n : Nat} {as : List Access}

theorem Mach.Queues.puts (h : b.Queues m n as) (hq : s.Quiet) (hst : ∀ k, b.st k = s.m.st k) (hctxs : b.ctxs = s.m.ctxs)
    (hout : b.out = s.m.out) : Puts s (commit s m) n as := by
  have hnone : m.out = [] := by rw [h.out, hout, hq]
  rw [commit_of_out_nil hnone]
  refine ⟨?_, ?_, fun k hk => ?_, ?_, rfl⟩
  · rw [h.acc, hst]
  · rw [h.outst, hst]
  · rw [h.others k hk, hst]
  · rw [h.ctxs, hctxs]

variable {r : Nat} {d : Desc} (h : DescReady s r d)
include h

/-- A transfer of one part has started, its first accesses on its channel. -/
theorem DescReady.xfer_onePart {c : Instr}
    (hc : (c, xMode d.line) ∈ [(Instr.copy r, 0), (.fill r, 1), (.compare r, 2), (.compareConst r, 3)]) (hop : dOp d.line = opXfer)
    (hpart : s.m.OnePart (d.refIn r) d.line) :
    ∃ t, exec c s = .next t ∧ Starts s t (d.refIn r) ∧
      Puts s t (xStation d.line) ((xferOf (d.refIn r) d.line).firstAccs (s.m.st (xStation d.line)).nextId) := by
  have hnext := h.exec_xfer hc hop
  rw [(hpart.started (d.refIn r)).startXfer] at hnext
  have hhs := Mach.firstPart_hs (s := (s.m.started (d.refIn r)).joined (d.refIn r) d.line) (x := xferOf (d.refIn r) d.line)
    hpart.dstLocal
  obtain ⟨hnext, hstarts⟩ := h.next_starts hnext ⟨by rw [hhs]; rfl, by rw [hhs]; rfl⟩
  have hqueues := Mach.queues_firstPart (s := (s.m.started (d.refIn r)).joined (d.refIn r) d.line)
    (x := xferOf (d.refIn r) d.line) hpart.dstLocal hpart.srcLocal
  exact ⟨_, hnext, hstarts, hqueues.puts h.quiet (fun _ => rfl) rfl rfl⟩

/-- INLINE has started, its bytes in one write. -/
theorem DescReady.inline_write (hop : dOp d.line = opInline) (hlen : dLen d.line ≠ 0)
    (htarget : s.m.targetBad (dAddr d.line) (dLen d.line) = false) :
    ∃ t, exec (.inline r) s = .next t ∧ Starts s t (d.refIn r) ∧ Puts s t (fieldStation (dAddr d.line)) [{
      id := (s.m.st (fieldStation (dAddr d.line))).nextId, share := 1, cls := 1, ctx := r / 4, chan := 7
      cost := fabCost (dAddr d.line), addr := dAddr d.line, len := dLen d.line
      data := placed (dAddr d.line) (((dLine d.line).drop 16).take (dLen d.line)), write := true, hook := .inlineWrite r d.pos }] := by
  have htarget' : (s.m.started (d.refIn r)).targetBad (dAddr d.line) (dLen d.line) = false := htarget
  have hnext := h.exec_inline hop
  rw [Mach.startInline, if_neg hlen, if_neg (by simp [htarget'])] at hnext
  obtain ⟨hnext, hstarts⟩ := h.next_starts hnext (.of_hs (Mach.queueAcc_hs ..))
  exact ⟨_, hnext, hstarts, (Mach.queues_one ..).puts h.quiet (fun _ => rfl) rfl rfl⟩

end

/-- Settles O41: a descriptor of no bytes ends in its command; else it starts, and what it puts on channel 7 are the accesses
of its first part, by its mode. -/
theorem transferDescriptors : Obligations.TransferDescriptors := by
  intro s r d h ref l n id read pattern puts
  refine ⟨fun c hc hop => ⟨fun hcount => ?_, fun hcount hfits hdst hposted htarget hsource hnew => ?_⟩,
    fun hop => ⟨fun hlen => ?_, fun hlen htarget => ?_⟩⟩
  · refine h.next_empty ?_
    rw [h.exec_xfer hc hop, Mach.startXfer_of_empty hcount]
  · obtain ⟨t, hnext, hstarts, hputs⟩ := h.xfer_onePart hc hop ⟨hcount, hfits, hdst, hposted, htarget, hsource, hnew⟩
    have hcopy (hmode : xMode l = 0) : (xferOf ref l).firstAccs id = [read (xSrc l) id false] := by
      simp [Xfer.firstAccs, xferOf, hmode, Xfer.readAcc, read, ref]
    have hfill (hmode : xMode l = 1) : (xferOf ref l).firstAccs id = [{
        id, share := 1, cls := xClass l, ctx := r / 4, chan := 7, cost := fabCost (dAddr l), addr := dAddr l
        len := xCount l, data := placed (dAddr l) pattern, write := true, posted := xPosted l
        hook := .xferWrite r d.pos 0 }] := by
      simp [Xfer.firstAccs, xferOf, hmode, Xfer.writeAcc, patternAt, pattern, ref]
    have hcompare (hmode : xMode l = 2) :
        (xferOf ref l).firstAccs id = [read (xSrc l) id false, read (dAddr l) (id + 1) true] := by
      simp [Xfer.firstAccs, xferOf, hmode, Xfer.readAcc, read, ref]
    have hconst (hmode : xMode l = 3) : (xferOf ref l).firstAccs id = [read (dAddr l) id true] := by
      simp [Xfer.firstAccs, xferOf, hmode, Xfer.readAcc, read, ref]
    exact ⟨t, hnext, hstarts, fun hmode => hcopy hmode ▸ hputs, fun hmode => hfill hmode ▸ hputs,
      fun hmode => hcompare hmode ▸ hputs, fun hmode => hconst hmode ▸ hputs⟩
  · refine h.next_empty ?_
    rw [h.exec_inline hop, Mach.startInline, if_pos hlen]
  · exact h.inline_write hop hlen htarget

end Sys2Proof.Machine
end

section
/-!
PROOFS. A fault of a port and the step abort that it forces (R205, R214, R390) leave the expanders as they are, but for the
stop of the faulting port and its fault count.
-/
namespace Sys2Proof.Machine

/-! ## What a step abort leaves: the expanders -/

theorem overList_exps {α : Type} {f : Mach → α → Mach} (hf : ∀ s a, (f s a).exps = s.exps) (s : Mach) (l : List α) :
    (overList f s l).exps = s.exps :=
  overList_preserves (P := fun u => u.exps = s.exps) (fun u a hu => (hf u a).trans hu) l rfl

theorem Mach.overTasks_exps {f : Mach → Task → Mach} (hf : ∀ s t, (f s t).exps = s.exps) (n : Nat) (s : Mach) :
    (Mach.overTasks n f s).exps = s.exps := by
  refine overList_exps (fun u id => ?_) s _
  split
  · exact hf u _
  · rfl

section
variable (s : Mach) (n : Nat) (t : Task) (st : Status)

@[simp] theorem Mach.raiseVec_exps (v : Nat) : (s.raiseVec v).exps = s.exps :=
  (congrArg Mach.exps (s.raiseVec_frame v {}) :)

@[simp] theorem Mach.raiseCtx_exps (c k : Nat) : (s.raiseCtx c k).exps = s.exps := by simp [Mach.raiseCtx]

@[simp] theorem Mach.freeEngine_exps : (s.freeEngine n t).exps = s.exps := by
  unfold Mach.freeEngine
  split <;> rfl

@[simp] theorem Mach.removeTask_exps : (s.removeTask n t).exps = s.exps := by
  simp [Mach.removeTask, Mach.dropAsks]

@[simp] theorem Mach.chanEnd_exps (ch residue : Nat) : (s.chanEnd ch st residue).exps = s.exps := by
  unfold Mach.chanEnd
  dsimp only
  split
  · simp [Mach.chanNote]
  · rfl

@[simp] theorem Mach.endTask_exps : (s.endTask n t st).exps = s.exps := by
  unfold Mach.endTask Mach.endChans
  dsimp only
  split <;> split <;> simp

@[simp] theorem Mach.writeRec_exps (rc : Rec) : (s.writeRec n t rc).exps = s.exps := by
  unfold Mach.writeRec
  split <;> rfl

@[simp] theorem Mach.dropLost_exps : (s.dropLost n t).exps = s.exps := by simp [Mach.dropLost]

@[simp] theorem Mach.logTask_exps (kind block addr : Nat) : (s.logTask n t st kind block addr).exps = s.exps := rfl

@[simp] theorem Mach.addWasted_exps (c g k : Nat) : (s.addWasted c g k).exps = s.exps := rfl

@[simp] theorem Mach.cancelFetch_exps : (s.cancelFetch n t).exps = s.exps := by
  simp [Mach.cancelFetch, apply_ite Mach.exps]

@[simp] theorem Mach.abortTask_exps : (s.abortTask n t).exps = s.exps := by
  unfold Mach.abortTask
  split <;> simp

@[simp] theorem Mach.dropTickets_exps (p : Ticket → Bool) : (s.dropTickets p).exps = s.exps := by
  unfold Mach.dropTickets
  refine overList_exps (fun u k => ?_) s _
  rfl

@[simp] theorem Mach.discardEvent_exps (e : QEvent) : (s.discardEvent e).exps = s.exps := by
  unfold Mach.discardEvent
  dsimp only
  split <;> rfl

@[simp] theorem Mach.flushEvents_exps (c : Nat) (all : Bool) : (s.flushEvents c all).exps = s.exps := by
  unfold Mach.flushEvents
  refine overList_exps (fun u k => ?_) s _
  exact overList_exps Mach.discardEvent_exps u _

@[simp] theorem Mach.semwaits_exps (c : Nat) : (s.semwaits c).exps = s.exps := by
  refine overList_exps (fun u k => overList_exps (fun v p => ?_) u _) s _
  split
  · split <;> simp
  · rfl

@[simp] theorem Mach.enterAborting_exps (c : Nat) : (s.enterAborting c st).exps = s.exps := by
  have htask (u : Mach) (k : Nat) (v : Task) : (if v.ctx = c then u.abortTask k v else u).exps = u.exps := by
    split <;> simp
  unfold Mach.enterAborting
  rw [overList_exps (fun u k => Mach.overTasks_exps (fun w v => htask w k v) k u)]
  simp

@[simp] theorem Mach.forceAbort_exps (c rank : Nat) : (s.forceAbort c rank st).exps = s.exps := by
  unfold Mach.forceAbort
  dsimp only
  split
  · simp
  · simp
  · split <;> rfl
  · rfl

end

/-! ## The fault of a port -/

/-- A port with a fault of status `st`, and `more` further ones of the same cclk; it stops at `at_` (R206, R207). -/
def Expander.faulted (x : Expander) (st : Status) (more at_ : Nat) : Expander :=
  { x with stopped := some st, stopAt := at_, faults := satAdd 32 x.faults (1 + more) }

theorem Mach.portFault_exp (s : Mach) (core port : Nat) (f : FrameRun) (hdr : Bool) (ft : PortFault) (used at_ : Nat) :
    (s.portFault core port f hdr ft used at_).exp core port = (s.exp core port).faulted ft.1 f.more at_ := by
  simp only [Mach.exp, Mach.portFault, Mach.forceAbort_exps, Mach.logv_exps, Mach.modExp, aget_amod_same]
  rfl

end Sys2Proof.Machine
end

section
/-!
PROOFS. The commands of the port expanders: what each is, and the update of one expander (R212–R214, R394).
-/
namespace Sys2Proof.Machine

/-! ## Commands that change one expander -/

theorem port_wf {core port : Nat} (hcore : core < 25920) (hport : port < 2) : (okCore core && okPort port) = true := by
  simp [okCore, okPort, Config.nCore, hcore, hport]

theorem Mach.modExp_modExp (s : Mach) (core port : Nat) (f g : Expander → Expander) :
    (s.modExp core port f).modExp core port g = s.modExp core port (fun x => g (f x)) := by
  simp [Mach.modExp, amod_amod]

theorem Mach.modExp_ne (s : Mach) {core port k : Nat} (f : Expander → Expander) (h : k ≠ 2 * core + port) :
    aget {} (s.modExp core port f).exps k = aget {} s.exps k := aget_amod_ne _ _ _ h

theorem commit_exp (s : State) (m : Mach) (core port : Nat) : (commit s m).m.exp core port = m.exp core port := rfl

/-- A command that changes nothing but expanders leaves all else of the state. -/
theorem commit_of_exps {s : State} {m : Mach} (hq : s.Quiet) (h : { m with exps := s.m.exps } = s.m) :
    { commit s m with m := { (commit s m).m with exps := s.m.exps } } = s := by
  have hout : m.out = [] := (congrArg Mach.out h).trans hq
  rw [commit_of_out_nil hout, h]

/-- A command that updates one expander changes that expander alone. -/
theorem expanderBecomes_modExp {s : State} (hq : s.Quiet) {core port : Nat} {f : Expander → Expander} {x : Expander}
    (hx : f (s.m.exp core port) = x) : ExpanderBecomes s (commit s (s.m.modExp core port f)) core port x := by
  refine ⟨?_, fun k hk => s.m.modExp_ne f hk, commit_of_exps hq rfl⟩
  rw [commit_exp, Mach.modExp_exp, hx]

/-! ## The queue and the writes that wait (R213) -/

theorem Expander.letIn_of_none_waits {x : Expander} (h : x.waiting = []) (k : Nat) : x.letIn k = x := by
  cases k <;> simp [Expander.letIn, h]

theorem Expander.letIn_of_full {x : Expander} (h : 4 ≤ x.queue.length) (k : Nat) : x.letIn k = x := by
  cases k with
  | zero => rfl
  | succ k =>
    unfold Expander.letIn
    split
    · rfl
    · rw [if_neg (by omega)]

/-- The expander once a command has been written to its port. -/
def Expander.written (x : Expander) (c : PortCmd) : Expander := { x with waiting := x.waiting ++ [c] }.letIn 4

theorem Expander.written_of_room {x : Expander} (hwait : x.waiting = []) (hroom : x.queue.length < 4) (c : PortCmd) :
    x.written c = { x with queue := x.queue ++ [c] } := by
  simp [Expander.written, Expander.letIn, hwait, hroom]

theorem Expander.written_of_full {x : Expander} (h : 4 ≤ x.queue.length) (c : PortCmd) :
    x.written c = { x with waiting := x.waiting ++ [c] } := Expander.letIn_of_full (by exact h) 4

theorem exec_portCommandWrite {s : State} {core port : Nat} (hcore : core < 25920) (hport : port < 2) (w0 w1 w2 w3 : W64) :
    exec (.portCommandWrite core port w0 w1 w2 w3) s = .next (commit s (s.m.modExp core port (·.written { w0, w1, w2, w3 }))) :=
  exec_of_act (fun _ m => m.portWrite core port { w0, w1, w2, w3 }) rfl (port_wf hcore hport)

/-! ## The reset of a core's ports (R394) -/

theorem exec_portReset {s : State} {core : Nat} (hcore : core < 25920) : exec (.portReset core) s =
    .next (commit s ((s.m.modExp core 0 Expander.reset).modExp core 1 Expander.reset)) :=
  exec_of_act (fun _ m => (m.modExp core 0 Expander.reset).modExp core 1 Expander.reset) rfl
    (by simp [Instr.wf, okCore, Config.nCore, hcore])

/-- Each of a core's two ports is updated, whichever comes first. -/
theorem Mach.modExp_both_exp (s : Mach) (core : Nat) (f : Expander → Expander) {p : Nat} (hp : p < 2) :
    ((s.modExp core 0 f).modExp core 1 f).exp core p = f (s.exp core p) := by
  interval_cases p
  · exact ((s.modExp core 0 f).modExp_ne f (by omega)).trans (s.modExp_exp core 0 f)
  · rw [Mach.modExp_exp]
    exact congrArg f (s.modExp_ne f (by omega))

theorem Expander.reset_of_none_waits {x : Expander} (h : x.waiting = []) : x.reset = { x with
    queue := [], run := none, frames := [], tail := none, stopped := none, stopAt := 0, mayAccept := 0, lastWord := [] } := by
  unfold Expander.reset
  exact Expander.letIn_of_none_waits (by exact h) 4

/-- Settles O35: a write joins the queue or waits as `letIn` has it, and a reset makes each port of its core empty. -/
theorem portQueues : Obligations.PortQueues := by
  intro s core hcore hq
  refine ⟨?write, fun hwait => ?reset⟩
  case write =>
    intro port w0 w1 w2 w3 hport x
    have hexec := exec_portCommandWrite (s := s) hcore hport w0 w1 w2 w3
    exact ⟨fun hwait hroom => ⟨_, hexec, expanderBecomes_modExp hq (Expander.written_of_room hwait hroom _)⟩,
      fun hfull => ⟨_, hexec, expanderBecomes_modExp hq (Expander.written_of_full hfull _)⟩⟩
  case reset =>
    refine ⟨_, exec_portReset hcore, fun p hp => ?_, fun k hk0 hk1 => ?_, commit_of_exps hq rfl⟩
    · rw [commit_exp, Mach.modExp_both_exp _ _ _ hp, Expander.reset_of_none_waits (hwait p hp)]
    · exact (Mach.modExp_ne _ _ hk1).trans (Mach.modExp_ne _ _ hk0)

end Sys2Proof.Machine
end

section
/-!
PROOFS. FRAME_COMMAND and BYPASS_COMMAND (R213, R214, R218, R219, R225): what becomes of the front command of a port that may
accept one.
-/
namespace Sys2Proof.Machine

theorem exec_frameCommand {s : State} {core port : Nat} (hcore : core < 25920) (hport : port < 2) (cclk : Nat) :
    exec (.frameCommand core port cclk) s = .next (commit s (s.m.portAccept core port 1 cclk)) :=
  exec_of_act (fun _ m => m.portAccept core port 1 cclk) rfl (port_wf hcore hport)

theorem exec_bypassCommand {s : State} {core port : Nat} (hcore : core < 25920) (hport : port < 2) (cclk : Nat) :
    exec (.bypassCommand core port cclk) s = .next (commit s (s.m.portAccept core port 0 cclk)) :=
  exec_of_act (fun _ m => m.portAccept core port 0 cclk) rfl (port_wf hcore hport)

/-- The front command has left the queue, of which `cs` is left. -/
def Mach.dequeued (s : Mach) (core port : Nat) (cs : List PortCmd) : Mach :=
  s.modExp core port (fun x => { x with queue := cs }.letIn 4)

/-- The report of a command that is refused names its offset and context alone (R206). -/
def PortCmd.report (c : PortCmd) : FrameRun := { off := 16 * pcOff c.w1, ctx := pcCtx c.w0 }

/-- A port accepts its front command at `cclk`: it is not stopped, runs no command, and is past the last one's end (R213). -/
structure Expander.Accepts (x : Expander) (cclk : Nat) (c : PortCmd) (cs : List PortCmd) : Prop where
  queue : x.queue = c :: cs
  running : x.stopped = none
  free : x.run = none
  due : x.mayAccept ≤ cclk

section
variable {s : Mach} {core port mode cclk : Nat} {c : PortCmd} {cs : List PortCmd}
variable (h : (s.exp core port).Accepts cclk c cs)
include h

/-- A command that meets R214 is refused, whichever of the two commands comes for a MODE that is neither. -/
theorem Mach.portAccept_of_bad (hmode : pcMode c.w0 = mode ∨ 2 ≤ pcMode c.w0) (hbad : cmdBad c = true) :
    s.portAccept core port mode cclk =
      (s.dequeued core port cs).portFault core port c.report false (.portCmd, 0, 7) 0 := by
  simp [Mach.portAccept, h.queue, h.running, h.free, Nat.not_lt.mpr h.due, hbad, Mach.dequeued, PortCmd.report]
  exact fun hother hvalid => absurd hmode (by omega)

variable (hmode : pcMode c.w0 = mode) (hgood : cmdBad c = false)
include hmode hgood

theorem Mach.portAccept_of_empty (hcount : pcCount c.w1 = 0) : s.portAccept core port mode cclk =
    (s.dequeued core port cs).modExp core port (fun x => { x with mayAccept := cclk + 1 }) := by
  simp [Mach.portAccept, h.queue, h.running, h.free, Nat.not_lt.mpr h.due, hmode, hgood, hcount, Mach.dequeued]

variable (hcount : pcCount c.w1 ≠ 0)
include hcount

theorem Mach.portAccept_bypass (hbypass : mode = 0) : s.portAccept core port mode cclk =
    (s.dequeued core port cs).modExp core port (fun x => { x with run := some (.bypass cclk (s.bypassOf core c)) }) := by
  subst hbypass
  simp [Mach.portAccept, h.queue, h.running, h.free, Nat.not_lt.mpr h.due, hmode, hgood, hcount, Mach.dequeued,
    Mach.bypassOf]

theorem Mach.portAccept_frame (hframe : mode = 1) {nt : Note} (hnote : (aget {} s.notes core).lookup c = some nt) :
    s.portAccept core port mode cclk = (s.dequeued core port cs).modExp core port (fun x => { x with
      run := some (.frame c nt cclk 0 0 [cclk, cclk, cclk, cclk] none) }) := by
  subst hframe
  simp [Mach.portAccept, h.queue, h.running, h.free, Nat.not_lt.mpr h.due, hmode, hgood, hcount, Mach.dequeued, hnote]

theorem Mach.portAccept_of_no_note (hframe : mode = 1) (hnote : (aget {} s.notes core).lookup c = none) :
    s.portAccept core port mode cclk =
      (s.dequeued core port cs).portFault core port c.report false (.portNote, 0, 7) 0 := by
  subst hframe
  simp [Mach.portAccept, h.queue, h.running, h.free, Nat.not_lt.mpr h.due, hmode, hgood, hcount, Mach.dequeued, hnote,
    PortCmd.report]

end

/-- No write waiting, an accepted command changes its expander alone. -/
theorem expanderBecomes_dequeued {s : State} (hq : s.Quiet) {core port : Nat} {cs : List PortCmd} {f : Expander → Expander}
    (hwait : (s.m.exp core port).waiting = []) :
    ExpanderBecomes s (commit s ((s.m.dequeued core port cs).modExp core port f)) core port
      (f { s.m.exp core port with queue := cs }) := by
  rw [Mach.dequeued, Mach.modExp_modExp]
  exact expanderBecomes_modExp hq (congrArg f (Expander.letIn_of_none_waits (by exact hwait) 4))

/-- Settles O36, by what may become of the front command: it runs, it is over at once, or it is refused. -/
theorem portAccepts : Obligations.PortAccepts := by
  intro s core port cclk c cs hcore hport x hqueue hwait hstop hrun hdue taken f
  have h : x.Accepts cclk c cs := ⟨hqueue, hstop, hrun, hdue⟩
  have hframe := exec_frameCommand (s := s) hcore hport cclk
  have hbypass := exec_bypassCommand (s := s) hcore hport cclk
  refine ⟨fun hq hgood hmode hcount nt hnote => ⟨_, hframe, ?_⟩, fun hq hgood hmode hcount => ⟨_, hbypass, ?_⟩,
    fun hq hgood hmode hcount => ⟨_, hframe, ?_⟩, fun hbad hmode => ?_, fun hbad hmode => ?_,
    fun hgood hmode hcount hnote => ?_⟩
  · rw [Mach.portAccept_frame h hmode hgood hcount rfl hnote]
    exact expanderBecomes_dequeued hq hwait
  · rw [Mach.portAccept_bypass h hmode hgood hcount rfl]
    exact expanderBecomes_dequeued hq hwait
  · rw [Mach.portAccept_of_empty h hmode hgood hcount]
    exact expanderBecomes_dequeued hq hwait
  · rw [hframe, Mach.portAccept_of_bad h (by omega) hbad]
    rfl
  · rw [hbypass, Mach.portAccept_of_bad h (by omega) hbad]
    rfl
  · rw [hframe, Mach.portAccept_of_no_note h hmode hgood hcount rfl hnote]
    rfl

end Sys2Proof.Machine
end

section
/-!
PROOFS. FRAME_OPEN (R205, R220, R222, R224): what the header at the next landing place decides, and the frame that is opened.
-/
namespace Sys2Proof.Machine

theorem exec_frameOpen {s : State} {core port : Nat} (hcore : core < 25920) (hport : port < 2) (cclk : Nat) :
    exec (.frameOpen core port cclk) s = .next (commit s (s.m.frameOpen s.mem core port cclk)) :=
  exec_of_act (fun mem m => m.frameOpen mem core port cclk) rfl (port_wf hcore hport)

/-- A free value has been drawn (log entry 88). -/
def Mach.drawn (s : Mach) : Mach := { s with freeNo := s.freeNo + 1 }

/-- The header at a landing place of core SRAM. -/
def Mems.header (mem : Mems) (core off : Nat) : HuskHdr := huskParse (memReads mem.sram (sramAddr core off) 32)

/-- What the payload behind header `h` decodes to. -/
def Mems.decoded (mem : Mems) (core off : Nat) (h : HuskHdr) : BlockOut :=
  huskDecode h (memReads mem.sram (sramAddr core off) h.blockLen)

/-- A FRAME command under way: its words, its note, the cclk of its acceptance, and of the frames opened so far their number,
the last one's O and T, and the fields that all share (R222, R224). -/
structure FrameJob where
  cmd : PortCmd
  note : Note
  acc : Nat
  opened : Nat
  prevO : Nat
  prevT : List Nat
  shared : Option Nat

namespace FrameJob
variable (j : FrameJob)

/-- The command as its expander holds it. -/
def run : PortRun := .frame j.cmd j.note j.acc j.opened j.prevO j.prevT j.shared

/-- Where the next frame lands. -/
def off : Nat := 16 * pcOff j.cmd.w1 + 4128 * j.opened

/-- From which cclk on the next frame's SIGN is read. -/
def due : Nat := if j.opened = 0 then j.acc else j.prevO

/-- The next frame, of which the header alone is known. -/
def headed (h : HuskHdr) : FrameRun :=
  { off := j.off, ctx := pcCtx j.cmd.w0, acc := j.acc, retain := pcRetain j.cmd.w0 == 1, fmt := h.fmt, scale := h.scale
    elemBytes := h.fmtF.bytes, tensorLo := h.tensorLo, stage := h.stage, mb := h.mb, block := h.block
    payload := 16 * h.units }

/-- When the four decoders start on a frame that is opened at `o`, and when they are done (R224). -/
def starts (o : Nat) : List Nat := (List.range 4).map (fun k => max o ((j.prevT[k]?).getD j.acc))
def ends (h : HuskHdr) (o : Nat) : List Nat := (List.range 4).map (fun k => ((j.starts o)[k]?).getD o + 2 + h.q k)

/-- What is left of the command behind a frame opened at `o`. -/
def rest (h : HuskHdr) (o : Nat) : Option PortRun :=
  if pcCount j.cmd.w1 ≤ j.opened + 1 then none
  else some (.frame j.cmd j.note j.acc (j.opened + 1) o (j.ends h o) (some h.shared))

/-- The expander behind the opening of frame `f` at `o`. -/
def opens (h : HuskHdr) (o : Nat) (f : FrameRun) (x : Expander) : Expander := { x with
  frames := x.frames ++ [f], run := j.rest h o
  mayAccept := if pcCount j.cmd.w1 ≤ j.opened + 1 then o + 1 else x.mayAccept }

/-- Frame `f` is the next one, of header `h`, which decodes to `out` and is opened at `o`: its place and words, and the fault
found first before and after its last word. -/
structure Opened (h : HuskHdr) (out : BlockOut) (o : Nat) (f : FrameRun) : Prop where
  off : f.off = j.off
  ctx : f.ctx = pcCtx j.cmd.w0
  block : f.block = h.block
  retain : f.retain = (pcRetain j.cmd.w0 == 1)
  nwords : f.nwords = ceilDiv h.plain 32
  faultFirst : f.faultFirst = (firstFound (j.starts o) out.firsts).1
  faultLast : f.faultLast = (firstFound (j.starts o) out.lasts).1
  words : out.firsts = [] → f.words = chop 32 (h.plain + 1) (elemBytes h.fmtF.bytes (maskFrame j.note h.block out.elems))

end FrameJob

section
variable {s : Mach} {mem : Mems} {core port cclk : Nat} {j : FrameJob} {h : HuskHdr}
variable (hrun : (s.exp core port).run = some j.run) (hstop : (s.exp core port).stopped = none) (hh : mem.header core j.off = h)
include hrun hstop hh

theorem Mach.frameOpen_of_unsigned (hsign : h.sign = 0) : s.frameOpen mem core port cclk = s := by
  simp only [FrameJob.run] at hrun
  simp only [Mems.header, FrameJob.off] at hh
  simp [Mach.frameOpen, hrun, hstop, Config.frameBytes, hh, hsign]

variable (hdue : j.due ≤ cclk) (hsign : h.sign ≠ 0)
include hdue hsign

theorem Mach.frameOpen_of_bad_header (hbad : huskHdrBad h = true) : s.frameOpen mem core port cclk =
    s.portFault core port (j.headed h) false (.huskHdr, 0, 7) 0 (cclk + 3) := by
  simp only [FrameJob.run] at hrun
  simp only [FrameJob.due] at hdue
  simp only [Mems.header, FrameJob.off] at hh
  simp [Mach.frameOpen, hrun, hstop, Nat.not_lt.mpr hdue, Config.frameBytes, hh, hsign, hbad, FrameJob.headed, FrameJob.off]

theorem Mach.frameOpen_of_valid (hgood : huskHdrBad h = false) (hshared : j.shared.getD h.shared = h.shared)
    (htensor : h.tensorLo = W64.bits j.note.base 33 18) (hlen : huskLenBad h = none) :
    ∃ f, s.frameOpen mem core port cclk = s.drawn.modExp core port (j.opens h (cclk + 3) f) ∧
      j.Opened h (mem.decoded core j.off h) (cclk + 3) f := by
  simp only [FrameJob.run] at hrun
  simp only [FrameJob.due] at hdue
  simp only [Mems.header, FrameJob.off] at hh
  simp only [Mach.frameOpen, hrun, hstop, Nat.not_lt.mpr hdue, Config.frameBytes, hh, hsign, hgood, hshared, htensor, hlen,
    Option.isSome_none, decide_false, Bool.false_eq_true, if_false, bne_self_eq_false, Bool.or_self]
  refine ⟨_, rfl, rfl, rfl, rfl, rfl, rfl, rfl, rfl, fun hfirsts => ?words⟩
  case words =>
    change (if (firstFound (j.starts (cclk + 3)) (mem.decoded core j.off h).firsts).1.isSome = true then _ else _) = _
    rw [hfirsts]
    rfl

end

/-- Settles O37, by what the header decides: no frame yet, a fault, or the next frame. -/
theorem frameOpens : Obligations.FrameOpens := by
  intro s core port cclk c nt acc opened prevO prevT shared hcore hport hq x hrun hstop hdue off h out f
  let j : FrameJob := { cmd := c, note := nt, acc, opened, prevO, prevT, shared }
  have hexec := exec_frameOpen (s := s) hcore hport cclk
  refine ⟨fun hsign => ?unsigned, fun hsign hbad => ?badHeader, fun hsign hgood hshared htensor hlen => ?opened⟩
  case unsigned => rw [hexec, Mach.frameOpen_of_unsigned (j := j) hrun hstop rfl hsign, commit_self hq]
  case badHeader =>
    have hfault := Mach.frameOpen_of_bad_header (j := j) hrun hstop rfl hdue hsign hbad
    rw [hfault] at hexec
    refine ⟨hexec, _, hexec, ?_⟩
    rw [commit_exp, Mach.portFault_exp]
    exact ⟨rfl, rfl, rfl⟩
  case opened =>
    have hsame : shared.getD h.shared = h.shared := by rcases hshared with hshared | hshared <;> rw [hshared] <;> rfl
    obtain ⟨g, hopens, hg⟩ := Mach.frameOpen_of_valid (j := j) (h := h) hrun hstop rfl hdue hsign hgood hsame htensor hlen
    rw [hopens] at hexec
    have hexp := s.m.drawn.modExp_exp core port (j.opens h (cclk + 3) g)
    have hnext := commit_of_out_nil (s := s) (m := s.m.drawn.modExp core port (j.opens h (cclk + 3) g)) hq
    rw [hnext] at hexec
    refine ⟨_, g, hexec, congrArg Expander.frames hexp, hg.off, hg.ctx, hg.block, hg.retain, hg.nwords,
      ⟨hg.faultFirst, hg.faultLast⟩, hg.words, fun hlast => ⟨?_, ?_⟩, fun hmore => ⟨j.ends h (cclk + 3), ?_⟩,
      fun k hk => Mach.modExp_ne _ _ hk, rfl⟩
    · exact (congrArg Expander.run hexp).trans (if_pos hlast)
    · exact (congrArg Expander.mayAccept hexp).trans (if_pos hlast)
    · exact (congrArg Expander.run hexp).trans (if_neg (Nat.not_le.mpr hmore))

end Sys2Proof.Machine
end

section
/-!
PROOFS. OPERAND_REQUEST (R209, R211, R221, R224, R393): the request of a stopped port, and the next word of a frame that is
ready, with what its last word leaves in core SRAM.
-/
namespace Sys2Proof.Machine

theorem exec_operandRequest {s : State} {core port : Nat} (hcore : core < 25920) (hport : port < 2) (cclk : Nat) :
    exec (.operandRequest core port cclk) s = .next (commit s (s.m.operandRequest s.mem core port cclk)) :=
  exec_of_act (fun mem m => m.operandRequest mem core port cclk) rfl (port_wf hcore hport)

/-- SIGN of frame `f` is cleared once no word `ws` of it is left, unless RETAIN (R221). -/
def Mach.clearSign (s : Mach) (core : Nat) (f : FrameRun) (ws : List (List Byte)) : Mach :=
  if ws = [] ∧ f.retain = false then s.write .sram [(sramAddr core f.off, 0)] else s

/-- The expander that has presented word `w` of its first frame, with `ws` left of the frame and `rest` behind it. -/
def Expander.presented (x : Expander) (cclk : Nat) (f : FrameRun) (w : List Byte) (ws : List (List Byte))
    (rest : List FrameRun) : Expander :=
  { x with
    lastWord := w, sideFmt := f.fmt, sideScale := f.scale
    frames := if ws = [] then rest else { f with words := ws, presented := f.presented + w.length / f.elemBytes } :: rest
    w := if ws = [] then cclk + 1 else x.w }

theorem Mach.presentFrame_of_sound (s : Mach) {core port cclk : Nat} {f : FrameRun} {rest : List FrameRun} {w : List Byte}
    {ws : List (List Byte)} (hwords : f.words = w :: ws) (hfirst : f.faultFirst = none) (hlast : f.faultLast = none) :
    s.presentFrame core port cclk f rest =
      (s.modExp core port (·.presented cclk f w ws rest)).clearSign core f ws := by
  cases ws with
  | nil => cases hretain : f.retain <;>
      simp [Mach.presentFrame, hwords, hfirst, hlast, hretain, Mach.clearSign, Expander.presented]
  | cons v vs => simp [Mach.presentFrame, hwords, hfirst, Mach.clearSign, Expander.presented]

section
variable {s : Mach} {mem : Mems} {core port cclk : Nat} (hreq : (s.exp core port).nextReq ≤ cclk)
include hreq

theorem Mach.operandRequest_of_stopped (hstop : (s.exp core port).stopped ≠ none) (hat : (s.exp core port).stopAt ≤ cclk) :
    s.operandRequest mem core port cclk = s.modExp core port (fun x => { x with
      nextReq := cclk + 1, cntStop := satAdd 32 x.cntStop 1, lastWord := [] }) := by
  simp [Mach.operandRequest, Nat.not_lt.mpr hreq, Option.isSome_iff_ne_none.mpr hstop, hat, Mach.noWord, Mach.modExp_modExp]

/-- The port runs, or checks a later header still; its first frame has started and has no fault before its last word. -/
theorem Mach.operandRequest_of_ready {f : FrameRun} {rest : List FrameRun}
    (hruns : (s.exp core port).stopped = none ∨ cclk < (s.exp core port).stopAt) (htail : (s.exp core port).tail = none)
    (hframes : (s.exp core port).frames = f :: rest)
    (hready : max (max (s.exp core port).w f.acc) (max (f.bmax + 2) (f.tmax - f.nwords)) ≤ cclk)
    (hfirst : f.faultFirst = none) : s.operandRequest mem core port cclk =
      (s.modExp core port (fun x => { x with nextReq := cclk + 1 })).presentFrame core port cclk f rest := by
  have hstop : ((s.exp core port).stopped.isSome && decide ((s.exp core port).stopAt ≤ cclk)) = false := by
    rcases hruns with hnone | hlater
    · simp [hnone]
    · simp [Nat.not_le.mpr hlater]
  simp only [Mach.operandRequest, if_neg (Nat.not_lt.mpr hreq), hstop, htail, hframes, if_neg (Nat.not_lt.mpr hready), hfirst,
    Bool.false_eq_true, if_false]

end

/-! ## What the last word leaves in memory -/

/-- Clearing SIGN is a write to memory alone. -/
theorem commit_m_clearSign (s : State) (m : Mach) (core : Nat) (f : FrameRun) (ws : List (List Byte)) :
    (commit s (m.clearSign core f ws)).m = { m with out := [] } := by
  unfold Mach.clearSign
  split <;> rfl

/-- The memories after a command whose one write is SIGN of a frame used up. -/
theorem commit_mem_clearSign {s : State} {m : Mach} (hq : m.out = []) (core : Nat) (f : FrameRun) (ws : List (List Byte)) :
    (commit s (m.clearSign core f ws)).mem = { s.mem with
      sram := if ws = [] ∧ f.retain = false then memWrite s.mem.sram (sramAddr core f.off) 0 else s.mem.sram } := by
  unfold Mach.clearSign
  split
  · rw [commit_mem_of_sram (bytes := [(sramAddr core f.off, 0)]) (by rw [Mach.write, hq]; rfl)]
    rfl
  · rw [commit_of_out_nil hq]

/-- Settles O38: a stopped port counts; else the frame's next word is presented, and the last one clears SIGN. -/
theorem wordsPresented : Obligations.WordsPresented := by
  intro s core port cclk hcore hport hq x hreq
  have hexec := exec_operandRequest (s := s) hcore hport cclk
  refine ⟨fun hstop hat => ⟨_, hexec, ?stopped⟩, fun f rest w ws hruns htail hframes hwords hready hfirst hlast => ?word⟩
  case stopped =>
    rw [Mach.operandRequest_of_stopped hreq hstop hat]
    exact expanderBecomes_modExp hq rfl
  case word =>
    let m := s.m.modExp core port (fun x => Expander.presented { x with nextReq := cclk + 1 } cclk f w ws rest)
    have hnext : exec (.operandRequest core port cclk) s = .next (commit s (m.clearSign core f ws)) := by
      rw [hexec, Mach.operandRequest_of_ready hreq hruns htail hframes hready hfirst,
        Mach.presentFrame_of_sound _ hwords hfirst hlast, Mach.modExp_modExp]
    have hm : (commit s (m.clearSign core f ws)).m = m := by
      rw [commit_m_clearSign, ← hq]
      rfl
    have hmem := commit_mem_clearSign (s := s) (m := m) hq core f ws
    refine ⟨_, hnext, ?_⟩
    rw [hm, hmem]
    refine ⟨Mach.modExp_exp .., fun k hk => Mach.modExp_ne _ _ hk, rfl, rfl, rfl, fun a ha => ?_, ?_⟩
    · dsimp only
      split
      · exact memRead_memWrite_ne _ _ ha
      · rfl
    · dsimp only
      split
      · exact memRead_memWrite_same ..
      · rfl

end Sys2Proof.Machine
end

section
/-!
PROOFS. Lodging messages as they arrive (R285, R286, R368–R370, R383): what a message's agent makes of it, by its power
state and by what waits before it.
-/
namespace Sys2Proof.Machine

/-! ## The commands of messages -/

theorem link_wf {l : Nat} (hl : l < 12) : okLink l = true := by simp [okLink, Config.nLink, hl]

/-- The command of each OP (Table: Lodging opcodes). -/
def messageCmds (l : Nat) (m : LMsg) : List (Instr × Nat) :=
  [(.hello l m, 1), (.claim l m, 2), (.unclaim l m, 3), (.put l m, 4), (.putAck l m, 5), (.get l m, 6), (.more l m, 7),
    (.data l m, 8), (.free l m, 9), (.release l m, 10), (.ack l m, 11), (.nak l m, 12), (.evict l m, 13)]

/-- A command that brings a message hands it to its agent. -/
theorem exec_message {s : State} {l op : Nat} {m : LMsg} {c : Instr} (hl : l < 12) (hm : m.payload.length % 16 = 0)
    (hc : (c, op) ∈ messageCmds l m) : exec c s = .next (commit s (s.m.receive s.mem l op m)) := by
  have hwf : (okLink l && okMsg m) = true := by simp [link_wf hl, okMsg, hm]
  simp only [messageCmds, List.mem_cons, Prod.mk.injEq, List.not_mem_nil, or_false] at hc
  rcases hc with ⟨rfl, rfl⟩ | ⟨rfl, rfl⟩ | ⟨rfl, rfl⟩ | ⟨rfl, rfl⟩ | ⟨rfl, rfl⟩ | ⟨rfl, rfl⟩ | ⟨rfl, rfl⟩ | ⟨rfl, rfl⟩ |
      ⟨rfl, rfl⟩ | ⟨rfl, rfl⟩ | ⟨rfl, rfl⟩ | ⟨rfl, rfl⟩ | ⟨rfl, rfl⟩ <;>
    exact exec_of_act (fun mem x => x.receive mem l _ m) rfl hwf

/-! ## The agent's state -/

theorem Station.askedAwake_of_awake {x : Station} (h : x.pwr ≠ .clockGated ∧ x.pwr ≠ .powerGated) : x.askedAwake = x := by
  simp [Station.askedAwake, h]

theorem Station.askedAwake_of_gated {x : Station} (h : x.pwr = .clockGated ∨ x.pwr = .powerGated) : x.askedAwake.pwr = .waking := by
  simp [Station.askedAwake, h]

theorem Station.askedAwake_pwr_active {x : Station} : x.askedAwake.pwr = .active ↔ x.pwr = .active := by
  unfold Station.askedAwake
  cases h : x.pwr <;> simp [h]

theorem Mach.wakeStation_pwr_active {s : Mach} {n : Nat} : ((s.wakeStation n).st n).pwr = .active ↔ (s.st n).pwr = .active := by
  rw [Mach.wakeStation_st]
  exact Station.askedAwake_pwr_active

/-- Waking a station leaves the links, the peers and the lodging registers. -/
@[simp] theorem Mach.wakeStation_link (s : Mach) (n l : Nat) : (s.wakeStation n).link l = s.link l := rfl
@[simp] theorem Mach.wakeStation_task (s : Mach) (n k id : Nat) : (s.wakeStation n).task k id = s.task k id := by
  by_cases hk : k = n
  · subst hk
    simp [Mach.task]
  · rw [Mach.task, Mach.wakeStation_st_ne _ hk, Mach.task]

/-! ## What becomes of a message -/

/-- No valid OP, as the model says it. -/
theorem stray_iff {m : LMsg} : (m.op == 0 || decide (lopEvict < m.op)) = true ↔ m.op = 0 ∨ 13 < m.op := by
  rw [Bool.or_eq_true, beq_iff_eq, decide_eq_true_eq]
  rfl

section
variable {s : Mach} {mem : Mems} {l op : Nat} {m : LMsg}

/-- An agent that is OFF leaves a message. -/
theorem Mach.receive_of_off (hoff : (s.st (agentOf l)).pwr = .off) : s.receive mem l op m = s := by
  simp [Mach.receive, hoff]

section
variable (hup : (s.link l).st = 2) (hop : m.op = op ∨ m.op = 0 ∨ 13 < m.op)
include hup hop

/-- A message for an agent that sleeps, or that has messages waiting, waits too. -/
theorem Mach.receive_of_held (hoff : (s.st (agentOf l)).pwr ≠ .off)
    (hheld : (s.st (agentOf l)).pwr ≠ .active ∨ (s.link l).rx ≠ []) :
    s.receive mem l op m = (s.wakeStation (agentOf l)).modLink l (fun k => { k with rx := k.rx ++ [m] }) := by
  have hfits : (m.op == op || m.op == 0 || decide (lopEvict < m.op)) = true := by
    rw [Bool.or_assoc, Bool.or_eq_true, stray_iff, beq_iff_eq]
    exact hop
  have hwaits : (((s.wakeStation (agentOf l)).st (agentOf l)).pwr != .active || !(s.link l).rx.isEmpty) = true := by
    rw [ne_eq, ← Mach.wakeStation_pwr_active] at hheld
    simpa using hheld
  simp only [Mach.receive, hup, hfits, linkUpSt, bne_self_eq_false, Bool.not_true, Bool.or_self, Bool.false_eq_true,
    if_false, beq_eq_false_iff_ne.mpr hoff, Mach.wakeStation_link, hwaits, if_true]

/-- An agent that is ACTIVE, with no message waiting, takes a message. -/
theorem Mach.receive_of_active (hact : (s.st (agentOf l)).pwr = .active) (hrx : (s.link l).rx = []) :
    s.receive mem l op m = (s.wakeStation (agentOf l)).takeMsg mem l m (isRequest op) := by
  have hfits : (m.op == op || m.op == 0 || decide (lopEvict < m.op)) = true := by
    rw [Bool.or_assoc, Bool.or_eq_true, stray_iff, beq_iff_eq]
    exact hop
  have hawake : ((s.wakeStation (agentOf l)).st (agentOf l)).pwr = .active := Mach.wakeStation_pwr_active.mpr hact
  have hnotOff : (PwrState.active == PwrState.off) = false := rfl
  simp only [Mach.receive, hup, hfits, linkUpSt, bne_self_eq_false, Bool.not_true, Bool.or_self, Bool.false_eq_true,
    if_false, hact, hnotOff, Mach.wakeStation_link, hawake, hrx, List.isEmpty_nil]

end

/-- A message of a request's OP is a request, and so is one of no valid OP that came as one. -/
theorem Mach.takeMsg_of_request {asReq : Bool} (h : isRequest m.op = true ∨ asReq = true ∧ (m.op = 0 ∨ 13 < m.op)) :
    s.takeMsg mem l m asReq = s.innRequest l m := by
  rcases h with h | ⟨rfl, h⟩
  · simp [Mach.takeMsg, h]
  · simp [Mach.takeMsg, stray_iff.mpr h]

theorem Mach.takeMsg_of_answer {asReq : Bool} (h : isRequest m.op = false) (h0 : m.op ≠ 0) (h13 : m.op ≤ 13) :
    s.takeMsg mem l m asReq = s.answer mem l m := by
  have hvalid : (m.op == 0 || decide (lopEvict < m.op)) = false := by
    rw [← Bool.not_eq_true, stray_iff]
    omega
  simp [Mach.takeMsg, h, hvalid]

end

/-- Settles O57: the agent's power state, and what waits before the message, decide. -/
theorem messagesReceived : Obligations.MessagesReceived := by
  intro s l op m c hl hm hup hop hc w
  have hexec := exec_message (s := s) hl hm hc
  refine ⟨fun hact hrx => ?taken, fun hq hoff hheld => ?held, fun hgated => ?woken, fun hq hoff => ?left⟩
  case taken =>
    have htake := Mach.receive_of_active (mem := s.mem) hup (.inl hop) hact hrx
    rw [hexec, htake]
    refine ⟨fun hreq => ?_, fun hans => ?_⟩
    · have h : isRequest m.op = true := by
        rw [hop]
        rcases hreq with rfl | rfl | rfl | rfl | rfl | rfl | rfl <;> rfl
      rw [Mach.takeMsg_of_request (.inl h)]
    · have h : isRequest m.op = false := by
        rw [hop]
        rcases hans with rfl | rfl | rfl | rfl | rfl | rfl <;> rfl
      rw [Mach.takeMsg_of_answer h (by omega) (by omega)]
  case held =>
    rw [hexec, Mach.receive_of_held hup (.inl hop) hoff hheld]
    exact next_commit_eq_to hq
  case woken =>
    rw [Mach.wakeStation_st]
    exact Station.askedAwake_of_gated hgated
  case left =>
    rw [hexec, Mach.receive_of_off hoff, commit_self hq]

end Sys2Proof.Machine
end

section
/-!
PROOFS. LODGING_SEND (R280, R285, R287, R293, R296, R297): the message that goes next, and what has gone out with it.
-/
namespace Sys2Proof.Machine

/-! ## The message that goes next -/

theorem findIx_sound {α : Type} {p : α → Bool} : ∀ {xs : List α} {k i : Nat} {x : α}, findIx p xs k = some (i, x) → p x = true ∧ x ∈ xs
  | [], _, _, _, h => by cases h
  | y :: ys, k, i, x, h => by
    unfold findIx at h
    split at h
    · next hy =>
      cases h
      exact ⟨hy, List.mem_cons_self⟩
    · obtain ⟨hx, hmem⟩ := findIx_sound h
      exact ⟨hx, List.mem_cons_of_mem _ hmem⟩

/-- The message that is sent next waits on the link, and may go. -/
theorem Mach.nextTx_sound {s : Mach} {l i : Nat} {x : TxMsg} (h : s.nextTx l = some (i, x)) :
    s.sendable l x = true ∧ x ∈ (s.link l).tx := by
  unfold Mach.nextTx at h
  dsimp only at h
  split at h
  · next p hp =>
    cases h
    obtain ⟨hx, hmem⟩ := findIx_sound hp
    exact ⟨(Bool.and_eq_true_iff.mp hx).2, hmem⟩
  · exact findIx_sound h

/-- A PUT goes on a credit that the link has. -/
theorem Mach.credit_of_sendable {s : Mach} {l : Nat} {x : TxMsg} (h : s.sendable l x = true) (hput : x.isPut = true) :
    0 < (s.link l).credits := by
  simp only [Mach.sendable, hput, Bool.and_eq_true] at h
  simpa using h.1.1

/-! ## What a message that has gone out changes -/

/-- A change of the task that a station and an identity name, if any. -/
def Mach.modTaskAt (s : Mach) (p : Option (Nat × Nat)) (f : Task → Task) : Mach :=
  match p with
  | some q => s.modTask q.1 q.2 f
  | none => s

theorem Mach.modTaskAt_st (s : Mach) (p : Option (Nat × Nat)) (f : Task → Task) (n : Nat) : (s.modTaskAt p f).st n =
    { s.st n with tasks := (s.st n).tasks.map (fun k => if p = some (n, k.id) then f k else k) } := by
  cases p with
  | none => simp [Mach.modTaskAt]
  | some q =>
    obtain ⟨j, id⟩ := q
    by_cases hn : n = j
    · subst hn
      simp only [Mach.modTaskAt, Mach.modTask, Mach.modSt_st, modWhere, Option.some.injEq, Prod.mk.injEq, true_and, beq_iff_eq]
      simp only [eq_comm]
    · rw [Mach.modTaskAt, Mach.modTask_st_ne _ _ _ _ hn]
      have hne : ¬ j = n := fun h => hn h.symm
      simp [hne]

theorem Mach.modTaskAt_frame (s : Mach) (p : Option (Nat × Nat)) (f : Task → Task) (y : Assoc Station) :
    { s.modTaskAt p f with sts := y } = { s with sts := y } := by
  cases p <;> rfl

@[simp] theorem Mach.modTaskAt_lodge (s : Mach) (p : Option (Nat × Nat)) (f : Task → Task) : (s.modTaskAt p f).lodge = s.lodge := by
  cases p <;> rfl

/-- The station and the task of a request that is a PUT of a task. -/
def Req.putTask (r : Req) : Option (Nat × Nat) :=
  match r.use with
  | .put n k _ => some (n, k)
  | _ => none

/-- The request that a message carries, if it is open. -/
def Mach.reqOf (s : Mach) (x : TxMsg) : Option Req := x.req.bind (fun id => s.lodge.reqs.find? (fun r => r.id == id))

/-- A request that a message carries has been sent. -/
def Req.sentBy (x : TxMsg) (r : Req) : Req := if x.req = some r.id then { r with sent := true, age := 0 } else r

def Mach.reqsSent (s : Mach) (x : TxMsg) : Mach := s.modLodge (fun y => { y with reqs := y.reqs.map (Req.sentBy x) })

/-- The request of a message that has gone out waits for its answer, and the task whose PUT it is has begun to send. -/
def Mach.requestGone (s : Mach) (x : TxMsg) : Mach :=
  (s.reqsSent x).modTaskAt ((s.reqOf x).bind Req.putTask) (fun t => { t with started := true })

theorem Mach.requestGone_of_none {s : Mach} {x : TxMsg} (h : x.req = none) : s.requestGone x = s := by
  have hid : Req.sentBy x = id := funext fun r => by simp [Req.sentBy, h]
  simp [Mach.requestGone, Mach.reqsSent, Mach.reqOf, Mach.modLodge, Mach.modTaskAt, h, hid]

/-- Marking the request of identity `id` as sent, and what the task of the request then found does. -/
theorem Mach.requestGone_of_some {s : Mach} {x : TxMsg} {id : Nat} (h : x.req = some id) :
    let u := s.modLodge (fun y => { y with
      reqs := modWhere (fun r => r.id == id) (fun r => { r with sent := true, age := 0 }) y.reqs })
    s.requestGone x = u.modTaskAt ((u.lodge.reqs.find? (fun r => r.id == id)).bind Req.putTask) (fun t => { t with started := true }) := by
  have hsentBy : (fun r : Req => if r.id == id then { r with sent := true, age := 0 } else r) = Req.sentBy x :=
    funext fun r => by simp only [Req.sentBy, h, Option.some.injEq, beq_iff_eq, @eq_comm _ id]
  have hid : ∀ r : Req, (Req.sentBy x r).id = r.id := fun r => by unfold Req.sentBy; split <;> rfl
  have hput : ∀ r : Req, (Req.sentBy x r).putTask = r.putTask := fun r => by unfold Req.sentBy; split <;> rfl
  have hfound : ((s.lodge.reqs.map (Req.sentBy x)).find? (fun r => r.id == id)).bind Req.putTask = (s.reqOf x).bind Req.putTask := by
    simp only [List.find?_map, Function.comp_def, hid, Option.bind_map, hput, Mach.reqOf, h, Option.bind_some]
  simp only [modWhere, hsentBy, Mach.requestGone, Mach.reqsSent, Mach.modLodge, hfound]

/-- A message that has gone out marks its MORE, its request, and the task whose PUT it is. -/
theorem Mach.hasGone_eq (s : Mach) (l : Nat) (x : TxMsg) :
    s.hasGone l x = (s.modTaskAt x.more (fun t => { t with mores := markMore l t.mores })).requestGone x := by
  have hmore : s.hasGone l x = (s.modTaskAt x.more (fun t => { t with mores := markMore l t.mores })).hasGone l { x with more := none } := by
    unfold Mach.hasGone Mach.modTaskAt
    cases x.more <;> rfl
  rw [hmore]
  generalize s.modTaskAt x.more (fun t => { t with mores := markMore l t.mores }) = u
  cases hreq : x.req with
  | none => simp only [Mach.requestGone_of_none hreq, Mach.hasGone]
  | some id =>
    simp only [Mach.requestGone_of_some hreq, Mach.hasGone]
    generalize u.modLodge _ = v
    cases v.lodge.reqs.find? (fun r => r.id == id) with
    | none => rfl
    | some r =>
      simp only [Option.map_some, Option.bind_some, Req.putTask]
      cases r.use <;> rfl

/-- A task once a message has gone out on link `l`: `put` is the task whose PUT it is. -/
def Task.gone (l n : Nat) (x : TxMsg) (put : Option (Nat × Nat)) (k : Task) : Task := { k with
  started := k.started || put == some (n, k.id)
  mores := if x.more = some (n, k.id) then markMore l k.mores else k.mores }

theorem Mach.hasGone_st (s : Mach) (l : Nat) (x : TxMsg) (n : Nat) : (s.hasGone l x).st n =
    { s.st n with tasks := (s.st n).tasks.map (Task.gone l n x ((s.reqOf x).bind Req.putTask)) } := by
  have hsent (u : Mach) : (u.reqsSent x).st n = u.st n := rfl
  have hreqOf : (s.modTaskAt x.more (fun t => { t with mores := markMore l t.mores })).reqOf x = s.reqOf x := by
    simp only [Mach.reqOf, Mach.modTaskAt_lodge]
  rw [Mach.hasGone_eq, Mach.requestGone, Mach.modTaskAt_st, hsent, Mach.modTaskAt_st, hreqOf]
  simp only [List.map_map]
  refine congrArg (fun ts => { s.st n with tasks := ts }) (List.map_congr_left fun k _ => ?_)
  by_cases hmore : x.more = some (n, k.id) <;> by_cases hput : (s.reqOf x).bind Req.putTask = some (n, k.id) <;>
    simp [Task.gone, hmore, hput, beq_eq_decide]

theorem Mach.hasGone_lodge (s : Mach) (l : Nat) (x : TxMsg) :
    (s.hasGone l x).lodge = { s.lodge with reqs := s.lodge.reqs.map (Req.sentBy x) } := by
  rw [Mach.hasGone_eq, Mach.requestGone, Mach.modTaskAt_lodge, Mach.reqsSent, Mach.modLodge, Mach.modTaskAt_lodge]

theorem Mach.hasGone_frame (s : Mach) (l : Nat) (x : TxMsg) (y : Assoc Station) (z : Lodge) :
    { s.hasGone l x with sts := y, lodge := z } = { s with sts := y, lodge := z } := by
  have hframe (u : Mach) (p : Option (Nat × Nat)) (f : Task → Task) :
      { u.modTaskAt p f with sts := y, lodge := z } = { u with sts := y, lodge := z } :=
    congrArg (fun v : Mach => { v with lodge := z }) (u.modTaskAt_frame p f y)
  rw [Mach.hasGone_eq, Mach.requestGone, hframe, Mach.reqsSent, Mach.modLodge]
  exact hframe s _ _

/-! ## The command -/

theorem exec_lodgingSend {s : State} {l : Nat} (hl : l < 12) : exec (.lodgingSend l) s = .next (commit s (s.m.lodgingSend l)) :=
  exec_of_act (fun _ m => m.lodgingSend l) rfl (link_wf hl)

/-- The message as it goes out: but for HELLO it carries the receiver's epoch (R285, R287). -/
def Mach.stamped (s : Mach) (l : Nat) (x : TxMsg) : LMsg :=
  if x.msg.op = 1 then x.msg else x.msg.withEpoch ((s.peer (s.link l).dev).epoch.getD 0)

/-- A link once its waiting message `i`, which is `x`, has gone out. -/
def Mach.linkSent (s : Mach) (l i : Nat) (x : TxMsg) (k : Link) : Link := { k with
  tx := k.tx.eraseIdx i, tokens := k.tokens - 3 * x.msg.len, lastSent := some (s.stamped l x)
  credits := if x.isPut then k.credits - 1 else k.credits }

/-- An agent that is ACTIVE sends the next message of an UP link that has the tokens for it. -/
theorem Mach.lodgingSend_of_ready {s : Mach} {l i : Nat} {x : TxMsg} (hup : (s.link l).st = 2) (hepoch : s.epoch ≠ 0)
    (hact : (s.st (agentOf l)).pwr = .active) (hnext : s.nextTx l = some (i, x)) (htok : 3 * x.msg.len ≤ (s.link l).tokens) :
    s.lodgingSend l = ((s.wakeStation (agentOf l)).modLink l (s.linkSent l i x)).hasGone l x := by
  have hwait : (s.link l).tx.isEmpty = false := by
    rw [List.isEmpty_eq_false_iff]
    exact List.ne_nil_of_mem (Mach.nextTx_sound hnext).2
  have hready : ((s.link l).st != linkUpSt || s.epoch == 0 || (s.link l).tx.isEmpty) = false := by
    simp [hup, linkUpSt, hepoch, hwait]
  simp only [Mach.lodgingSend, hready, hact, hnext, bne_self_eq_false, Bool.false_eq_true, if_false,
    if_neg (Nat.not_lt.mpr htok)]
  rfl

/-- Settles O56: the next message goes out, and `hasGone` marks what was sent with it. -/
theorem messagesSent : Obligations.MessagesSent := by
  intro s l i x hl hq hup hepoch hact hnext htok req put
  let u := (s.m.wakeStation (agentOf l)).modLink l (s.m.linkSent l i x)
  have hput : (u.reqOf x).bind Req.putTask = put := rfl
  have hexec : exec (.lodgingSend l) s = .next (commit s (u.hasGone l x)) := by
    rw [exec_lodgingSend hl, Mach.lodgingSend_of_ready hup hepoch hact hnext htok]
  have hlodge := u.hasGone_lodge l x
  have hlink (k : Nat) : (commit s (u.hasGone l x)).m.link k = u.link k := by
    show aget {} (u.hasGone l x).lodge.links k = _
    rw [hlodge]
    rfl
  refine ⟨_, hexec, ?_, Mach.credit_of_sendable (Mach.nextTx_sound hnext).1, fun k hk => ?_, ?_, fun n => ?_, ?_⟩
  · rw [hlink, Mach.modLink_link]
    rfl
  · rw [hlink, Mach.modLink_link_ne _ _ hk, Mach.wakeStation_link]
  · exact congrArg Lodge.reqs hlodge
  · have hst : u.st n = { s.m.st n with
        idleSclk := if n = agentOf l then 0 else (s.m.st n).idleSclk
        pgAclk := if n = agentOf l then 0 else (s.m.st n).pgAclk } := by
      show (s.m.wakeStation (agentOf l)).st n = _
      by_cases hn : n = agentOf l
      · subst hn
        rw [Mach.wakeStation_st, Station.askedAwake_of_awake (by simp [hact])]
        simp
      · rw [Mach.wakeStation_st_ne _ hn]
        simp [hn]
    rw [commit_st, Mach.hasGone_st, hput, hst]
    rfl
  · have hout : (u.hasGone l x).out = [] := (congrArg Mach.out (u.hasGone_frame l x [] {}) :).trans hq
    rw [commit_of_out_nil hout, hlodge]
    exact congrArg (fun m => { s with m := m }) (u.hasGone_frame l x _ _)

end Sys2Proof.Machine
end

section
/-!
PROOFS. Links that come up or leave UP (R288, R299), and the timers and counts by which a peer is lost (R297, R300, R303).
-/
namespace Sys2Proof.Machine

theorem exec_linkUp {s : State} {l dev : Nat} (hl : l < 12) (hd : dev < 8) :
    exec (.linkUp l dev) s = .next (commit s (s.m.linkUp l dev)) :=
  exec_of_act (fun _ m => m.linkUp l dev) rfl (by simp [Instr.wf, link_wf hl, okDev, hd])

theorem exec_linkDown {s : State} {l : Nat} (hl : l < 12) (training : Bool) :
    exec (.linkDown l training) s = .next (commit s (s.m.linkDown l training)) :=
  exec_of_act (fun _ m => m.linkDown l training) rfl (link_wf hl)

section
variable {s : Mach} {l : Nat}

/-- A link that was not UP comes up with nothing waiting on it, and this device's HELLO goes first. -/
theorem Mach.linkUp_of_down (h : (s.link l).st ≠ 2) (dev : Nat) : s.linkUp l dev =
    ((((s.modLink l (fun k => { k with
      st := 2, dev, helloSent := false, helloSeen := false
      epoch := if k.dev = dev then k.epoch else none, credits := 0, tx := [], rx := [] })).wakeStation
        (agentOf l)).modPeer dev (fun p => { p with down := false, downAge := 0 })).sendHello l).placeReqs dev := by
  have hst : ((s.link l).st == linkUpSt) = false := by simpa [linkUpSt] using h
  have hepoch (k : Link) : (if (k.dev == dev) = true then k.epoch else none) = if k.dev = dev then k.epoch else none := by
    simp only [beq_iff_eq]
  have hlink : s.modLink l (fun k => { k with
      st := linkUpSt, dev, helloSent := false, helloSeen := false
      epoch := if ((s.link l).dev == dev) = true then k.epoch else none, credits := 0, tx := [], rx := [] }) =
      s.modLink l (fun k => { k with
        st := 2, dev, helloSent := false, helloSeen := false
        epoch := if k.dev = dev then k.epoch else none, credits := 0, tx := [], rx := [] }) := by
    simp only [Mach.modLink, Mach.modLodge, amod, ← hepoch]
    rfl
  simp only [Mach.linkUp, hst, Bool.false_eq_true, if_false]
  rw [hlink]

theorem Mach.linkDown_of_down (h : (s.link l).st ≠ 2) (training : Bool) :
    s.linkDown l training = s.modLink l (fun k => { k with st := if training then 1 else 0 }) := by
  have hst : ((s.link l).st != linkUpSt) = true := by simpa [linkUpSt] using h
  simp only [Mach.linkDown, hst, if_true, linkTraining, linkDownSt]

theorem Mach.linkDown_of_up (h : (s.link l).st = 2) (training : Bool) :
    s.linkDown l training = (s.linkCut l (if training then 1 else 0)).sendAgain l (s.link l).dev := by
  have hst : ((s.link l).st != linkUpSt) = false := by simp [linkUpSt, h]
  simp only [Mach.linkDown, hst, Bool.false_eq_true, if_false, linkTraining, linkDownSt]

/-- A link that other requests go by is UP. -/
theorem Mach.st_of_otherLink {dev o : Nat} (h : s.otherLink dev = some o) : (s.link o).st = 2 := by
  have hmem : o ∈ s.upLinks dev := List.mem_of_head? h
  simp only [Mach.upLinks, List.mem_filter, Bool.and_eq_true, beq_iff_eq] at hmem
  exact hmem.2.1

/-- Messages that wait on another link leave this one, and the PUTs and GETs that are open. -/
theorem Mach.queueTxs_keeps {o : Nat} (ho : l ≠ o) (xs : List TxMsg) :
    (overList (fun s x => s.queueTx o x) s xs).link l = s.link l ∧
      (overList (fun s x => s.queueTx o x) s xs).lodge.puts = s.lodge.puts ∧
      (overList (fun s x => s.queueTx o x) s xs).lodge.gets = s.lodge.gets :=
  ⟨overList_keeps (fun m => m.link l) (fun m _ => Mach.modLink_link_ne m _ ho) s xs,
    overList_keeps (f := fun m x => m.queueTx o x) (fun m => m.lodge.puts) (fun _ _ => rfl) s xs,
    overList_keeps (f := fun m x => m.queueTx o x) (fun m => m.lodge.gets) (fun _ _ => rfl) s xs⟩

/-- A link that leaves UP for the state `st`, before EVICTs that waited on it go another way. -/
def Mach.linkClosed (s : Mach) (l st : Nat) : Mach :=
  ((s.modLink l (fun k => { k with st, helloSent := false, helloSeen := false, credits := 0, tx := [], rx := [] })).modLodge
    (fun x => { x with puts := x.puts.filter (fun p => p.link != l), gets := x.gets.filter (fun g => g.link != l) })).modPeer
      (s.link l).dev (fun p => if p.down then p else { p with down := true, downAge := 0 })

theorem Mach.linkClosed_link (s : Mach) (l st : Nat) : (s.linkClosed l st).link l =
    { s.link l with st, helloSent := false, helloSeen := false, credits := 0, tx := [], rx := [] } := by
  have hlink : (s.linkClosed l st).link l = (s.modLink l (fun k => { k with
    st, helloSent := false, helloSeen := false, credits := 0, tx := [], rx := [] })).link l := rfl
  rw [hlink, Mach.modLink_link]

/-- On a link that is cut nothing waits, it has no credit, and no PUT or GET is open on it. -/
theorem Mach.linkCut_spec (s : Mach) (l : Nat) {st : Nat} (hst : st ≠ 2) :
    (s.linkCut l st).link l = { s.link l with st, helloSent := false, helloSeen := false, credits := 0, tx := [], rx := [] } ∧
      (s.linkCut l st).lodge.puts = s.lodge.puts.filter (fun p => p.link != l) ∧
      (s.linkCut l st).lodge.gets = s.lodge.gets.filter (fun g => g.link != l) := by
  have hlink := s.linkClosed_link l st
  have hcut : s.linkCut l st = match (s.linkClosed l st).otherLink (s.link l).dev with
    | some o => overList (fun s x => s.queueTx o x) (s.linkClosed l st) (s.link l).evicts
    | none => s.linkClosed l st := rfl
  rw [hcut]
  split
  · next o ho =>
    have hne : l ≠ o := by
      rintro rfl
      have hup := Mach.st_of_otherLink ho
      rw [hlink] at hup
      exact hst hup
    obtain ⟨h1, h2, h3⟩ := Mach.queueTxs_keeps (s := s.linkClosed l st) hne (s.link l).evicts
    exact ⟨h1.trans hlink, h2, h3⟩
  · exact ⟨hlink, rfl, rfl⟩

end

/-- Settles O55: what each command's meaning makes of the link, and the one condition of each timer. -/
theorem linksAndPeers : Obligations.LinksAndPeers := by
  refine ⟨fun s l dev hl hd => ⟨fun hdown => ?up, fun hq hdown tr => ?still, fun hup tr => ?cut⟩,
    fun s d hd => ⟨fun id r hr hage => ?timeout, fun hdown hlinks hage => ?linkTimeout, fun hdue => ?vlimit⟩⟩
  case up => rw [exec_linkUp hl hd, Mach.linkUp_of_down hdown]
  case still =>
    rw [exec_linkDown hl, Mach.linkDown_of_down hdown]
    exact next_commit_eq_to hq
  case cut =>
    intro m
    have hst : (if tr then 1 else 0) ≠ 2 := by split <;> omega
    obtain ⟨hlink, hputs, hgets⟩ := s.m.linkCut_spec l hst
    refine ⟨by rw [exec_linkDown hl, Mach.linkDown_of_up hup], by rw [hlink], by rw [hlink], by rw [hlink], ?_, ?_⟩
    · rw [hputs]
      simp
    · rw [hgets]
      simp
  case timeout =>
    rw [exec_of_act (c := .lodgingTimeout id) (fun mem m => m.reqTimeout mem id) rfl rfl]
    simp only [Mach.reqTimeout, hr, if_pos hage, causeReq]
  case linkTimeout =>
    have hwf : (Instr.peerLinkTimeout d).wf = true := by simp [Instr.wf, okDev, hd]
    rw [exec_of_act (fun mem m => m.linkTimeout mem d) rfl hwf]
    simp [Mach.linkTimeout, hdown, hlinks, hage, causeLink]
  case vlimit =>
    have hwf : (Instr.vlimitReached d).wf = true := by simp [Instr.wf, okDev, hd]
    rw [exec_of_act (fun mem m => m.vlimitReached mem d) rfl hwf]
    simp [Mach.vlimitReached, hdue, causeVlimit]

end Sys2Proof.Machine
end

section
/-!
PROOFS. What the end of a task, a step abort and a request sent again leave of this device's standing with its peers:
`Mach.standing` is its links but for the messages that wait on them, its peers, and the windows that each context claims, has
lost, or is claiming.
-/
namespace Sys2Proof.Machine

/-! ## The view -/

/-- A link without the messages that wait to be sent on it. -/
def Link.kept (k : Link) : Link := { k with tx := [] }

/-- What a context holds and asks of its innkeepers. -/
def Ctx.windows (x : Ctx) : Ctx :=
  { claims := x.claims, lostTiers := x.lostTiers, claiming := x.claiming, swapClaiming := x.swapClaiming }

@[ext] structure Standing where
  link : Nat → Link
  peers : Assoc Peer
  ctx : Nat → Ctx

def Mach.standing (m : Mach) : Standing where
  link l := (m.link l).kept
  peers := m.lodge.peers
  ctx c := (m.ctx c).windows

theorem Mach.kept_of_standing {s m : Mach} (h : m.standing = s.standing) (l : Nat) : (m.link l).kept = (s.link l).kept :=
  congrFun (congrArg Standing.link h) l
theorem Mach.peer_of_standing {s m : Mach} (h : m.standing = s.standing) (d : Nat) : m.peer d = s.peer d := by
  have hpeers : m.lodge.peers = s.lodge.peers := congrArg Standing.peers h
  simp only [Mach.peer, hpeers]
theorem Mach.windows_of_standing {s m : Mach} (h : m.standing = s.standing) (c : Nat) : (m.ctx c).windows = (s.ctx c).windows :=
  congrFun (congrArg Standing.ctx h) c

/-! ## Updates that keep it -/

section
variable (s : Mach) (c g n id : Nat) (t : Task) (st : Status)

@[simp] theorem Mach.modSt_standing (f : Station → Station) : (s.modSt n f).standing = s.standing := rfl
@[simp] theorem Mach.modTask_standing (f : Task → Task) : (s.modTask n id f).standing = s.standing := rfl
@[simp] theorem Mach.dropTask_standing : (s.dropTask n id).standing = s.standing := rfl
@[simp] theorem Mach.modHs_standing (f : HostSide → HostSide) : (s.modHs f).standing = s.standing := rfl
@[simp] theorem Mach.logv_standing (e : VEntry) : (s.logv e).standing = s.standing := rfl
@[simp] theorem Mach.queueAcc_standing (a : Access) : (s.queueAcc n a).standing = s.standing := rfl
@[simp] theorem Mach.cellPush_standing (i : CellItem) : (s.cellPush n i).standing = s.standing := rfl
@[simp] theorem Mach.logTask_standing (kind block addr : Nat) : (s.logTask n t st kind block addr).standing = s.standing := rfl
@[simp] theorem Mach.amendLog_standing (f : VEntry → VEntry) : (s.amendLog c st f).standing = s.standing := rfl

@[simp] theorem Mach.raiseVec_standing (v : Nat) : (s.raiseVec v).standing = s.standing :=
  (congrArg Mach.standing (s.raiseVec_frame v s.msix) :)

@[simp] theorem Mach.raiseCtx_standing (k : Nat) : (s.raiseCtx c k).standing = s.standing := Mach.raiseVec_standing _ _

theorem Mach.modCtx_standing {f : Ctx → Ctx} (h : ∀ x, (f x).windows = x.windows := by intro x; rfl) :
    (s.modCtx c f).standing = s.standing :=
  Standing.ext rfl rfl (funext (Mach.modCtx_keeps Ctx.windows (h _)))

@[simp] theorem Mach.modStage_standing (f : StageRun → StageRun) : (s.modStage c g f).standing = s.standing :=
  Mach.modCtx_standing ..
@[simp] theorem Mach.modRec_standing (k : Nat) (f : RecInfo → RecInfo) : (s.modRec c g k f).standing = s.standing :=
  Mach.modStage_standing ..
@[simp] theorem Mach.addWasted_standing (k : Nat) : (s.addWasted c g k).standing = s.standing := Mach.modStage_standing ..
@[simp] theorem Mach.addDiscarded_standing : (s.addDiscarded c g).standing = s.standing := Mach.modStage_standing ..

theorem overList_standing {α : Type} {f : Mach → α → Mach} (h : ∀ m a, (f m a).standing = m.standing) (l : List α) :
    (overList f s l).standing = s.standing := overList_keeps Mach.standing h s l

theorem Mach.overTasks_standing {f : Mach → Task → Mach} (h : ∀ m t, (f m t).standing = m.standing) :
    (Mach.overTasks n f s).standing = s.standing := overTasks_keeps Mach.standing h s n

/-! ## Messages and requests -/

/-- A change of the lodging state that keeps its links, but for what waits on them, and its peers. -/
theorem Mach.modLodge_standing {f : Lodge → Lodge} (hlinks : ∀ l, (aget {} (f s.lodge).links l).kept = (s.link l).kept)
    (hpeers : (f s.lodge).peers = s.lodge.peers) : (s.modLodge f).standing = s.standing :=
  Standing.ext (funext hlinks) hpeers rfl

/-- Messages that are taken off every link. -/
theorem aget_filterTx (p : TxMsg → Bool) (ls : Assoc Link) (l : Nat) :
    aget ({} : Link) (ls.map (fun q => (q.1, { q.2 with tx := q.2.tx.filter p }))) l =
      { aget ({} : Link) ls l with tx := (aget ({} : Link) ls l).tx.filter p } := by
  induction ls with
  | nil => rfl
  | cons q ls ih =>
    obtain ⟨k, x⟩ := q
    by_cases h : k = l <;> simp [aget, h, ih]

theorem Mach.modLink_standing {l : Nat} {f : Link → Link} (h : (f (s.link l)).kept = (s.link l).kept) :
    (s.modLink l f).standing = s.standing := Standing.ext (funext (aget_amod_keeps Link.kept h)) rfl rfl

@[simp] theorem Mach.queueTx_standing (l : Nat) (x : TxMsg) : (s.queueTx l x).standing = s.standing :=
  s.modLink_standing rfl

@[simp] theorem Mach.newReq_standing (use : ReqUse) (dev : Nat) (link : Option Nat) (msg : LMsg) (cls : Nat) :
    (s.newReq use dev link msg cls).standing = s.standing := by
  unfold Mach.newReq
  cases link with
  | none => rfl
  | some l => exact Mach.queueTx_standing _ _ _

@[simp] theorem Mach.sendFree_standing (loc : Nat) : (s.sendFree c loc).standing = s.standing := by
  unfold Mach.sendFree
  split
  · rfl
  · exact Mach.newReq_standing _ _ _ _ _ _

@[simp] theorem Mach.dropReq_standing : (s.dropReq id).standing = s.standing :=
  s.modLodge_standing (fun l => by rw [aget_filterTx]; rfl) rfl

@[simp] theorem Mach.dropReqs_standing (p : Req → Bool) : (s.dropReqs p).standing = s.standing := by
  refine overList_standing _ (fun m r => ?_) _
  split <;> simp

@[simp] theorem Mach.oldPuts_standing (free : Bool) : (s.oldPuts n id free).standing = s.standing :=
  s.modLodge_standing (fun _ => rfl) rfl

@[simp] theorem Mach.dropSends_standing (free : Bool) : (s.dropSends n id free).standing = s.standing := by
  simp [Mach.dropSends]

@[simp] theorem Mach.haltSends_standing (free : Bool) : (s.haltSends n id free).standing = s.standing := by
  unfold Mach.haltSends
  split
  · rfl
  · split <;> simp

/-! ## Tasks that end -/

@[simp] theorem Mach.freeEngine_standing : (s.freeEngine n t).standing = s.standing := by
  unfold Mach.freeEngine
  split <;> rfl

@[simp] theorem Mach.dropAsks_standing : (s.dropAsks n id).standing = s.standing :=
  Mach.modLodge_standing _ (fun l => by rw [aget_filterTx]; rfl) rfl

@[simp] theorem Mach.haltAsks_standing : (s.haltAsks n id).standing = s.standing := rfl

@[simp] theorem Mach.removeTask_standing : (s.removeTask n t).standing = s.standing := by simp [Mach.removeTask]

@[simp] theorem Mach.chanEnd_standing (ch k : Nat) : (s.chanEnd ch st k).standing = s.standing := by
  unfold Mach.chanEnd
  dsimp only
  split
  · exact Mach.raiseVec_standing _ _
  · rfl

@[simp] theorem Mach.endTask_standing : (s.endTask n t st).standing = s.standing := by
  unfold Mach.endTask Mach.endChans
  dsimp only
  split <;> split <;> simp

@[simp] theorem Mach.endFailed_standing : (s.endFailed n t).standing = s.standing := by
  unfold Mach.endFailed
  split <;> simp

@[simp] theorem Mach.quitTask_standing : (s.quitTask n id st).standing = s.standing := by
  unfold Mach.quitTask
  split
  · rfl
  · dsimp only
    split <;> simp

/-! ## A step abort (R390) -/

@[simp] theorem Mach.writeRec_standing (rc : Rec) : (s.writeRec n t rc).standing = s.standing := by
  unfold Mach.writeRec
  split <;> simp

@[simp] theorem Mach.rewriteRec_standing (k : Nat) (rc : Rec) : (s.rewriteRec c g k rc).standing = s.standing := by
  simp [Mach.rewriteRec]

@[simp] theorem Mach.cancelFetch_standing : (s.cancelFetch n t).standing = s.standing := by
  simp [Mach.cancelFetch, apply_ite Mach.standing]

@[simp] theorem Mach.abortTask_standing : (s.abortTask n t).standing = s.standing := by
  unfold Mach.abortTask Mach.dropLost
  split <;> simp

@[simp] theorem Mach.discardEvent_standing (e : QEvent) : (s.discardEvent e).standing = s.standing := by
  unfold Mach.discardEvent
  dsimp only
  split <;> simp

@[simp] theorem Mach.flushEvents_standing (all : Bool) : (s.flushEvents c all).standing = s.standing := by
  refine overList_standing _ (fun m k => ?_) _
  dsimp only
  rw [Mach.modSt_standing, overList_standing _ Mach.discardEvent_standing]

@[simp] theorem Mach.dropTickets_standing (p : Ticket → Bool) : (s.dropTickets p).standing = s.standing := by
  refine overList_standing _ (fun m k => ?_) _
  rfl

@[simp] theorem Mach.semwaits_standing : (s.semwaits c).standing = s.standing := by
  refine overList_standing _ (fun m n => overList_standing m (fun u p => ?_) _) _
  split
  · split <;> simp
  · rfl

@[simp] theorem Mach.enterAborting_standing : (s.enterAborting c st).standing = s.standing := by
  unfold Mach.enterAborting
  refine (overList_standing _ (fun m n => Mach.overTasks_standing m n (fun u t => ?_)) _).trans ?_
  · split <;> simp
  · rw [Mach.dropTickets_standing, Mach.flushEvents_standing, Mach.semwaits_standing, Mach.logv_standing]
    exact Mach.modCtx_standing _ _

@[simp] theorem Mach.forceAbort_standing (rank : Nat) : (s.forceAbort c rank st).standing = s.standing := by
  unfold Mach.forceAbort
  dsimp only
  split
  · exact (Mach.enterAborting_standing ..).trans (Mach.modCtx_standing _ _)
  · exact (Mach.enterAborting_standing ..).trans (Mach.modCtx_standing _ _)
  · split
    · exact (Mach.amendLog_standing ..).trans (Mach.modCtx_standing _ _)
    · rfl
  · rfl

/-! ## Tasks that fail (R389, R391, R392, R395) -/

@[simp] theorem Mach.failFetch_standing (kind block : Nat) : (s.failFetch n t st kind block).standing = s.standing := by
  have hlost (u : Mach) : (match t.fill with
      | some k => if t.replayRec.isSome then u else u.modRec t.ctx t.stage k (fun r => { r with lost := some (r.lost.getD .reclost) })
      | none => u).standing = u.standing := by
    split
    · split <;> simp
    · rfl
  unfold Mach.failFetch
  rw [Mach.forceAbort_standing, Mach.overTasks_standing]
  · simp only [apply_ite Mach.standing, Mach.modTask_standing, Mach.endTask_standing, Mach.modSt_standing, Mach.haltAsks_standing,
      Mach.freeEngine_standing, ite_self]
    exact (hlost _).trans (by simp)
  · intro m u
    rw [apply_ite Mach.standing, Mach.dropTask_standing, Mach.logTask_standing, ite_self]

@[simp] theorem Mach.failStash_standing (kind : Nat) : (s.failStash n t st kind).standing = s.standing := by
  have hlost (u : Mach) : (match t.fill with
      | some k => u.modRec t.ctx t.stage k (fun r => { r with lost := some .reclost, stashing := false })
      | none => u).standing = u.standing := by
    split <;> simp
  have herr (u : Mach) : (overList (fun m k => m.cellPush n (.err k t.entry.cell st)) u (sortedCores t.readCores)).standing =
      u.standing := overList_standing u (fun m k => Mach.cellPush_standing m n _) _
  unfold Mach.failStash
  simp only [Mach.forceAbort_standing, Mach.modTask_standing, Mach.modSt_standing, apply_ite Mach.standing, herr,
    Mach.writeRec_standing, ite_self]
  exact (hlost _).trans (by simp)

@[simp] theorem Mach.failSend_standing (kind : Nat) : (s.failSend n t st kind).standing = s.standing := by
  simp [Mach.failSend, apply_ite Mach.standing]

@[simp] theorem Mach.stayInCellar_standing : (s.stayInCellar n t).standing = s.standing := by
  unfold Mach.stayInCellar
  rw [Mach.quitTask_standing, Mach.modStage_standing]
  split
  · rfl
  · rw [Mach.rewriteRec_standing]
    split <;> simp

@[simp] theorem Mach.abandonDemotion_standing : (s.abandonDemotion n t).standing = s.standing := by
  simp [Mach.abandonDemotion]

@[simp] theorem Mach.failDemotion_standing (kind block : Nat) (intact : Bool) :
    (s.failDemotion n t st kind block intact).standing = s.standing := by
  unfold Mach.failDemotion
  dsimp only
  split
  · simp
  · rw [Mach.quitTask_standing, Mach.modStage_standing]
    split <;> simp

@[simp] theorem Mach.failInn_standing (blk : Nat) : (s.failInn n t blk).standing = s.standing := by
  unfold Mach.failInn
  split
  · simp
  · split <;> simp

theorem Mach.readInn_standing {go : Mach → Mach} (h : ∀ m, (go m).standing = m.standing) (blk : Nat) :
    (s.readInn n id blk go).standing = s.standing := by
  unfold Mach.readInn
  split
  · exact h s
  · split
    · exact h s
    · rw [h]
      rfl
    · split <;> simp

/-! ## Recalls (R300) -/

@[simp] theorem Mach.cellarWrites_standing : (s.cellarWrites n id).standing = s.standing := by
  unfold Mach.cellarWrites
  split
  · rfl
  · split
    · rfl
    · refine (overList_standing _ (fun m i => ?_) _).trans (by simp)
      split <;> simp

@[simp] theorem Mach.advanceCellar_standing : (s.advanceCellar n id).standing = s.standing := by
  unfold Mach.advanceCellar
  split
  · rfl
  · split
    · simp
    · exact Mach.readInn_standing _ _ _ (fun m => m.cellarWrites_standing n id) _

theorem Mach.reserveTask_standing {s m : Mach} {n : Nat} {t : Task} (h : s.reserveTask n t = some m) : m.standing = s.standing := by
  unfold Mach.reserveTask Mach.tryReserve at h
  dsimp only at h
  split at h
  · next k a u hfill hres =>
    split at hres
    · cases hres
      cases h
      simp
    · cases hres
  · cases h

@[simp] theorem Mach.reserveRun_standing (ts : List Task) : (s.reserveRun n ts).standing = s.standing := by
  induction ts generalizing s with
  | nil => rfl
  | cons t ts ih =>
    unfold Mach.reserveRun
    split
    · next m hm => rw [ih, Mach.reserveTask_standing hm]
    · rfl

@[simp] theorem Mach.cellarDone_standing : (s.cellarDone n id).standing = s.standing := by
  unfold Mach.cellarDone
  split
  · rfl
  · dsimp only
    split <;> simp

@[simp] theorem Mach.recall_standing : (s.recall n id).standing = s.standing := by
  unfold Mach.recall
  split
  · rfl
  · split
    · rfl
    · simp [Mach.reserveAll]

/-! ## Requests that are placed on a link (R299) -/

@[simp] theorem Mach.queueAsk_standing (first : Bool) : (s.queueAsk n id first).standing = s.standing := by
  unfold Mach.queueAsk
  split
  · rfl
  · split <;> simp

@[simp] theorem Mach.resendGet_standing : (s.resendGet n id).standing = s.standing := by
  unfold Mach.resendGet
  split
  · rfl
  · dsimp only
    split
    · simp
    · split <;> simp

@[simp] theorem Mach.placeReq_standing (r : Req) : (s.placeReq r).standing = s.standing := by
  have hon (u : Mach) (l : Option Nat) : (match l with
      | none => u
      | some k =>
        (u.modLodge (fun x => { x with reqs := modWhere (fun q => q.id == r.id) (fun q => { q with link := l }) x.reqs })).queueTx k
          { msg := r.msg, cls := r.cls, isPut := r.use.isPut, req := some r.id }).standing = u.standing := by
    split
    · rfl
    · exact (Mach.queueTx_standing _ _ _).trans (u.modLodge_standing (fun _ => rfl) rfl)
  unfold Mach.placeReq
  dsimp only
  split
  · rfl
  · split
    · simp
    · split
      · next l _ => exact hon s (some l)
      · exact (hon _ _).trans (by simp)
    · exact hon s _

@[simp] theorem Mach.placeReqs_standing (dev : Nat) : (s.placeReqs dev).standing = s.standing := by
  refine overList_standing _ (fun m r => ?_) _
  split <;> simp

end

end Sys2Proof.Machine
end

section
/-!
PROOFS. What a requester makes of answers (R288, R295, R296, R300, R301, R304), once its agent is awake: HELLO of a known
epoch, answers to no request, and EVICT.
-/
namespace Sys2Proof.Machine

/-! ## A message that its agent takes -/

/-- A message comes on an UP link whose agent is ACTIVE, with none waiting before it. -/
structure Arrives (s : State) (l : Nat) (m : LMsg) : Prop where
  link : l < 12
  whole : m.payload.length % 16 = 0
  up : (s.m.link l).st = 2
  active : (s.m.st (agentOf l)).pwr = .active
  first : (s.m.link l).rx = []

section
variable {s : State} {l k : Nat} {m : LMsg} {c : Instr}

theorem messageCmds_op (hc : (c, k) ∈ messageCmds l m) : k ≠ 0 ∧ k ≤ 13 := by
  simp only [messageCmds, List.mem_cons, Prod.mk.injEq, List.not_mem_nil, or_false] at hc
  omega

theorem Arrives.exec_request (h : Arrives s l m) (hc : (c, k) ∈ messageCmds l m) (hk : isRequest k = true)
    (hop : m.op = k ∨ m.op = 0 ∨ 13 < m.op) :
    exec c s = .next (commit s ((s.m.wakeStation (agentOf l)).innRequest l m)) := by
  have hreq : isRequest m.op = true ∨ isRequest k = true ∧ (m.op = 0 ∨ 13 < m.op) :=
    hop.imp (fun heq => by rw [heq]; exact hk) (fun hstray => ⟨hk, hstray⟩)
  rw [exec_message h.link h.whole hc, Mach.receive_of_active h.up hop h.active h.first, Mach.takeMsg_of_request hreq]

theorem Arrives.exec_answer (h : Arrives s l m) (hc : (c, k) ∈ messageCmds l m) (hk : isRequest k = false) (hop : m.op = k) :
    exec c s = .next (commit s ((s.m.wakeStation (agentOf l)).answer s.mem l m)) := by
  subst hop
  obtain ⟨h0, h13⟩ := messageCmds_op hc
  rw [exec_message h.link h.whole hc, Mach.receive_of_active h.up (.inl rfl) h.active h.first, Mach.takeMsg_of_answer hk h0 h13]

variable {u : Mach}

/-- A request that its agent takes leaves what the innkeeper makes of it. -/
theorem Arrives.exec_of_request (h : Arrives s l m) (hop : m.op = k) (hu : (s.m.wakeStation (agentOf l)).innRequest l m = u)
    (hc : (c, k) ∈ messageCmds l m) (hk : isRequest k = true) : exec c s = .next (commit s u) :=
  hu ▸ h.exec_request hc hk (.inl hop)

/-- An answer that its agent takes leaves what the requester makes of it. -/
theorem Arrives.exec_of_answer (h : Arrives s l m) (hop : m.op = k) (hu : (s.m.wakeStation (agentOf l)).answer s.mem l m = u)
    (hc : (c, k) ∈ messageCmds l m) (hk : isRequest k = false) : exec c s = .next (commit s u) :=
  hu ▸ h.exec_answer hc hk hop

end

/-! ## The checks of an answer (R285, R304) -/

/-- A message comes from the device at the far end of its link, for this one, with no reserved field set. -/
structure Mach.Hears (s : Mach) (l : Nat) (m : LMsg) : Prop where
  src : m.src = (s.link l).dev
  dst : m.dst = s.devid
  rsvd : msgRsvd m = none

section
variable {s : Mach} {mem : Mems} {l : Nat} {m : LMsg}

/-- A sound message of a valid OP is judged by its OP and its epoch alone. -/
theorem Mach.Hears.answer_eq (h : s.Hears l m) (h0 : m.op ≠ 0) (h13 : m.op ≤ 13) : s.answer mem l m =
    if m.op = lopHello then s.takeHello mem l m
    else if m.epoch ≠ s.epoch ∨ s.epoch = 0 then s.violate l m.op 0 6 m.epoch
    else if m.op = lopPutAck then s.putAck l m
    else if m.op = lopData then s.dataMsg l m
    else if m.op = lopAck then s.ackMsg mem l m
    else if m.op = lopNak then s.nakMsg mem l m
    else s.evictMsg mem l m := by
  have hvalid : ¬(m.op = 0 ∨ lopEvict < m.op) := by
    rintro (hz | hbig)
    · exact h0 hz
    · exact absurd hbig (Nat.not_lt.mpr h13)
  have hpeer : ¬(m.src ≠ (s.link l).dev ∨ m.dst ≠ s.devid) := by simp [h.src, h.dst]
  simp only [Mach.answer, if_neg hvalid, if_neg hpeer, h.rsvd]

theorem Mach.Hears.answer_hello (h : s.Hears l m) (hop : m.op = 1) : s.answer mem l m = s.takeHello mem l m := by
  rw [h.answer_eq (by omega) (by omega)]
  exact if_pos hop

/-- A sound message of this device's epoch, HELLO apart, is judged by its OP alone. -/
theorem Mach.Hears.answer_current (h : s.Hears l m) (hepoch : m.epoch = s.epoch) (hset : s.epoch ≠ 0) :
    (m.op = 5 → s.answer mem l m = s.putAck l m) ∧ (m.op = 8 → s.answer mem l m = s.dataMsg l m) ∧
      (m.op = 11 → s.answer mem l m = s.ackMsg mem l m) ∧ (m.op = 12 → s.answer mem l m = s.nakMsg mem l m) ∧
      (m.op = 13 → s.answer mem l m = s.evictMsg mem l m) := by
  have hcur : ¬(m.epoch ≠ s.epoch ∨ s.epoch = 0) := by simp [hepoch, hset]
  refine ⟨fun hop => ?_, fun hop => ?_, fun hop => ?_, fun hop => ?_, fun hop => ?_⟩ <;>
  · rw [h.answer_eq (by omega) (by omega), if_neg hcur, hop]
    rfl

/-! ## Answers to requests (R292, R295, R296, R304) -/

/-- The PUT_ACK of an attempt given up, whose beds are not to be freed by it, returns its credit. -/
theorem Mach.putAck_of_old {q : Req} {c n t k : Nat} {b : Bool} (hq : s.putReq l m.a0.toNat (msgBlk m) (putLast m) = some q)
    (huse : q.use = .putOld c b n t k) (hkeep : b = false ∨ putLast m = false) : s.putAck l m = (s.dropReq q.id).giveCredit l := by
  have hfree : (b && putLast m) = false := by rcases hkeep with h | h <;> simp [h]
  simp only [Mach.putAck, hq, huse, hfree, Bool.false_eq_true, if_false]

theorem Mach.putAck_of_none (h : s.putReq l m.a0.toNat (msgBlk m) (putLast m) = none) :
    s.putAck l m = s.violate l m.op 0 8 m.a0.toNat := by
  simp only [Mach.putAck, h]

theorem Mach.dataMsg_of_none (h : s.getReq l m.a0.toNat m.a2.toNat = none) : s.dataMsg l m = s.violate l m.op 0 8 m.a0.toNat := by
  simp only [Mach.dataMsg, h]

/-- No request sent on a link satisfies what none of them does. -/
theorem Mach.reqOn_eq_none {p : Req → Bool} (h : ∀ q ∈ s.lodge.reqs, q.sent = true → q.link = some l → p q = false) :
    s.reqOn l p = none := by
  refine List.find?_eq_none.mpr fun q hq hp => ?_
  simp only [Bool.and_eq_true, beq_iff_eq] at hp
  obtain ⟨⟨hsent, hlink⟩, hp⟩ := hp
  rw [h q hq hsent hlink] at hp
  cases hp

theorem Mach.ackMsg_of_none (h : ∀ q ∈ s.lodge.reqs, q.sent = true → q.link = some l → q.msg.op ≠ W64.bits m.a1 7 0) :
    s.ackMsg mem l m = s.violate l m.op 0 8 m.a0.toNat := by
  have hnone : s.reqOn l (fun r => r.msg.op == W64.bits m.a1 7 0 && r.msg.a0 == m.a0 && r.msg.ctx == m.ctx && !r.use.isPut &&
      !r.use.isGet) = none :=
    Mach.reqOn_eq_none fun q hq hsent hlink => by simp [h q hq hsent hlink]
  simp only [Mach.ackMsg, hnone]

theorem Mach.nakMsg_of_noPut (hop : W64.bits m.a1 7 0 = 4)
    (h : ∀ q ∈ s.lodge.reqs, q.sent = true → q.link = some l → q.use.isPut = false) :
    s.nakMsg mem l m = s.violate l 4 (W64.bits m.a1 15 8) (W64.bits m.a1 31 16) m.a2.toNat := by
  have hnone (op code off v : Nat) : (s.violate l op code off v).reqOn l (fun r => r.use.isPut && r.msg.a0 == m.a0) = none :=
    Mach.reqOn_eq_none fun q hq hsent hlink => by simp [h q hq hsent hlink]
  simp only [Mach.nakMsg, hop, lopPut, if_true, hnone]

/-- Which GET a block answers does not depend on the power of a station. -/
theorem Mach.getReq_wakeStation (s : Mach) (n l loc ledger : Nat) : (s.wakeStation n).getReq l loc ledger = s.getReq l loc ledger := by
  simp only [Mach.getReq, Mach.reqOn, Mach.wakeStation_lodge, Mach.wakeStation_task]

/-! ## HELLO (R288) -/

/-- This device's HELLO on a link leaves what that link's HELLO has brought, where the peer has no violation to forget. -/
theorem Mach.sendHello_keeps (hcred : (s.link l).credits = 32) {p : Peer} (hp : s.peer (s.link l).dev = p) (hviol : p.viol = 0)
    (hdue : p.violDue = false) :
    (∃ tx sent, (s.sendHello l).link l = { s.link l with credits := 32, tx, helloSent := sent }) ∧ (s.sendHello l).peer (s.link l).dev = p := by
  unfold Mach.sendHello
  dsimp only
  split
  · exact ⟨⟨(s.link l).tx, (s.link l).helloSent, by rw [← hcred]⟩, hp⟩
  · constructor
    · have hlink (u : Mach) (d : Nat) (f : Peer → Peer) : (u.modPeer d f).link l = u.link l := rfl
      rw [hlink, Mach.modLink_link, Mach.queueTx, Mach.modLink_link]
      exact ⟨_, _, rfl⟩
    · rw [Mach.modPeer_peer]
      show ({ s.peer (s.link l).dev with viol := 0, violDue := false } : Peer) = p
      rw [hp, ← hviol, ← hdue]

/-- A HELLO of the peer's first epoch, or of the one recorded, is noted on its link and for its peer. -/
def Mach.heard (s : Mach) (l e : Nat) : Mach :=
  (s.modPeer (s.link l).dev (fun p => { p with epoch := some e, viol := 0, violDue := false, haltd := false })).modLink l
    (fun k => { k with epoch := some e, helloSeen := true, credits := 32 })

theorem Mach.takeHello_of_known {e : Nat} (he : W64.bits m.a0 15 0 = e)
    (h : (s.peer (s.link l).dev).epoch = none ∨ (s.peer (s.link l).dev).epoch = some e) :
    s.takeHello mem l m = (if ((s.heard l e).link l).helloSent then s.heard l e else (s.heard l e).sendHello l).placeReqs
      (s.link l).dev := by
  unfold Mach.takeHello
  rcases h with h | h <;> simp only [he, h, bne_self_eq_false, Bool.false_eq_true, if_false] <;> rfl

/-- What such a HELLO leaves of the link and of the peer. -/
theorem Mach.takeHello_spec {e : Nat} (he : W64.bits m.a0 15 0 = e)
    (h : (s.peer (s.link l).dev).epoch = none ∨ (s.peer (s.link l).dev).epoch = some e) :
    ((s.takeHello mem l m).link l).credits = 32 ∧ ((s.takeHello mem l m).link l).helloSeen = true ∧
      ((s.takeHello mem l m).link l).epoch = some e ∧ (s.takeHello mem l m).peer (s.link l).dev =
        { s.peer (s.link l).dev with epoch := some e, viol := 0, violDue := false, haltd := false } := by
  let p : Peer := { s.peer (s.link l).dev with epoch := some e, viol := 0, violDue := false, haltd := false }
  have hlink : (s.heard l e).link l = { s.link l with epoch := some e, helloSeen := true, credits := 32 } := Mach.modLink_link _ _ _
  have hpeer : (s.heard l e).peer (s.link l).dev = p := by
    have hmod : (s.heard l e).peer (s.link l).dev = (s.modPeer (s.link l).dev (fun p => { p with
      epoch := some e, viol := 0, violDue := false, haltd := false })).peer (s.link l).dev := rfl
    rw [hmod, Mach.modPeer_peer]
  have hsame : ((s.heard l e).link l).dev = (s.link l).dev := by rw [hlink]
  let u := if ((s.heard l e).link l).helloSent then s.heard l e else (s.heard l e).sendHello l
  have hu : (∃ tx sent, u.link l = { s.link l with epoch := some e, helloSeen := true, credits := 32, tx, helloSent := sent }) ∧
      u.peer (s.link l).dev = p := by
    by_cases hsent : ((s.heard l e).link l).helloSent = true
    · simp only [u, if_pos hsent]
      exact ⟨⟨_, _, hlink⟩, hpeer⟩
    · obtain ⟨⟨tx, sent, hl⟩, hp⟩ := (s.heard l e).sendHello_keeps (l := l) (by rw [hlink]) (hsame ▸ hpeer) rfl rfl
      simp only [u, if_neg hsent]
      exact ⟨⟨tx, sent, by rw [hl, hlink]⟩, hsame ▸ hp⟩
  obtain ⟨⟨tx, sent, hul⟩, hup⟩ := hu
  have hplaced : (u.placeReqs (s.link l).dev).standing = u.standing := u.placeReqs_standing _
  have hkept := Mach.kept_of_standing hplaced l
  rw [hul] at hkept
  rw [Mach.takeHello_of_known he h]
  exact ⟨congrArg Link.credits hkept, congrArg Link.helloSeen hkept, congrArg Link.epoch hkept,
    (Mach.peer_of_standing hplaced _).trans hup⟩

end

/-! ## EVICT (R300, R302) -/

section
variable (s : Mach)

@[simp] theorem Mach.loseTask_standing (n : Nat) (t : Task) (tiers : List Nat) (hit : Nat → Bool) :
    (s.loseTask n t tiers hit).standing = s.standing := by
  unfold Mach.loseTask
  dsimp only
  split
  · simp only [apply_ite Mach.standing, Mach.endFailed_standing, Mach.endTask_standing, Mach.failFetch_standing,
      Mach.dropAsks_standing, ite_self]
  · simp only [apply_ite Mach.standing, Mach.endFailed_standing, Mach.recall_standing, Mach.dropSends_standing, ite_self]
  · simp only [apply_ite Mach.standing, Mach.endFailed_standing, Mach.abandonDemotion_standing, Mach.dropSends_standing, ite_self]
  · rfl

/-- A context that has lost tiers. -/
def Ctx.losing (tiers : List Nat) (x : Ctx) : Ctx := { x with
  claims := x.claims.filter (fun k => !tiers.contains k.tier)
  lostTiers := x.lostTiers ++ tiers.filter (fun t => !x.lostTiers.contains t)
  regained := x.regained.filter (fun t => !tiers.contains t) }

/-- Losing tiers takes their windows from the context; what becomes of records and tasks changes no window. -/
theorem Mach.loseTiers_standing (c : Nat) (tiers : List Nat) (dev cause : Nat) :
    (s.loseTiers c tiers dev cause).standing = (s.modCtx c (Ctx.losing tiers)).standing := by
  unfold Mach.loseTiers
  dsimp only
  rw [overList_standing, Mach.raiseCtx_standing, Mach.logv_standing, overList_standing]
  · rfl
  · intro m p
    split <;> simp
  · intro m n
    refine Mach.overTasks_standing _ _ (fun u t => ?_)
    split <;> simp

variable {s}

/-- A tier that is lost is among the lost ones, and no window of it is claimed. -/
theorem Ctx.losing_spec {x y : Ctx} {tiers : List Nat} {t : Nat} (ht : t ∈ tiers) (h : y.windows = (x.losing tiers).windows) :
    t ∈ y.lostTiers ∧ ∀ q ∈ y.claims, q.tier ≠ t := by
  have hlost : y.lostTiers = x.lostTiers ++ tiers.filter (fun t => !x.lostTiers.contains t) := congrArg Ctx.lostTiers h
  have hclaims : y.claims = x.claims.filter (fun k => !tiers.contains k.tier) := congrArg Ctx.claims h
  constructor
  · rw [hlost]
    by_cases hin : t ∈ x.lostTiers <;> simp [hin, ht]
  · rw [hclaims]
    intro q hq htier
    simp [htier, ht] at hq

/-- A context that was claiming no window claims none once it has lost tiers. -/
theorem Ctx.claimsFor_losing {x y : Ctx} {tiers : List Nat} (h : y.windows = (x.losing tiers).windows) (hidle : x.claiming = none)
    (hswap : x.swapClaiming = none) (swap : Bool) : y.claimsFor swap = none := by
  have h1 : y.claiming = x.claiming := (congrArg Ctx.claiming h :)
  have h2 : y.swapClaiming = x.swapClaiming := (congrArg Ctx.swapClaiming h :)
  cases swap
  · exact h1.trans hidle
  · exact h2.trans hswap

theorem Mach.loseTiers_windows (c : Nat) (tiers : List Nat) (dev cause : Nat) :
    ((s.loseTiers c tiers dev cause).ctx c).windows = ((s.ctx c).losing tiers).windows := by
  rw [Mach.windows_of_standing (s.loseTiers_standing c tiers dev cause), Mach.modCtx_ctx]

/-- The tiers of the windows at an address of a device. -/
def Ctx.tiersAt (x : Ctx) (dev base : Nat) : List Nat :=
  (x.claims.filter (fun k => k.dev == dev && k.base == base)).map (fun k => k.tier)

/-- EVICT of windows of a context that claims none: the tiers of the windows are lost, and no more. -/
theorem Mach.evictMsg_of_idle {mem : Mems} {l : Nat} {m : LMsg} (hsome : (s.ctx m.ctx).tiersAt (s.link l).dev m.a0.toNat ≠ [])
    (hidle : (s.ctx m.ctx).claiming = none) (hswap : (s.ctx m.ctx).swapClaiming = none) : s.evictMsg mem l m =
      s.loseTiers m.ctx ((s.ctx m.ctx).tiersAt (s.link l).dev m.a0.toNat) (s.link l).dev causeEvict := by
  have hwin := s.loseTiers_windows m.ctx ((s.ctx m.ctx).tiersAt (s.link l).dev m.a0.toNat) (s.link l).dev causeEvict
  have hnone := Ctx.claimsFor_losing hwin hidle hswap
  unfold Mach.evictMsg
  unfold Ctx.tiersAt at hsome hnone ⊢
  simp only [List.isEmpty_eq_false_iff.mpr hsome, Bool.false_eq_true, if_false, overList, List.foldl_cons, List.foldl_nil, hnone,
    Option.bind_none]

/-- EVICT of a window of a context that claims none: its tier is lost, and no window of it is claimed. -/
theorem Mach.evictMsg_spec {mem : Mems} {l : Nat} {m : LMsg} {k : ReqClaim} (hk : k ∈ (s.ctx m.ctx).claims)
    (hdev : k.dev = (s.link l).dev) (hbase : k.base = m.a0.toNat) (hidle : (s.ctx m.ctx).claiming = none)
    (hswap : (s.ctx m.ctx).swapClaiming = none) :
    k.tier ∈ ((s.evictMsg mem l m).ctx m.ctx).lostTiers ∧ ∀ q ∈ ((s.evictMsg mem l m).ctx m.ctx).claims, q.tier ≠ k.tier := by
  have hmem : k.tier ∈ (s.ctx m.ctx).tiersAt (s.link l).dev m.a0.toNat :=
    List.mem_map_of_mem (List.mem_filter.mpr ⟨hk, by simp [hdev, hbase]⟩)
  rw [Mach.evictMsg_of_idle (List.ne_nil_of_mem hmem) hidle hswap]
  exact Ctx.losing_spec hmem (s.loseTiers_windows _ _ _ _)

end

end Sys2Proof.Machine
end

section
/-!
PROOFS. What an innkeeper makes of requests (R284, R291–R294, R296, R298, R303, R304), each said of a machine whose agent is
awake.
-/
namespace Sys2Proof.Machine

/-! ## Checks -/

theorem firstNak_eq_none {ps : List (Bool × Nak)} (h : ∀ p ∈ ps, p.1 = false) : firstNak ps = none := by
  induction ps with
  | nil => rfl
  | cons p ps ih =>
    obtain ⟨b, n⟩ := p
    have hb : b = false := h (b, n) List.mem_cons_self
    simpa [firstNak, hb] using ih fun p hp => h p (List.mem_cons_of_mem _ hp)

theorem false_of_firstNak {ps : List (Bool × Nak)} (h : firstNak ps = none) : ∀ p ∈ ps, p.1 = false := by
  induction ps with
  | nil => simp
  | cons p ps ih =>
    obtain ⟨b, n⟩ := p
    cases b with
    | true => simp [firstNak] at h
    | false =>
      rw [firstNak, if_neg Bool.false_ne_true] at h
      exact List.forall_mem_cons.mpr ⟨rfl, ih h⟩

theorem false_of_firstBadField {ps : List (Bool × Nat × Nat)} (h : firstBadField ps = none) : ∀ p ∈ ps, p.1 = false := by
  induction ps with
  | nil => simp
  | cons p ps ih =>
    obtain ⟨b, o, v⟩ := p
    cases b with
    | true => simp [firstBadField] at h
    | false =>
      rw [firstBadField, if_neg Bool.false_ne_true] at h
      exact List.forall_mem_cons.mpr ⟨rfl, ih h⟩

section
variable {s : Mach} {l : Nat} {m : LMsg} {k : InnClaim}

theorem Mach.rsvd_of_headFault (h : s.headFault l m = none) : msgRsvd m = none := by
  have hr := false_of_firstNak h ((msgRsvd m).isSome, nakRsvd, ((msgRsvd m).getD (0, 0)).1, ((msgRsvd m).getD (0, 0)).2) (by simp)
  simpa using hr

/-- A GET that passes the check of its fields grants a room (R296). -/
theorem rooms_of_get (h : msgRsvd m = none) (hop : m.op = 6) : W64.bits m.a1 31 24 ≠ 0 := by
  have hmem : ((W64.bits m.a1 31 24 == 0 || decide (64 < W64.bits m.a1 31 24)), 19, W64.bits m.a1 31 24) ∈ argRsvd m := by
    simp [argRsvd, hop]
  have hrooms := false_of_firstBadField h _ (List.mem_append_right _ hmem)
  simp only [Bool.or_eq_false_iff, beq_eq_false_iff_ne] at hrooms
  exact hrooms.1

/-! ## Replies -/

/-- The answer to a request. -/
def Mach.answerTo (s : Mach) (l : Nat) (m : LMsg) (op : Nat) (a1 a2 : W64) : TxMsg where
  msg := mkMsg op (replyCls m) s.devid (s.link l).dev m.ctx m.claim m.a0 a1 a2 []
  cls := replyCls m

theorem Mach.reply_tx (s : Mach) (l : Nat) (m : LMsg) (op : Nat) (a1 a2 : W64) :
    ((s.reply l m op a1 a2).link l).tx = (s.link l).tx ++ [s.answerTo l m op a1 a2] := by
  rw [Mach.reply, Mach.queueTx, Mach.modLink_link]
  rfl

/-- An answer depends on its link and on who this device is. -/
theorem Mach.reply_tx_of_kept {u : Mach} (hlink : u.link l = s.link l) (hdev : u.devid = s.devid) (op : Nat) (a1 a2 : W64) :
    ((u.reply l m op a1 a2).link l).tx = (s.link l).tx ++ [s.answerTo l m op a1 a2] := by
  rw [Mach.reply_tx, Mach.answerTo, hlink, hdev]
  rfl

/-- What a refusal and the freeing of records leave: the links, the claims, and who this device is. -/
def Mach.innFrame (s : Mach) : Assoc Link × Assoc (Option InnClaim) × Nat := (s.lodge.links, s.lodge.claims, s.devid)

/-- An answer reads the same after what leaves these. -/
theorem Mach.reply_tx_of_frame {u : Mach} (h : u.innFrame = s.innFrame) (op : Nat) (a1 a2 : W64) :
    ((u.reply l m op a1 a2).link l).tx = (s.link l).tx ++ [s.answerTo l m op a1 a2] :=
  Mach.reply_tx_of_kept (congrArg (fun ls => aget ({} : Link) ls l) (congrArg Prod.fst h)) (congrArg (fun f => f.2.2) h) op a1 a2

/-- A request that fails a check of every request is refused. -/
theorem Mach.innRequest_of_fault {f : Nak} (h : s.headFault l m = some f) : s.innRequest l m = s.sendNak l m f := by
  simp only [Mach.innRequest, h]

theorem Mach.innRequest_of_claim (h : s.headFault l m = none) (hop : m.op = 2) : s.innRequest l m = s.innClaimReq l m := by
  simp only [Mach.innRequest, h]
  exact if_pos hop

/-- A request of a claim's holder is judged by its OP. -/
theorem Mach.innRequest_of_holder (h : s.headFault l m = none) (hk : s.claimOf m = some k) :
    (m.op = 3 → s.innRequest l m = s.innUnclaim l m k) ∧ (m.op = 4 → s.innRequest l m = s.innPut l m k) ∧
      (m.op = 6 → s.innRequest l m = s.innGetReq l m) ∧ (m.op = 7 → s.innRequest l m = s.innMore l m) ∧
      (m.op = 9 → s.innRequest l m = s.innFree l m) ∧ (m.op = 10 → s.innRequest l m = s.innRelease l m) := by
  refine ⟨fun hop => ?_, fun hop => ?_, fun hop => ?_, fun hop => ?_, fun hop => ?_, fun hop => ?_⟩ <;>
  · simp only [Mach.innRequest, h, hk, hop]
    rfl

/-- While this device has an epoch, a refusal is logged, counted and answered. -/
theorem Mach.sendNak_of_epoch (h : s.epoch ≠ 0) (f : Nak) : s.sendNak l m f =
    (s.violate l m.op f.1 f.2.1 f.2.2).reply l m lopNak (word [(if 13 < m.op then 0 else m.op, 0), (f.1, 8), (f.2.1, 16)])
      (BitVec.ofNat 64 f.2.2) := by
  have hop : (if m.op = 0 ∨ lopEvict < m.op then 0 else m.op) = if 13 < m.op then 0 else m.op := by
    show (if m.op = 0 ∨ 13 < m.op then 0 else m.op) = _
    split_ifs <;> omega
  have hset : ¬(s.violate l m.op f.1 f.2.1 f.2.2).epoch = 0 := h
  simp only [Mach.sendNak, hop, if_neg hset]

theorem Mach.violate_viol (s : Mach) {l : Nat} (op code off v : Nat) :
    ((s.violate l op code off v).peer (s.link l).dev).viol = (s.peer (s.link l).dev).viol + 1 := by
  rw [Mach.violate, Mach.modPeer_peer]
  rfl

@[simp] theorem Mach.violate_out (s : Mach) (l op code off v : Nat) : (s.violate l op code off v).out = s.out := rfl
theorem Mach.violate_frame (s : Mach) {l : Nat} (op code off v : Nat) : (s.violate l op code off v).innFrame = s.innFrame := rfl

/-- A refusal is answered and counted, and changes nothing of what lodges here. -/
theorem Mach.sendNak_spec (h : s.epoch ≠ 0) (f : Nak) : ((s.sendNak l m f).link l).tx = (s.link l).tx ++ [s.answerTo l m 12
        (word [(if 13 < m.op then 0 else m.op, 0), (f.1, 8), (f.2.1, 16)]) (BitVec.ofNat 64 f.2.2)] ∧
      ((s.sendNak l m f).peer (s.link l).dev).viol = (s.peer (s.link l).dev).viol + 1 ∧
      (s.sendNak l m f).lodge.claims = s.lodge.claims ∧ (s.sendNak l m f).lodge.recs = s.lodge.recs ∧
      (s.sendNak l m f).lodge.puts = s.lodge.puts ∧ (s.sendNak l m f).lodge.gets = s.lodge.gets ∧
      (s.sendNak l m f).sts = s.sts := by
  rw [Mach.sendNak_of_epoch h]
  exact ⟨Mach.reply_tx_of_frame (s.violate_frame _ _ _ _) _ _ _, s.violate_viol _ _ _ _, rfl, rfl, rfl, rfl, rfl⟩

/-! ## CLAIM and UNCLAIM (R291, R292) -/

/-- The claim that a message makes of a window in region `g`. -/
def claimMade (m : LMsg) (g : Nat × Nat × Nat) : InnClaim where
  dev := m.src
  ctx := m.ctx
  base := m.a0.toNat
  size := rdNat m.payload 0 8
  owner := g.1
  region := g.2.1

/-- A window in a region in service goes to the lowest free claim index. -/
theorem Mach.innClaimReq_of_free {g : Nat × Nat × Nat} {i : Nat} (hfault : s.claimFault m = none)
    (hreg : s.regionOf m.a0.toNat (rdNat m.payload 0 8) = some g) (hfree : s.freeClaim = some i) : s.innClaimReq l m =
      (s.modLodge (fun x => { x with claims := aset none x.claims i (some (claimMade m g)) })).sendAck l m i := by
  simp only [Mach.innClaimReq, hfault, hreg, hfree]
  rfl

/-- Such a claim is at its index, every other one as before, and the message is acknowledged with the index. -/
theorem Mach.innClaimReq_spec {g : Nat × Nat × Nat} {i : Nat} (hfault : s.claimFault m = none)
    (hreg : s.regionOf m.a0.toNat (rdNat m.payload 0 8) = some g) (hfree : s.freeClaim = some i) :
    ((s.innClaimReq l m).link l).tx = (s.link l).tx ++ [s.answerTo l m 11 (word [(m.op, 0)]) (BitVec.ofNat 64 i)] ∧
      (s.innClaimReq l m).innClaim i = some (claimMade m g) ∧
      (∀ j, j ≠ i → (s.innClaimReq l m).innClaim j = s.innClaim j) ∧
      (s.innClaimReq l m).lodge.recs = s.lodge.recs ∧ (s.innClaimReq l m).sts = s.sts := by
  rw [Mach.innClaimReq_of_free hfault hreg hfree]
  have hclaim (j : Nat) : ((s.modLodge (fun x => { x with
        claims := aset none x.claims i (some (claimMade m g)) })).sendAck l m i).innClaim j =
      aget none (aset none s.lodge.claims i (some (claimMade m g))) j := rfl
  refine ⟨Mach.reply_tx_of_kept rfl rfl _ _ _, ?_, fun j hj => ?_, rfl, rfl⟩
  · rw [hclaim, aget_aset_same]
  · rw [hclaim, aget_aset_ne _ _ _ hj]
    rfl

/-- Freeing a record queues writes of its beds' entries, and takes it, its GETs and its PUTs out of the lodging state. -/
theorem Mach.freeInnRec_lodge (s : Mach) (n : Nat) (r : InnRec) : (s.freeInnRec n r).lodge = { s.lodge with
    recs := s.lodge.recs.filter (fun q => !(q.dev == r.dev && q.ledger == r.ledger))
    gets := s.lodge.gets.filter (fun g => !(g.dev == r.dev && g.ledger == r.ledger))
    puts := modWhere (fun p => p.dev == r.dev && p.ledger == r.ledger) (fun p => { p with stale := true }) s.lodge.puts } := by
  have hbeds (u : Mach) (k : InnClaim) :
      (overList (fun m loc => m.writeBed n r.ctx 1 k.region loc 0 .plain) u r.beds).lodge = u.lodge :=
    overList_keeps (f := fun m loc => m.writeBed n r.ctx 1 k.region loc 0 .plain) Mach.lodge (fun _ _ => rfl) u _
  unfold Mach.freeInnRec Mach.modLodge
  cases s.innClaim r.claim with
  | none => rfl
  | some k => simp only [hbeds]

theorem Mach.freeInnRec_devid (s : Mach) (n : Nat) (r : InnRec) : (s.freeInnRec n r).devid = s.devid := by
  have hbeds (u : Mach) (k : InnClaim) :
      (overList (fun m loc => m.writeBed n r.ctx 1 k.region loc 0 .plain) u r.beds).devid = u.devid :=
    overList_keeps (f := fun m loc => m.writeBed n r.ctx 1 k.region loc 0 .plain) Mach.devid (fun _ _ => rfl) u _
  unfold Mach.freeInnRec Mach.modLodge
  cases s.innClaim r.claim with
  | none => rfl
  | some k => exact hbeds s k

theorem Mach.freeInnRec_frame (s : Mach) (n : Nat) (r : InnRec) : (s.freeInnRec n r).innFrame = s.innFrame := by
  simp only [Mach.innFrame, Mach.freeInnRec_lodge, Mach.freeInnRec_devid]

theorem Mach.freeInnRecs_frame (s : Mach) (n : Nat) (p : InnRec → Bool) : (s.freeInnRecs n p).innFrame = s.innFrame := by
  refine overList_keeps Mach.innFrame (fun u r => ?_) s _
  split
  · exact u.freeInnRec_frame n r
  · rfl

/-- Of the records that are freed together none is left. -/
theorem Mach.freeInnRecs_recs (s : Mach) (n : Nat) (p : InnRec → Bool) {q : InnRec} (hq : q ∈ (s.freeInnRecs n p).lodge.recs) :
    p q = false := by
  by_contra hp
  have hp : p q = true := by simpa using hp
  have hrecs (u : Mach) (r a : InnRec) (ha : a ∈ (if p r then u.freeInnRec n r else u).lodge.recs) : a ∈ u.lodge.recs := by
    split at ha
    · rw [Mach.freeInnRec_lodge] at ha
      exact (List.mem_filter.mp ha).1
    · exact ha
  have hsub : q ∈ s.lodge.recs := by
    have hin : ∀ u : Mach, (∀ a ∈ u.lodge.recs, a ∈ s.lodge.recs) → ∀ r,
        ∀ a ∈ (if p r then u.freeInnRec n r else u).lodge.recs, a ∈ s.lodge.recs := fun u hu r a ha => hu a (hrecs u r a ha)
    exact overList_preserves (P := fun u => ∀ a ∈ u.lodge.recs, a ∈ s.lodge.recs) (fun u r hu => hin u hu r) _ (fun _ h => h) q hq
  have hgone : p q = true → q ∉ (s.freeInnRecs n p).lodge.recs := by
    refine overList_establishes (P := fun u a => p a = true → a ∉ u.lodge.recs) (fun u a ha hmem => ?_)
      (fun u r a hu ha hmem => hu ha (hrecs u r a hmem)) hsub
    simp only [ha, if_true] at hmem
    rw [Mach.freeInnRec_lodge] at hmem
    simp at hmem
  exact hgone hp hq

/-- A claim that has ended is free, and no record is left of it. -/
theorem Mach.endInnClaim_spec (s : Mach) (n i : Nat) : (s.endInnClaim n i).innClaim i = none ∧
    (∀ j, j ≠ i → (s.endInnClaim n i).innClaim j = s.innClaim j) ∧ (∀ q ∈ (s.endInnClaim n i).lodge.recs, q.claim ≠ i) ∧
    (s.endInnClaim n i).link = s.link ∧ (s.endInnClaim n i).devid = s.devid := by
  have hframe := s.freeInnRecs_frame n (fun r => r.claim == i)
  have hclaims : (s.freeInnRecs n (fun r => r.claim == i)).lodge.claims = s.lodge.claims := congrArg (fun f => f.2.1) hframe
  refine ⟨aget_adel_same _ _ _, fun j hj => ?_, fun q hq => ?_, ?_, congrArg (fun f => f.2.2) hframe⟩
  · show aget none (adel _ i) j = aget none s.lodge.claims j
    rw [aget_adel_ne _ _ hj, hclaims]
  · have hq' := (List.mem_filter.mp hq).2
    simpa using hq'
  · exact congrArg (fun ls l => aget ({} : Link) ls l) (congrArg Prod.fst hframe)

/-- UNCLAIM at the claim's base ends the claim, and is acknowledged. -/
theorem Mach.innUnclaim_spec (hbase : m.a0.toNat = k.base) :
    ((s.innUnclaim l m k).link l).tx = (s.link l).tx ++ [s.answerTo l m 11 (word [(m.op, 0)]) 0] ∧
      (s.innUnclaim l m k).innClaim m.claim = none ∧
      (∀ j, j ≠ m.claim → (s.innUnclaim l m k).innClaim j = s.innClaim j) ∧
      ∀ q ∈ (s.innUnclaim l m k).lodge.recs, q.claim ≠ m.claim := by
  have hends : s.innUnclaim l m k = (s.endInnClaim (agentOf l) m.claim).sendAck l m 0 := if_neg (not_not_intro hbase)
  obtain ⟨hgone, hkept, hrecs, hlink, hdev⟩ := s.endInnClaim_spec (agentOf l) m.claim
  rw [hends]
  exact ⟨Mach.reply_tx_of_kept (congrFun hlink l) hdev _ _ _, hgone, hkept, hrecs⟩

/-! ## PUT (R284, R294) -/

/-- The record that its first block, placed in bed `b`, opens on link `l`. -/
def firstRec (m : LMsg) (l b : Nat) : InnRec where
  dev := m.src
  ledger := m.a0.toNat
  ctx := m.ctx
  claim := m.claim
  step := W64.bits m.a2 7 0
  beds := [b]
  used := [m.payload.length]
  lens := [m.payload.length]
  link := some l

/-- The PUT of that block, under way as `id`. -/
def firstPut (m : LMsg) (l id b : Nat) : InnPut where
  id := id
  link := l
  dev := m.src
  ctx := m.ctx
  cls := replyCls m
  claim := m.claim
  ledger := m.a0.toNat
  blk := msgBlk m
  fin := putLast m
  loc := b

/-- The write of the block at the start of its bed. -/
def blockWrite (m : LMsg) (id b : Nat) : Access where
  share := 2
  cls := replyCls m
  ctx := m.ctx
  chan := 8
  cost := roundUp m.payload.length 4096
  addr := b
  len := m.payload.length
  data := placed b m.payload
  write := true
  hook := .guestWrite id

/-- The write of the bed's entry in the table of the claim's region. -/
def entryWrite (m : LMsg) (k : InnClaim) (l id b : Nat) : Access where
  share := 2
  cls := replyCls m
  ctx := m.ctx
  chan := 8
  cost := 64
  addr := k.region + 8 * ((b - k.region) / Config.roomBytes)
  len := 8
  write := true
  data := placed (k.region + 8 * ((b - k.region) / Config.roomBytes)) (leBytes 8 ((firstRec m l b).bedEntry k.region 0))
  hook := .guestWrite id

/-- The machine once a record and a PUT of identity `id` have been noted, and their writes queued at agent `n`. -/
def Mach.firstBlock (s : Mach) (m : LMsg) (k : InnClaim) (l b : Nat) : Mach :=
  let id := (s.st (agentOf l)).nextId
  let u := ((s.modLodge (fun x => { x with recs := x.recs ++ [firstRec m l b] })).modSt (agentOf l)
    (fun x => { x with nextId := x.nextId + 1 })).modLodge (fun x => { x with puts := x.puts ++ [firstPut m l id b] })
  (u.queueAcc (agentOf l) (blockWrite m id b)).queueAcc (agentOf l) (entryWrite m k l id b)

theorem Mach.innPut_of_first {b : Nat} (hfirst : putFirst m = true) (hrec : s.innRec m.src m.a0.toNat = none)
    (hfault : s.putFault l m k none = none) (hbed : s.freeBed k [] = some b) : s.innPut l m k = s.firstBlock m k l b := by
  simp only [Mach.innPut, hfirst, hrec, hfault, Option.bind_none, Bool.not_true, Bool.false_and, Bool.false_eq_true, if_false,
    if_true, InnRec.needsBed, List.getLast?_nil, hbed]
  rfl

/-- The two writes of a first block, of its bytes and of its bed's entry. -/
theorem Mach.firstBlock_acc {id b : Nat} (hid : (s.st (agentOf l)).nextId = id) :
    ((s.firstBlock m k l b).st (agentOf l)).acc = (s.st (agentOf l)).acc ++
      [{ blockWrite m id b with id := id + 1 }, { entryWrite m k l id b with id := id + 2 }] := by
  subst hid
  have hlodge (u : Mach) (f : Lodge → Lodge) : (u.modLodge f).st (agentOf l) = u.st (agentOf l) := rfl
  simp [Mach.firstBlock, Mach.queueAcc_st, hlodge]

/-- A first block opens its record and its PUT. -/
theorem Mach.firstBlock_lodge {id b : Nat} (hid : (s.st (agentOf l)).nextId = id) : (s.firstBlock m k l b).lodge = { s.lodge with
    recs := s.lodge.recs ++ [firstRec m l b]
    puts := s.lodge.puts ++ [firstPut m l id b] } := by
  subst hid
  rfl

/-! ## GET and MORE (R296) -/

@[simp] theorem Mach.pumpGet_out (s : Mach) (id : Nat) : (s.pumpGet id).out = s.out := by
  unfold Mach.pumpGet
  split
  · rfl
  · dsimp only
    split
    · rfl
    · split <;> rfl

/-- The read of the next block of a GET's record. -/
def InnGet.read (g : InnGet) (r : InnRec) : Access where
  share := 2
  cls := g.cls
  ctx := g.ctx
  chan := 8
  cost := roundUp ((r.lens[g.nextBlk]?).getD 0) 4096
  len := (r.lens[g.nextBlk]?).getD 0
  addr := (r.beds[(bedPlace r.lens g.nextBlk).1]?).getD 0 + (bedPlace r.lens g.nextBlk).2
  hook := .guestRead g.id

/-- A GET whose blocks begin to go out of a room. -/
def InnGet.begun (g : InnGet) : InnGet := { g with inBed := true, rooms := if g.inBed then g.rooms else g.rooms - 1 }

/-- An open GET with a room for its next block, of whose reads none is under way, reads the block. -/
theorem Mach.pumpGet_of_ready {id : Nat} {g : InnGet} {r : InnRec} (hg : s.innGet id = some g) (hid : g.id = id)
    (hr : s.recAt g.claim g.loc = some r)
    (hidle : ∀ a ∈ (s.st (agentOf g.link)).acc ++ (s.st (agentOf g.link)).outst, a.hook ≠ .guestRead id) (hroom : g.rooms ≠ 0)
    (hblk : g.nextBlk < r.lens.length) :
    s.pumpGet id = (s.modLodge (fun x => { x with gets := modWhere (fun q => q.id == id) InnGet.begun x.gets })).queueAcc
      (agentOf g.link) (g.read r) := by
  have hbusy : ((s.st (agentOf g.link)).acc ++ (s.st (agentOf g.link)).outst).any (fun a => a.hook == .guestRead id) = false := by
    simpa only [List.any_eq_false, beq_iff_eq] using hidle
  have hgo : (false || (!g.inBed && g.rooms == 0) || decide (r.lens.length ≤ g.nextBlk)) = false := by
    simp [hroom, hblk]
  subst hid
  simp only [Mach.pumpGet, hg, hr, hbusy, hgo, Bool.false_eq_true, if_false]
  rfl

/-- The GET that a message opens, under way as `id`. -/
def openGet (m : LMsg) (l id : Nat) : InnGet where
  id := id
  link := l
  dev := m.src
  ctx := m.ctx
  cls := replyCls m
  claim := m.claim
  loc := m.a0.toNat
  ledger := m.a2.toNat
  nextBlk := msgBlk m
  rooms := W64.bits m.a1 31 24

/-- The machine once a GET is noted. -/
def Mach.getOpened (s : Mach) (m : LMsg) (l : Nat) : Mach :=
  (s.modSt (agentOf l) (fun x => { x with nextId := x.nextId + 1 })).modLodge (fun x => { x with
    gets := x.gets ++ [openGet m l (16 * (s.st (agentOf l)).nextId + agentOf l)] })

theorem Mach.innGetReq_of_sound {q : InnRec} (hq : s.recAt m.claim m.a0.toNat = some q)
    (hopen : (s.lodge.gets.filter (fun g => g.link == l)).length < 16) (hblk : msgBlk m < q.lens.length)
    (hsum : W64.bits m.a1 63 32 = sumNat q.lens) :
    s.innGetReq l m = (s.getOpened m l).pumpGet (16 * (s.st (agentOf l)).nextId + agentOf l) := by
  have hnone : firstNak [
      (decide (16 ≤ (s.lodge.gets.filter (fun g => g.link == l)).length), nakOpen, 0, m.op),
      ((some q).isNone, nakLoc, 8, m.a0.toNat),
      (decide ((((some q).map (fun r => r.lens)).getD []).length ≤ msgBlk m), nakLoc, 16, msgBlk m),
      (W64.bits m.a1 63 32 != sumNat (((some q).map (fun r => r.lens)).getD []), nakLoc, 20, W64.bits m.a1 63 32)] = none :=
    firstNak_eq_none (by simp [hopen, hblk, hsum])
  simp only [Mach.innGetReq, hq, hnone]
  rfl

/-- A GET that names a closed record and a block of it opens, and its block is read. -/
theorem Mach.innGetReq_of_ready {q : InnRec} {id : Nat} (hid : id = 16 * (s.st (agentOf l)).nextId + agentOf l)
    (hq : s.recAt m.claim m.a0.toNat = some q)
    (hopen : (s.lodge.gets.filter (fun g => g.link == l)).length < 16) (hblk : msgBlk m < q.lens.length)
    (hsum : W64.bits m.a1 63 32 = sumNat q.lens) (hrooms : W64.bits m.a1 31 24 ≠ 0) (hnew : ∀ g ∈ s.lodge.gets, g.id ≠ id)
    (hidle : ∀ a ∈ (s.st (agentOf l)).acc ++ (s.st (agentOf l)).outst, a.hook ≠ .guestRead id) :
    s.innGetReq l m = ((s.getOpened m l).modLodge (fun x => { x with gets := s.lodge.gets ++ [(openGet m l id).begun] })).queueAcc
      (agentOf l) ((openGet m l id).read q) := by
  subst hid
  have hg : (s.getOpened m l).innGet (16 * (s.st (agentOf l)).nextId + agentOf l) =
      some (openGet m l (16 * (s.st (agentOf l)).nextId + agentOf l)) := by
    show (s.lodge.gets ++ [_]).find? _ = _
    rw [List.find?_append, List.find?_eq_none.mpr (by simpa using hnew)]
    simp [openGet]
  have hst : (s.getOpened m l).st (agentOf l) = { s.st (agentOf l) with nextId := (s.st (agentOf l)).nextId + 1 } :=
    s.modSt_st (agentOf l) (fun x => { x with nextId := x.nextId + 1 })
  have hgets : modWhere (fun q => q.id == 16 * (s.st (agentOf l)).nextId + agentOf l) InnGet.begun (s.getOpened m l).lodge.gets =
      s.lodge.gets ++ [(openGet m l (16 * (s.st (agentOf l)).nextId + agentOf l)).begun] := by
    show List.map _ (s.lodge.gets ++ [_]) = _
    rw [List.map_append, List.map_congr_left (g := id) (fun g hmem => by simp [hnew g hmem]), List.map_id]
    simp [openGet]
  rw [Mach.innGetReq_of_sound hq hopen hblk hsum, Mach.pumpGet_of_ready hg rfl hq (hst ▸ hidle) hrooms hblk, ← hgets]
  rfl

/-- The access by which such a GET reads its block. -/
theorem Mach.innGetReq_effect {q : InnRec} {id : Nat} (hid : id = 16 * (s.st (agentOf l)).nextId + agentOf l)
    (hq : s.recAt m.claim m.a0.toNat = some q)
    (hopen : (s.lodge.gets.filter (fun g => g.link == l)).length < 16) (hblk : msgBlk m < q.lens.length)
    (hsum : W64.bits m.a1 63 32 = sumNat q.lens) (hrooms : W64.bits m.a1 31 24 ≠ 0) (hnew : ∀ g ∈ s.lodge.gets, g.id ≠ id)
    (hidle : ∀ a ∈ (s.st (agentOf l)).acc ++ (s.st (agentOf l)).outst, a.hook ≠ .guestRead id) :
    (s.innGetReq l m).lodge = { s.lodge with gets := s.lodge.gets ++ [(openGet m l id).begun] } ∧
      ((s.innGetReq l m).st (agentOf l)).acc = (s.st (agentOf l)).acc ++
        [{ (openGet m l id).read q with id := (s.st (agentOf l)).nextId + 1 }] := by
  rw [Mach.innGetReq_of_ready hid hq hopen hblk hsum hrooms hnew hidle]
  refine ⟨rfl, ?_⟩
  have hlodge (u : Mach) (f : Lodge → Lodge) : (u.modLodge f).st (agentOf l) = u.st (agentOf l) := rfl
  simp [Mach.getOpened, hlodge]

/-- MORE of an open GET adds to its rooms. -/
theorem Mach.innMore_of_open {g : InnGet} (hg : s.lodge.gets.find? (fun g => g.dev == m.src && g.ctx == m.ctx && g.claim == m.claim &&
      g.loc == m.a0.toNat && g.ledger == m.a2.toNat) = some g) (hlow : W64.bits m.a1 7 0 ≠ 0) (hhigh : W64.bits m.a1 7 0 ≤ 64) :
    let grown := modWhere (fun (q : InnGet) => q.id == g.id) (fun q => { q with rooms := q.rooms + W64.bits m.a1 7 0 })
    s.innMore l m = (s.modLodge (fun x => { x with gets := grown x.gets })).pumpGet g.id := by
  have hrange : ¬(W64.bits m.a1 7 0 = 0 ∨ 64 < W64.bits m.a1 7 0) := by omega
  simp only [Mach.innMore, hg, if_neg hrange]

/-! ## FREE and RELEASE (R298) -/

/-- FREE of a record takes the record, and is acknowledged with its beds. -/
theorem Mach.innFree_spec {q : InnRec} (hq : s.recAt m.claim m.a0.toNat = some q) :
    ((s.innFree l m).link l).tx = (s.link l).tx ++ [s.answerTo l m 11 (word [(m.op, 0)]) (BitVec.ofNat 64 q.beds.length)] ∧
      (s.innFree l m).lodge.recs = s.lodge.recs.filter (fun x => !(x.dev == q.dev && x.ledger == q.ledger)) ∧
      (s.innFree l m).lodge.claims = s.lodge.claims := by
  have hfree : s.innFree l m = (s.freeInnRec (agentOf l) q).sendAck l m q.beds.length := by simp only [Mach.innFree, hq]
  have hlodge := s.freeInnRec_lodge (agentOf l) q
  rw [hfree]
  exact ⟨Mach.reply_tx_of_frame (s.freeInnRec_frame _ q) _ _ _, (congrArg Lodge.recs hlodge :), (congrArg Lodge.claims hlodge :)⟩

/-- The records that a RELEASE frees. -/
def released (m : LMsg) (q : InnRec) : Bool := q.claim == m.claim && q.step == W64.bits m.a1 7 0

/-- RELEASE of a step takes the claim's records of that step, and is acknowledged with all their beds. -/
theorem Mach.innRelease_spec : ((s.innRelease l m).link l).tx = (s.link l).tx ++ [s.answerTo l m 11 (word [(m.op, 0)])
        (BitVec.ofNat 64 (sumNat ((s.lodge.recs.filter (released m)).map (fun q => q.beds.length))))] ∧
      (∀ q ∈ (s.innRelease l m).lodge.recs, released m q = false) ∧ (s.innRelease l m).lodge.claims = s.lodge.claims := by
  have hframe := s.freeInnRecs_frame (agentOf l) (released m)
  exact ⟨Mach.reply_tx_of_frame hframe _ _ _, fun q hq => s.freeInnRecs_recs _ _ hq, (congrArg (fun f => f.2.1) hframe :)⟩

end

end Sys2Proof.Machine
end

section
/-!
PROOFS. O58: what each lodging message leaves, at a machine whose agent takes it.
-/
namespace Sys2Proof.Machine

theorem Mach.giveCredit_dropReq_out (s : Mach) (l id : Nat) : ((s.dropReq id).giveCredit l).out = s.out := rfl

/-- The commands of requests are the messages' commands whose OP is a request's. -/
theorem requestCmds_spec {l k : Nat} {m : LMsg} {c : Instr} (h : (c, k) ∈ [(Instr.claim l m, 2), (.unclaim l m, 3), (.put l m, 4),
    (.get l m, 6), (.more l m, 7), (.free l m, 9), (.release l m, 10)]) : (c, k) ∈ messageCmds l m ∧ isRequest k = true := by
  have hreq : (c, k) ∈ (messageCmds l m).filter (fun p => isRequest p.2) := h
  exact List.mem_filter.mp hreq

/-- An answer that is a violation leaves it logged and counted. -/
theorem Arrives.exec_of_violation {s : State} {l k op code off v : Nat} {m : LMsg} {c : Instr} (h : Arrives s l m) (hq : s.Quiet)
    (hop : m.op = k)
    (hu : (s.m.wakeStation (agentOf l)).answer s.mem l m = (s.m.wakeStation (agentOf l)).violate l op code off v)
    (hc : (c, k) ∈ messageCmds l m) (hk : isRequest k = false) :
    exec c s = s.to ((s.m.wakeStation (agentOf l)).violate l op code off v) := by
  rw [h.exec_of_answer hop hu hc hk]
  exact next_commit_eq_to ((Mach.violate_out _ _ _ _ _ _).trans hq)

/-- Settles O58: each clause is the reply to one message, or the answer it brings, at the machine whose agent takes it. -/
theorem lodgingEffects : Obligations.LodgingEffects := by
  intro s l m hl hm hq hup hact hrx d n w id len answered acked
  have ha : Arrives s l m := ⟨hl, hm, hup, hact, hrx⟩
  refine ⟨fun c k f hc hop hf hset => ?fault, fun hsound => ⟨fun g i hop hcf hreg hfree => ?claim, fun k hk => ?holder⟩,
    fun hsrc hdst hrsvd => ?answers⟩
  case fault =>
    obtain ⟨hc, hk⟩ := requestCmds_spec hc
    have hu := Mach.innRequest_of_fault (s := w) hf
    have hspec := Mach.sendNak_spec (s := w) (l := l) (m := m) hset f
    generalize w.sendNak l m f = u at hu hspec
    exact ⟨_, hu ▸ ha.exec_request hc hk hop, hspec⟩
  case claim =>
    have hu := Mach.innRequest_of_claim (s := w) hsound hop
    have hspec := Mach.innClaimReq_spec (s := w) (l := l) hcf hreg hfree
    generalize w.innClaimReq l m = u at hu hspec
    exact ⟨_, ha.exec_of_request hop hu (by simp [messageCmds]) rfl, hspec⟩
  case holder =>
    obtain ⟨hun, hput, hget, hmore, hfre, hrel⟩ := Mach.innRequest_of_holder (s := w) hsound hk
    have hid : (w.st n).nextId = id := by simp [w, id]
    have hacc : (w.st n).acc = (s.m.st n).acc := by simp [w]
    have houtst : (w.st n).outst = (s.m.st n).outst := by simp [w]
    refine ⟨fun hop hbase => ?unclaim, fun b hop hfirst hrec hpf hbed => ?put, fun q hop hrec hopen hblk hsum => ?get,
      fun g hop hg hlow hhigh => ?more, fun q hop hrec => ?free, fun hop => ?release⟩
    case unclaim =>
      exact ⟨_, ha.exec_of_request hop (hun hop) (by simp [messageCmds]) rfl, Mach.innUnclaim_spec (s := w) hbase⟩
    case put =>
      have hu := (hput hop).trans (Mach.innPut_of_first (s := w) hfirst hrec hpf hbed)
      have hlodge := Mach.firstBlock_lodge (s := w) (m := m) (k := k) (b := b) hid
      have hwrites := Mach.firstBlock_acc (s := w) (m := m) (k := k) (b := b) hid
      rw [hacc] at hwrites
      generalize w.firstBlock m k l b = u at hu hlodge hwrites
      exact ⟨_, { entryWrite m k l id b with id := id + 2 }, ha.exec_of_request hop hu (by simp [messageCmds]) rfl,
        (congrArg Lodge.recs hlodge :), (congrArg Lodge.puts hlodge :), hwrites, rfl, rfl, rfl, rfl,
        (congrArg Lodge.claims hlodge :), fun j => (congrArg (fun x : Lodge => aget ({} : Link) x.links j) hlodge :)⟩
    case get =>
      intro gid hnew hidle
      have hu := hget hop
      obtain ⟨hlodge, hread⟩ := Mach.innGetReq_effect (s := w) (id := gid) (by rw [hid]) hrec hopen hblk hsum
        (rooms_of_get (Mach.rsvd_of_headFault hsound) hop) hnew (by rw [hacc, houtst]; exact hidle)
      rw [hacc] at hread
      generalize w.innGetReq l m = u at hu hlodge hread
      exact ⟨_, _, ha.exec_of_request hop hu (by simp [messageCmds]) rfl, (congrArg Lodge.gets hlodge :),
        hread, rfl, rfl, rfl, rfl, (congrArg Lodge.recs hlodge :),
        fun j => (congrArg (fun x : Lodge => aget ({} : Link) x.links j) hlodge :)⟩
    case more =>
      intro grown
      rw [ha.exec_of_request hop ((hmore hop).trans (Mach.innMore_of_open (s := w) hg hlow hhigh)) (by simp [messageCmds]) rfl]
      exact next_commit_eq_to ((Mach.pumpGet_out _ _).trans hq)
    case free =>
      exact ⟨_, ha.exec_of_request hop (hfre hop) (by simp [messageCmds]) rfl, Mach.innFree_spec (s := w) hrec⟩
    case release =>
      exact ⟨_, ha.exec_of_request hop (hrel hop) (by simp [messageCmds]) rfl, Mach.innRelease_spec (s := w)⟩
  case answers =>
    have hh : w.Hears l m := ⟨hsrc, hdst, hrsvd⟩
    refine ⟨fun hop hep => ?hello, fun hepoch hset => ?current⟩
    case hello =>
      have hu := hh.answer_hello (mem := s.mem) hop
      obtain ⟨hcred, hseen, hknown, hpeer⟩ := Mach.takeHello_spec (s := w) (mem := s.mem) (m := m) rfl hep
      generalize w.takeHello s.mem l m = u at hu hcred hseen hknown hpeer
      exact ⟨_, ha.exec_of_answer hop hu (by simp [messageCmds]) rfl, hcred, hseen, hknown,
        congrArg (fun p : Peer => { p with down := false, downAge := 0 }) hpeer⟩
    obtain ⟨hputAck, hdata, hack, hnak, hevict⟩ := hh.answer_current (mem := s.mem) hepoch hset
    refine ⟨fun q c b hop hput hold hkeep => ?putAck, fun hop hnone => ?noPut, fun hop hnone => ?noGet, fun hop hnone => ?noAck,
      fun hop hcode hnone => ?noNak, fun k hk hop hdev hbase hcl hsw => ?evict⟩
    case putAck =>
      obtain ⟨i, t, j, hold⟩ := hold
      rw [ha.exec_of_answer hop ((hputAck hop).trans (Mach.putAck_of_old (s := w) hput hold hkeep)) (by simp [messageCmds]) rfl]
      exact next_commit_eq_to ((Mach.giveCredit_dropReq_out _ _ _).trans hq)
    case noPut =>
      have hu := (hputAck hop).trans (Mach.putAck_of_none (s := w) hnone)
      rw [hop] at hu
      exact ha.exec_of_violation hq hop hu (by simp [messageCmds]) rfl
    case noGet =>
      have hu := (hdata hop).trans (Mach.dataMsg_of_none ((s.m.getReq_wakeStation n _ _ _).trans hnone))
      rw [hop] at hu
      exact ha.exec_of_violation hq hop hu (by simp [messageCmds]) rfl
    case noAck =>
      have hu := (hack hop).trans (Mach.ackMsg_of_none (s := w) hnone)
      rw [hop] at hu
      exact ha.exec_of_violation hq hop hu (by simp [messageCmds]) rfl
    case noNak =>
      have hu := (hnak hop).trans (Mach.nakMsg_of_noPut (s := w) hcode hnone)
      exact ha.exec_of_violation hq hop hu (by simp [messageCmds]) rfl
    case evict =>
      have hu := hevict hop
      have hspec := Mach.evictMsg_spec (s := w) (mem := s.mem) hk hdev hbase hcl hsw
      generalize w.evictMsg s.mem l m = u at hu hspec
      exact ⟨_, ha.exec_of_answer hop hu (by simp [messageCmds]) rfl, hspec⟩

end Sys2Proof.Machine
end

section
/-!
PROOFS. A semaphore operation that may be applied (R311, R312, R316): its core's station judges it, and it is applied at its
semaphore's station once both have been woken.
-/
namespace Sys2Proof.Machine

/-! ## Stations that work has reached -/

@[simp] theorem Station.askedAwake_engines (x : Station) : x.askedAwake.engines = x.engines := by
  unfold Station.askedAwake; split <;> rfl
@[simp] theorem Station.askedAwake_held (x : Station) : x.askedAwake.held = x.held := by unfold Station.askedAwake; split <;> rfl
@[simp] theorem Station.askedAwake_cellq (x : Station) : x.askedAwake.cellq = x.cellq := by
  unfold Station.askedAwake; split <;> rfl

/-- A field of a station that a wake keeps is kept of every station. -/
theorem Mach.wakeStation_keeps {β : Type} (g : Station → β)
    (hg : ∀ x : Station, g { x.askedAwake with idleSclk := 0, pgAclk := 0 } = g x) (s : Mach) (k n : Nat) :
    g ((s.wakeStation k).st n) = g (s.st n) := by
  by_cases h : n = k
  · subst h
    exact (congrArg g (s.wakeStation_st n)).trans (hg _)
  · rw [Mach.wakeStation_st_ne _ h]

section
variable (m : Mach) (core : Nat) (w0 : W64)

@[simp] theorem Mach.reached_ctxs : (m.reached core w0).ctxs = m.ctxs :=
  (Mach.wakeStation_ctxs ..).trans (Mach.wakeStation_ctxs ..)
@[simp] theorem Mach.reached_out : (m.reached core w0).out = m.out :=
  (Mach.wakeStation_out ..).trans (Mach.wakeStation_out ..)
@[simp] theorem Mach.reached_sems : (m.reached core w0).sems = m.sems :=
  (Mach.wakeStation_sems ..).trans (Mach.wakeStation_sems ..)
@[simp] theorem Mach.reached_sem (n i : Nat) : (m.reached core w0).sem n i = m.sem n i := by
  simp only [Mach.sem, Mach.reached_sems]

/-- An operation that has come has changed stations alone. -/
theorem Mach.reached_frame (x : Assoc Station) : { m.reached core w0 with sts := x } = { m with sts := x } :=
  (Mach.modSt_frame ..).trans (Mach.modSt_frame ..)

theorem Mach.reached_keeps {β : Type} (g : Station → β)
    (hg : ∀ x : Station, g { x.askedAwake with idleSclk := 0, pgAclk := 0 } = g x) (n : Nat) :
    g ((m.reached core w0).st n) = g (m.st n) :=
  (Mach.wakeStation_keeps g hg _ _ n).trans (Mach.wakeStation_keeps g hg _ _ n)

@[simp] theorem Mach.reached_engines (n : Nat) : ((m.reached core w0).st n).engines = (m.st n).engines :=
  m.reached_keeps core w0 Station.engines Station.askedAwake_engines n

@[simp] theorem Mach.reached_eng (n e : Nat) : (m.reached core w0).eng n e = m.eng n e := by
  simp only [Mach.eng, Mach.reached_engines]

/-- Who waits is as it was. -/
theorem Mach.reached_firstWaiter (n i : Nat) : (m.reached core w0).firstWaiter n i = m.firstWaiter n i := by
  simp only [Mach.firstWaiter, Mach.reached_eng]

@[simp] theorem Mach.reached_cellq (n : Nat) : ((m.reached core w0).st n).cellq = (m.st n).cellq :=
  m.reached_keeps core w0 Station.cellq Station.askedAwake_cellq n

@[simp] theorem Mach.reached_held (n : Nat) : ((m.reached core w0).st n).held = (m.st n).held :=
  m.reached_keeps core w0 Station.held Station.askedAwake_held n

end

theorem Mach.wakeStation_active {m : Mach} {n : Nat} (h : (m.st n).pwr = .active) (k : Nat) :
    ((m.wakeStation k).st n).pwr = .active := by
  by_cases hk : n = k
  · subst hk; exact Mach.wakeStation_pwr_active.mpr h
  · rw [Mach.wakeStation_st_ne _ hk, h]

/-! ## What an operation that is not blocked finds -/

theorem Mach.opsHeld_congr {s m : Mach} (h : m.ctxs = s.ctxs) (c : Nat) : m.opsHeld c = s.opsHeld c := by
  simp only [Mach.opsHeld, Mach.ctx_of_ctxs h]

/-- What is judged of an operation is its own words and its context's state. -/
theorem Mach.semFault_congr {s m : Mach} (h : m.ctxs = s.ctxs) (core : Nat) (w0 w1 : W64) :
    m.semFault core w0 w1 = s.semFault core w0 w1 := by
  simp only [Mach.semFault, Mach.ctx_of_ctxs h]

theorem Mach.semBlocked_eq_false {m : Mach} {n : Nat} {o : HeldOp} : m.semBlocked n o = false ↔
    (m.st n).pwr = .active ∧ m.opsHeld (soCtx o.w0) = false ∧ m.coreHeld o.core = false := by
  simp [Mach.semBlocked, and_assoc]

@[simp] theorem Mach.reached_coreHeld (m : Mach) (core k : Nat) (w0 : W64) : (m.reached core w0).coreHeld k = m.coreHeld k := by
  simp only [Mach.coreHeld, Mach.reached_held]

/-- What is not blocked is not blocked by another operation that has come. -/
theorem Mach.semBlocked_reached {m : Mach} {n : Nat} {o : HeldOp} (h : m.semBlocked n o = false) (core : Nat) (w0 : W64) :
    (m.reached core w0).semBlocked n o = false := by
  obtain ⟨hact, hops, hcore⟩ := Mach.semBlocked_eq_false.mp h
  exact Mach.semBlocked_eq_false.mpr ⟨Mach.wakeStation_active (Mach.wakeStation_active hact _) _,
    (Mach.opsHeld_congr (m.reached_ctxs core w0) _).trans hops, (m.reached_coreHeld core _ w0).trans hcore⟩

/-- The commands of a core's semaphore operations, each with its OP. -/
def semCommands (core : Nat) (w0 w1 : W64) : List (Instr × Nat) :=
  [(.signal core w0 w1, 1), (.arrive core w0 w1, 2), (.take core w0 w1, 3)]

section
variable {s : State} {core : Nat} {w0 w1 : W64} (h : SemReady s core w0 w1)
include h

theorem SemReady.quiet : s.m.out = [] := h.2.1

/-- The command of an operation's OP brings the operation to its core's station, which is not OFF. -/
theorem SemReady.exec_eq {c : Instr} {op : Nat} (hc : (c, op) ∈ semCommands core w0 w1) (hop : soOp w0 = op) :
    exec c s = .next (commit s (s.m.semArrive (core / 4320) { core, w0, w1 })) := by
  obtain ⟨hcore, -, hblocked, -⟩ := h
  obtain ⟨hact, -, -⟩ := Mach.semBlocked_eq_false.mp hblocked
  have hwf : okCore core = true := by simp [okCore, Config.nCore, hcore]
  have hpost : s.m.semCommand op core w0 w1 = s.m.semArrive (core / 4320) { core, w0, w1 } := by
    simp [Mach.semCommand, hop, Mach.semPost, fieldOf, Config.coresPerField, hact]
  have hcmd : exec c s = act c s (fun _ m => m.semCommand op core w0 w1) ∧ c.wf = okCore core := by
    simp only [semCommands, List.mem_cons, Prod.mk.injEq, List.not_mem_nil, or_false] at hc
    rcases hc with ⟨rfl, rfl⟩ | ⟨rfl, rfl⟩ | ⟨rfl, rfl⟩ <;> exact ⟨rfl, rfl⟩
  rw [exec_of_act _ hcmd.1 (hcmd.2.trans hwf), hpost]

theorem SemReady.semArrive_of_fault {f : Nat × Nat} (hf : s.m.semFault core w0 w1 = some f) :
    s.m.semArrive (core / 4320) { core, w0, w1 } = (s.m.wakeStation (core / 4320)).logv {
      status := .violSem, src := 2, unit := core / 4320, ctx := some (soCtx w0), foff := f.1, value := f.2, core } := by
  obtain ⟨-, -, hblocked, -⟩ := h
  simp only [Mach.semArrive, hblocked, hf]
  rfl

theorem SemReady.semArrive_of_sound (hf : s.m.semFault core w0 w1 = none) :
    s.m.semArrive (core / 4320) { core, w0, w1 } = (s.m.reached core w0).semApply (soStation w0) { core, w0, w1 } := by
  obtain ⟨-, -, hblocked, hat⟩ := h
  obtain ⟨hact, hops, -⟩ := Mach.semBlocked_eq_false.mp hat
  have hops' : (s.m.wakeStation (core / 4320)).opsHeld (soCtx w0) = false :=
    (Mach.opsHeld_congr (Mach.wakeStation_ctxs ..) _).trans hops
  simp only [Mach.semArrive, hblocked, hf]
  simp [Mach.semAt, Mach.wakeStation_active hact, hops', Mach.reached]

/-- A sound operation is applied where its semaphore is. -/
theorem SemReady.exec_of_sound (hf : s.m.semFault core w0 w1 = none) {c : Instr} {op : Nat}
    (hc : (c, op) ∈ semCommands core w0 w1) (hop : soOp w0 = op) :
    exec c s = .next (commit s ((s.m.reached core w0).semApply (soStation w0) { core, w0, w1 })) := by
  rw [h.exec_eq hc hop, h.semArrive_of_sound hf]

end

/-! ## Applying an operation (R313–R315, R318) -/

/-- The engines of a station that wait on semaphore `i`. -/
def Mach.waiters (m : Mach) (n i : Nat) : List Nat := (List.range 6).filter (fun e => (m.eng n e).waiting == some i)

/-- The engine served first is the first of those whose waits began earliest. -/
theorem Mach.firstWaiter_eq_argmin (m : Mach) (n i : Nat) :
    m.firstWaiter n i = (m.waiters n i).argmin (fun e => (m.eng n e).waitOrder) := by
  unfold Mach.firstWaiter List.argmin
  congr
  funext b e
  cases b <;> rfl

theorem Mach.waiters_congr {s m : Mach} {n : Nat} (h : ∀ e, m.eng n e = s.eng n e) (i : Nat) :
    m.waiters n i = s.waiters n i := by
  simp only [Mach.waiters, h]

section
variable (m : Mach) (n core k : Nat)

theorem Mach.cellPush_add (a src : Nat) : m.cellPush n (.add core k a src) =
    m.modSt n (fun x => { x with cellq := x.cellq ++ [.add core k a src] }) := rfl

theorem Mach.cellPush_err (st : Status) : m.cellPush n (.err core k st) =
    m.modSt n (fun x => { x with cellq := x.cellq ++ [.err core k st] }) := rfl

end

theorem Mach.serveWaits_of_none {m : Mach} {n i : Nat} (h : m.firstWaiter n i = none) (k : Nat) : m.serveWaits n i k = m := by
  cases k with
  | zero => rfl
  | succ k => simp [Mach.serveWaits, h]

theorem Mach.setSem_semBlocked (m : Mach) (n i v k : Nat) (o : HeldOp) : (m.setSem n i v).semBlocked k o = m.semBlocked k o := rfl

theorem Mach.setSem_firstWaiter (m : Mach) (n i v k j : Nat) : (m.setSem n i v).firstWaiter k j = m.firstWaiter k j := rfl

/-- Setting a semaphore changes the semaphores alone. -/
theorem Mach.setSem_frame {m : Mach} {x : Assoc Nat} (h : m.sems = x) (n i v : Nat) : { m.setSem n i v with sems := x } = m := by
  subst h
  rfl

theorem Mach.setSem_st (m : Mach) (n i v k : Nat) : (m.setSem n i v).st k = m.st k := rfl

theorem Mach.setSem_eng (m : Mach) (n i v k e : Nat) : (m.setSem n i v).eng k e = m.eng k e := rfl

theorem Mach.setSem_modSt (m : Mach) (n i v k : Nat) (f : Station → Station) :
    (m.setSem n i v).modSt k f = (m.modSt k f).setSem n i v := rfl

theorem Mach.setSem_reached (m : Mach) (n i v core : Nat) (w0 : W64) :
    (m.setSem n i v).reached core w0 = (m.reached core w0).setSem n i v := by
  simp only [Mach.reached, Mach.wakeStation, Mach.setSem_modSt]

@[simp] theorem Mach.logSem_out (m : Mach) (n : Nat) (st : Status) (o : HeldOp) (v : Nat) : (m.logSem n st o v).out = m.out := rfl

theorem Mach.setSem_setSem (m : Mach) (n i v w : Nat) : (m.setSem n i v).setSem n i w = m.setSem n i w := by
  simp only [Mach.setSem, aset_aset]

section
variable {m : Mach} {n i k v : Nat} (hv : m.sem n i = v)
include hv

theorem Mach.semInc_of_over (h : 65535 < v + k) : m.semInc n i k = none := by
  rw [Mach.semInc, hv, if_pos h]

theorem Mach.semInc_of_within (h : v + k ≤ 65535) : m.semInc n i k = some ((m.setSem n i (v + k)).serveWaits n i 6) := by
  rw [Mach.semInc, hv, if_neg (by omega)]

/-- While nobody waits, an increment is kept in the count. -/
theorem Mach.semInc_of_none (h : v + k ≤ 65535) (hw : m.firstWaiter n i = none) :
    m.semInc n i k = some (m.setSem n i (v + k)) := by
  rw [Mach.semInc_of_within hv h, Mach.serveWaits_of_none ((Mach.setSem_firstWaiter ..).trans hw)]

end

section
variable {m : Mach} {n v core : Nat} {w0 w1 : W64}

theorem Mach.semApply_signal {u : Mach} (hop : soOp w0 = 1) (hu : m.semInc n (soSem w0) (soN w0) = some u) :
    m.semApply n { core, w0, w1 } = u := by
  simp [Mach.semApply, opTake, opArrive, hop, hu]

variable (hv : m.sem n (soSem w0) = v)
include hv

theorem Mach.semApply_of_over (hop : soOp w0 ≠ 3) (h : 65535 < v + soN w0) :
    m.semApply n { core, w0, w1 } = m.logSem n .semover { core, w0, w1 } 0 := by
  simp [Mach.semApply, opTake, hop, Mach.semInc_of_over hv h]

theorem Mach.semApply_arrive (hop : soOp w0 = 2) (h : v + soN w0 ≤ 65535) (hw : m.firstWaiter n (soSem w0) = none) :
    m.semApply n { core, w0, w1 } =
      (m.setSem n (soSem w0) ((v + soN w0) % soThresh w1)).releases n { core, w0, w1 } ((v + soN w0) / soThresh w1) := by
  simp [Mach.semApply, opTake, opArrive, hop, Mach.semInc_of_none hv h hw, Mach.setSem_setSem]

theorem Mach.semApply_take (hop : soOp w0 = 3) (h : soN w0 ≤ v) :
    m.semApply n { core, w0, w1 } = (m.setSem n (soSem w0) (v - soN w0)).modSt n
      (fun x => { x with cellq := x.cellq ++ [.add core (soCell w0) 1 n] }) := by
  rw [← Mach.cellPush_add]
  simp [Mach.semApply, opTake, hop, hv, h]

theorem Mach.semApply_take_under (hop : soOp w0 = 3) (h : v < soN w0) :
    m.semApply n { core, w0, w1 } = (m.logSem n .semunder { core, w0, w1 } v).modSt n
      (fun x => { x with cellq := x.cellq ++ [.err core (soCell w0) .semunder] }) := by
  rw [← Mach.cellPush_err]
  simp [Mach.semApply, opTake, hop, hv, Nat.not_le.mpr h]

end

theorem soN_le (w : W64) : soN w ≤ 65535 := by
  have : soN w < 2 ^ 16 := Nat.mod_lt _ (by decide)
  omega

end Sys2Proof.Machine
end

section
/-!
PROOFS. What a semaphore operation leaves: the engines that a SIGNAL wakes (R313, R317), the releases of an ARRIVE (R314), the
reply of a TAKE (R315), and what is refused (R316, R318).
-/
namespace Sys2Proof.Machine

/-! ## Serving the engines that wait (R317) -/

theorem Mach.mem_waiters {m : Mach} {n i e : Nat} : e ∈ m.waiters n i ↔ e < 6 ∧ (m.eng n e).waiting = some i := by
  simp [Mach.waiters]

theorem Mach.waiters_nodup (m : Mach) (n i : Nat) : (m.waiters n i).Nodup := List.nodup_range.filter _

theorem Mach.waiters_length_le (m : Mach) (n i : Nat) : (m.waiters n i).length ≤ 6 :=
  (List.length_filter_le _ _).trans_eq (List.length_range ..)

/-- An engine that has passed its WAIT. -/
def Engine.passed (g : Engine) : Engine := { g with waiting := none, pc := g.pc + 1 }

/-- From `s` to `m` semaphore `i` of station `n` has served the engines that wait on it, as far as its count goes and those
whose waits began first before the others; no more has changed. -/
structure Mach.Serves (s m : Mach) (n i : Nat) : Prop where
  count : m.sem n i = s.sem n i - (s.waiters n i).length
  left : (m.waiters n i).length = (s.waiters n i).length - s.sem n i
  first : ∀ a b, a ∈ s.waiters n i → a ∉ m.waiters n i → b ∈ m.waiters n i →
    (s.eng n a).waitOrder ≤ (s.eng n b).waitOrder
  woken : ∀ e, e ∈ s.waiters n i → e ∉ m.waiters n i → m.eng n e = (s.eng n e).passed
  kept : ∀ e, e ∉ s.waiters n i ∨ e ∈ m.waiters n i → m.eng n e = s.eng n e
  station : { m.st n with engines := (s.st n).engines } = s.st n
  others : ∀ k, k ≠ n → m.st k = s.st k
  counts : ∀ k j, 8192 * k + j ≠ 8192 * n + i → m.sem k j = s.sem k j
  rest : ∀ x y, { m with sts := x, sems := y } = { s with sts := x, sems := y }

/-- Nothing is served where the count is 0 or nobody waits. -/
theorem Mach.Serves.refl {s : Mach} {n i : Nat} (h : s.sem n i = 0 ∨ s.waiters n i = []) : s.Serves s n i where
  count := by rcases h with h | h <;> simp [h]
  left := by rcases h with h | h <;> simp [h]
  first _ _ ha hn _ := absurd ha hn
  woken _ he hn := absurd he hn
  kept _ _ := rfl
  station := rfl
  others _ _ := rfl
  counts _ _ _ := rfl
  rest _ _ := rfl

/-- The machine in which engine `e` has taken 1 and passed its WAIT. -/
def Mach.served (s : Mach) (n i e : Nat) : Mach := (s.setSem n i (s.sem n i - 1)).modEng n e Engine.passed

section
variable {s m : Mach} {n i e : Nat}

theorem Mach.served_eng_ne {k : Nat} (h : k ≠ e) : (s.served n i e).eng n k = s.eng n k := Mach.modEng_eng_ne _ _ _ _ h

theorem Mach.served_sem : (s.served n i e).sem n i = s.sem n i - 1 := Mach.setSem_sem _ _ _ _

theorem Mach.served_eng : (s.served n i e).eng n e = (s.eng n e).passed := Mach.modEng_eng _ _ _ _

theorem Mach.mem_served_waiters {k : Nat} : k ∈ (s.served n i e).waiters n i ↔ k ∈ s.waiters n i ∧ k ≠ e := by
  by_cases hk : k = e
  · simp [hk, Mach.mem_waiters, Mach.served_eng, Engine.passed]
  · simp [hk, Mach.mem_waiters, Mach.served_eng_ne hk]

theorem Mach.served_waiters_length (he : e ∈ s.waiters n i) :
    ((s.served n i e).waiters n i).length + 1 = (s.waiters n i).length := by
  have hperm : ((s.served n i e).waiters n i).Perm ((s.waiters n i).erase e) := by
    refine (List.perm_ext_iff_of_nodup (Mach.waiters_nodup ..) ((Mach.waiters_nodup ..).erase e)).mpr fun k => ?_
    rw [Mach.mem_served_waiters, (Mach.waiters_nodup ..).mem_erase_iff, and_comm]
  rw [hperm.length_eq, List.length_erase_of_mem he, Nat.sub_add_cancel (List.length_pos_of_mem he)]

/-- To serve the engine whose wait began first and then the others is to serve them all. -/
theorem Mach.Serves.step (hv : s.sem n i ≠ 0) (he : s.firstWaiter n i = some e) (h : (s.served n i e).Serves m n i) :
    s.Serves m n i := by
  rw [Mach.firstWaiter_eq_argmin] at he
  have hmem : e ∈ s.waiters n i := List.argmin_mem he
  have hlen := Mach.served_waiters_length hmem
  have hleft : ∀ b ∈ m.waiters n i, b ∈ s.waiters n i ∧ b ≠ e := fun b hb => by
    have hb' := hb
    rw [Mach.mem_waiters, h.kept b (.inr hb), ← Mach.mem_waiters] at hb'
    exact Mach.mem_served_waiters.mp hb'
  refine ⟨?_, ?_, fun a b ha hna hb => ?_, fun k hk hnk => ?_, fun k hk => ?_, ?_, fun k hk => ?_, fun k j hkj => ?_,
    fun x y => ?_⟩
  · rw [h.count, Mach.served_sem]; omega
  · rw [h.left, Mach.served_sem]; omega
  · obtain ⟨hbs, hbe⟩ := hleft b hb
    by_cases hae : a = e
    · rw [hae]
      exact List.le_of_mem_argmin (f := fun e => (s.eng n e).waitOrder) hbs he
    · have := h.first a b (Mach.mem_served_waiters.mpr ⟨ha, hae⟩) hna hb
      rwa [Mach.served_eng_ne hae, Mach.served_eng_ne hbe] at this
  · by_cases hke : k = e
    · rw [hke, h.kept e (.inl fun hin => (Mach.mem_served_waiters.mp hin).2 rfl), Mach.served_eng]
    · rw [h.woken k (Mach.mem_served_waiters.mpr ⟨hk, hke⟩) hnk, Mach.served_eng_ne hke]
  · have hke : k ≠ e := by
      rcases hk with hk | hk
      · exact fun hke => hk (hke ▸ hmem)
      · exact (hleft k hk).2
    rw [h.kept k (hk.imp_left fun hk hin => hk (Mach.mem_served_waiters.mp hin).1), Mach.served_eng_ne hke]
  · have hst := h.station
    rw [Mach.served, Mach.modEng_st] at hst
    exact congrArg (fun x : Station => { x with engines := (s.st n).engines }) hst
  · rw [h.others k hk]; exact Mach.modEng_st_ne _ _ _ _ hk
  · rw [h.counts k j hkj]; exact Mach.setSem_sem_ne s _ hkj
  · exact h.rest x y

theorem Mach.waiters_eq_nil (h : s.firstWaiter n i = none) : s.waiters n i = [] := by
  rwa [Mach.firstWaiter_eq_argmin, List.argmin_eq_none] at h

/-- As many rounds as engines wait serve them all. -/
theorem Mach.serveWaits_serves : ∀ {k : Nat} {s : Mach}, (s.waiters n i).length ≤ k → s.Serves (s.serveWaits n i k) n i
  | 0, _, h => .refl (.inr (List.length_eq_zero_iff.mp (Nat.le_zero.mp h)))
  | k + 1, s, h => by
    by_cases hv : s.sem n i = 0
    · simpa only [Mach.serveWaits, hv, if_true] using Mach.Serves.refl (.inl hv)
    cases he : s.firstWaiter n i with
    | none => rw [Mach.serveWaits_of_none he]; exact .refl (.inr (Mach.waiters_eq_nil he))
    | some e =>
      have hround : s.serveWaits n i (k + 1) = (s.served n i e).serveWaits n i k := by
        simp only [Mach.serveWaits, hv, he, if_false]
        rfl
      have hlen := Mach.served_waiters_length (List.argmin_mem ((Mach.firstWaiter_eq_argmin s n i).symm.trans he))
      rw [hround]
      exact .step hv he (Mach.serveWaits_serves (by omega))

end

/-! ## Items that join a cell-write path (R323) -/

/-- From `s` to `m` the items `is` have joined the cell-write path of station `n`, and no more has changed. -/
structure Mach.Pushes (s m : Mach) (n : Nat) (is : List CellItem) : Prop where
  st : m.st n = { s.st n with cellq := (s.st n).cellq ++ is }
  others : ∀ k, k ≠ n → m.st k = s.st k
  rest : ∀ x y, { m with sts := x, sems := y } = { s with sts := x, sems := y }
  sems : m.sems = s.sems

theorem Mach.Pushes.refl (s : Mach) (n : Nat) : s.Pushes s n [] :=
  ⟨by rw [List.append_nil], fun _ _ => rfl, fun _ _ => rfl, rfl⟩

/-- What one release of an ARRIVE adds to its station's cell-write path (R314). -/
def HeldOp.release (o : HeldOp) (n : Nat) : List CellItem :=
  (List.range (soTcount o.w1)).map (fun j => .add (soTcore o.w1 + j) (soCell o.w0) 1 n)

section
variable {s m : Mach} {n : Nat} {is : List CellItem} (h : s.Pushes m n is)
include h

theorem Mach.Pushes.out : m.out = s.out := (congrArg Mach.out (h.rest [] []) :)
theorem Mach.Pushes.sem (k j : Nat) : m.sem k j = s.sem k j := by simp only [Mach.sem, h.sems]

theorem Mach.Pushes.add (core cell k src : Nat) :
    s.Pushes (m.cellPush n (.add core cell k src)) n (is ++ [.add core cell k src]) where
  st := by
    rw [← List.append_assoc]
    exact (Mach.modSt_st m n _).trans
      (congrArg (fun x : Station => { x with cellq := x.cellq ++ [CellItem.add core cell k src] }) h.st)
  others j hj := (Mach.modSt_st_ne _ _ hj).trans (h.others j hj)
  rest := h.rest
  sems := h.sems

theorem Mach.Pushes.adds (core : Nat → Nat) (cell k src : Nat) (l : List Nat) :
    s.Pushes (overList (fun u j => u.cellPush n (.add (core j) cell k src)) m l) n
      (is ++ l.map (fun j => .add (core j) cell k src)) := by
  induction l generalizing m is with
  | nil => simpa [overList] using h
  | cons j l ih => simpa [overList] using ih (h.add (core j) cell k src)

theorem Mach.Pushes.releases (o : HeldOp) (k : Nat) :
    s.Pushes (m.releases n o k) n (is ++ (List.replicate k (o.release n)).flatten) := by
  induction k generalizing m is with
  | zero => simpa [Mach.releases] using h
  | succ k ih =>
    have hall := ih (h.adds (fun j => soTcore o.w1 + j) (soCell o.w0) 1 n (List.range (soTcount o.w1)))
    rw [List.append_assoc] at hall
    rwa [List.replicate_succ, List.flatten_cons, Mach.releases]

end

end Sys2Proof.Machine
end

section
/-!
PROOFS. O29–O33: the outcomes of SIGNAL, ARRIVE and TAKE.
-/
namespace Sys2Proof.Machine

section
variable {s : State} {core : Nat} {w0 w1 : W64} (h : SemReady s core w0 w1)
include h

/-- A SIGNAL on which nobody waits is kept in the count. -/
theorem SemReady.signal_kept (hop : soOp w0 = 1) (hf : s.m.semFault core w0 w1 = none)
    (hw : s.m.firstWaiter (soStation w0) (soSem w0) = none) (hv : s.m.sem (soStation w0) (soSem w0) + soN w0 ≤ 65535) :
    exec (.signal core w0 w1) s =
      s.to ((s.m.reached core w0).setSem (soStation w0) (soSem w0) (s.m.sem (soStation w0) (soSem w0) + soN w0)) := by
  rw [h.exec_of_sound hf (c := .signal core w0 w1) (by simp [semCommands]) hop, Mach.semApply_signal hop
    (Mach.semInc_of_none (s.m.reached_sem core w0 _ _) hv ((s.m.reached_firstWaiter core w0 _ _).trans hw))]
  exact next_commit_eq_to (by simp [h.quiet])

/-- A SIGNAL on a semaphore at 0 serves those that wait, at the machine in which its N has been added. -/
theorem SemReady.signal_serves (hop : soOp w0 = 1) (hf : s.m.semFault core w0 w1 = none)
    (hz : s.m.sem (soStation w0) (soSem w0) = 0) : ∃ m : Mach, exec (.signal core w0 w1) s = .next (commit s m) ∧
      ((s.m.reached core w0).setSem (soStation w0) (soSem w0) (soN w0)).Serves m (soStation w0) (soSem w0) := by
  have hinc := Mach.semInc_of_within (k := soN w0) ((s.m.reached_sem core w0 _ _).trans hz)
    (by rw [Nat.zero_add]; exact soN_le w0)
  rw [Nat.zero_add] at hinc
  refine ⟨_, (h.exec_of_sound hf (c := .signal core w0 w1) (by simp [semCommands]) hop).trans ?_,
    Mach.serveWaits_serves (Mach.waiters_length_le ..)⟩
  rw [Mach.semApply_signal hop hinc]

end

/-- An operation that sets its semaphore has changed that and two stations. -/
theorem Mach.setSem_reached_frame (m : Mach) (core : Nat) (w0 : W64) (n i v : Nat) :
    { (m.reached core w0).setSem n i v with sts := m.sts, sems := m.sems } = m := by
  have hframe := m.reached_frame core w0 m.sts
  generalize m.reached core w0 = u at hframe
  exact congrArg (fun x : Mach => { x with sems := m.sems }) hframe

/-- The outcome of one operation leaves another ready, and as sound as it was. -/
theorem SemReady.after_signal {s : State} {other : Nat} {v0 v1 : W64} (h : SemReady s other v0 v1) (core : Nat)
    (w0 : W64) (n i v : Nat) :
    SemReady { s with m := (s.m.reached core w0).setSem n i v } other v0 v1 := by
  obtain ⟨hcore, hq, hblocked, hat⟩ := h
  have hq' : ((s.m.reached core w0).setSem n i v).out = [] := by rw [Mach.setSem_out, Mach.reached_out, hq]
  exact ⟨hcore, hq', (Mach.setSem_semBlocked ..).trans (Mach.semBlocked_reached hblocked core w0),
    (Mach.setSem_semBlocked ..).trans (Mach.semBlocked_reached hat core w0)⟩

/-- Settles O29: with nobody waiting the count alone changes, and the second signal finds what the first has left. -/
theorem signalAdds : Obligations.SignalAdds := by
  refine ⟨fun s core w0 w1 h hop hf hw hv => ⟨h.signal_kept hop hf hw hv, fun hn => ?_⟩,
    fun s core other w0 w1 v0 v1 h h' hop hop' hf hf' hn hi hone hone' hw hz => ?_⟩
  · have hnext := h.signal_kept hop hf hw hv
    have hframe := Mach.setSem_frame (s.m.reached_sems core w0) (soStation w0) (soSem w0)
      (s.m.sem (soStation w0) (soSem w0) + soN w0)
    have hcounts : ∀ m j, ((s.m.reached core w0).setSem (soStation w0) (soSem w0)
        (s.m.sem (soStation w0) (soSem w0) + soN w0)).sem m j = s.m.sem m j := by
      intro m j
      rw [hn, Nat.add_zero]
      by_cases hkey : 8192 * m + j = 8192 * soStation w0 + soSem w0
      · simp only [Mach.sem, hkey]
        exact Mach.setSem_sem (s.m.reached core w0) _ _ _
      · exact (Mach.setSem_sem_ne _ _ hkey).trans (Mach.reached_sem ..)
    generalize (s.m.reached core w0).setSem _ _ _ = u at hnext hframe hcounts
    exact ⟨_, hnext, hcounts, congrArg (fun x => { s with m := x }) hframe⟩
  · have hfirst := h.signal_kept hop hf hw (by rw [hz, hone]; decide)
    rw [hz, hone] at hfirst
    have hready := h'.after_signal core w0 (soStation w0) (soSem w0) (0 + 1)
    have hjudged : ((s.m.reached core w0).setSem (soStation w0) (soSem w0) (0 + 1)).semFault other v0 v1 = none :=
      (Mach.semFault_congr ((Mach.setSem_ctxs ..).trans (Mach.reached_ctxs ..)) ..).trans hf'
    have hw' : ((s.m.reached core w0).setSem (soStation w0) (soSem w0) (0 + 1)).firstWaiter (soStation w0) (soSem w0) = none :=
      (Mach.setSem_firstWaiter ..).trans ((s.m.reached_firstWaiter core w0 _ _).trans hw)
    have hcount : ((s.m.reached core w0).setSem (soStation w0) (soSem w0) (0 + 1)).sem (soStation w0) (soSem w0) = 1 :=
      Mach.setSem_sem _ _ _ _
    have hsecond := hready.signal_kept hop' hjudged (by rw [hn, hi]; exact hw') (by rw [hn, hi, hone', hcount]; decide)
    rw [hn, hi, hone', hcount, Mach.setSem_reached, Mach.setSem_setSem] at hsecond
    have hframe := Mach.setSem_frame (((s.m.reached core w0).reached_sems other v0).trans (s.m.reached_sems core w0))
      (soStation w0) (soSem w0) (1 + 1)
    have hcounts : ∀ m j, 8192 * m + j ≠ 8192 * soStation w0 + soSem w0 → (((s.m.reached core w0).reached other v0).setSem
        (soStation w0) (soSem w0) (1 + 1)).sem m j = s.m.sem m j := fun m j hkey =>
      (Mach.setSem_sem_ne _ _ hkey).trans ((Mach.reached_sem ..).trans (Mach.reached_sem ..))
    have htwo := Mach.setSem_sem ((s.m.reached core w0).reached other v0) (soStation w0) (soSem w0) (1 + 1)
    generalize ((s.m.reached core w0).reached other v0).setSem _ _ _ = u at hsecond hframe hcounts htwo
    exact ⟨_, _, hfirst, hsecond, htwo, hcounts, congrArg (fun x => { s with m := x }) hframe⟩

/-- Settles O30: the increment serves the waits it can, and every other part is the machine that both stations have heard. -/
theorem signalWakes : Obligations.SignalWakes := by
  intro s core w0 w1 h hop hf n i r ws hz
  obtain ⟨m, hnext, hs⟩ : ∃ m, exec (.signal core w0 w1) s = .next (commit s m) ∧ (r.setSem n i (soN w0)).Serves m n i :=
    h.signal_serves hop hf hz
  have heng (e : Nat) : (r.setSem n i (soN w0)).eng n e = s.m.eng n e :=
    (Mach.setSem_eng ..).trans (s.m.reached_eng core w0 n e)
  have hws : (r.setSem n i (soN w0)).waiters n i = ws s.m := Mach.waiters_congr heng i
  have hst (k : Nat) : (r.setSem n i (soN w0)).st k = r.st k := Mach.setSem_st ..
  have hengines : (r.st n).engines = (s.m.st n).engines := s.m.reached_engines core w0 n
  have hcount : (r.setSem n i (soN w0)).sem n i = soN w0 := Mach.setSem_sem _ _ _ _
  have hsem (k j : Nat) (hkj : 8192 * k + j ≠ 8192 * n + i) : (r.setSem n i (soN w0)).sem k j = s.m.sem k j :=
    (Mach.setSem_sem_ne _ _ hkj).trans (Mach.reached_sem ..)
  have hrest := (hs.rest s.m.sts s.m.sems).trans (Mach.setSem_reached_frame s.m core w0 n i (soN w0))
  have hout : m.out = [] := (congrArg Mach.out hrest :).trans h.quiet
  rw [commit_of_out_nil hout] at hnext
  generalize r.setSem n i (soN w0) = b at hs heng hws hst hcount hsem
  obtain ⟨hsum, hleft, hfirst, hwoken, hkept, hstation, hothers, hcounts, -⟩ := hs
  simp only [hws, hcount, heng] at hsum hleft hfirst hwoken hkept
  rw [hst, hengines] at hstation
  exact ⟨_, hnext, hsum, hleft, hfirst, hwoken, hkept, hstation, fun k hk => (hothers k hk).trans (hst k),
    fun k j hkj => (hcounts k j hkj).trans (hsem k j hkj), congrArg (fun x : Mach => { s with m := x }) hrest⟩

/-- Settles O31: the sum is reduced by THRESH, and each release joins the path behind the last. -/
theorem arriveReleases : Obligations.ArriveReleases := by
  intro s core w0 w1 h hop hf n v release hw hv
  have hnext := h.exec_of_sound hf (c := .arrive core w0 w1) (by simp [semCommands]) hop
  rw [Mach.semApply_arrive (s.m.reached_sem core w0 _ _) hop hv ((s.m.reached_firstWaiter core w0 _ _).trans hw)] at hnext
  have hpush := (Mach.Pushes.refl ((s.m.reached core w0).setSem n (soSem w0) (v % soThresh w1)) n).releases
    { core, w0, w1 } (v / soThresh w1)
  have hst (k : Nat) : ((s.m.reached core w0).setSem n (soSem w0) (v % soThresh w1)).st k = (s.m.reached core w0).st k :=
    Mach.setSem_st ..
  have hcount := (hpush.sem n (soSem w0)).trans (Mach.setSem_sem ..)
  have hcounts (k j : Nat) (hkj : 8192 * k + j ≠ 8192 * n + soSem w0) :=
    (hpush.sem k j).trans ((Mach.setSem_sem_ne _ _ hkj).trans (s.m.reached_sem core w0 k j))
  have hrest := (hpush.rest s.m.sts s.m.sems).trans (Mach.setSem_reached_frame ..)
  have hpath := hpush.st
  rw [hst, s.m.reached_cellq core w0 n] at hpath
  rw [commit_of_out_nil (hpush.out.trans (by simp [h.quiet]))] at hnext
  have hothers (k : Nat) (hk : k ≠ n) := (hpush.others k hk).trans (hst k)
  generalize ((s.m.reached core w0).setSem n (soSem w0) (v % soThresh w1)).releases _ _ _ = m at *
  exact ⟨_, hnext, hcount, hcounts, hpath, hothers, congrArg (fun x : Mach => { s with m := x }) hrest⟩

/-- Settles O32: the count falls or stays, and one item joins the path. -/
theorem takeDecrements : Obligations.TakeDecrements := by
  intro s core w0 w1 h hop hf n i r push
  have hnext := h.exec_of_sound hf (c := .take core w0 w1) (by simp [semCommands]) hop
  refine ⟨fun hv => ?_, fun hv => ?_⟩
  · rw [hnext, Mach.semApply_take (s.m.reached_sem core w0 _ _) hop hv]
    exact next_commit_eq_to (by simp [h.quiet])
  · rw [hnext, Mach.semApply_take_under (s.m.reached_sem core w0 _ _) hop hv]
    exact next_commit_eq_to (by simp [h.quiet])

/-- Settles O33: a fault is judged at the core's station, an increment too large at the semaphore's; each is logged only. -/
theorem semOpsRefused : Obligations.SemOpsRefused := by
  intro s core w0 w1 c h hc
  obtain ⟨op, hmem, hop⟩ : ∃ op, (c, op) ∈ semCommands core w0 w1 ∧ soOp w0 = op := by
    rcases hc with ⟨rfl, hop⟩ | ⟨rfl, hop⟩ | ⟨rfl, hop⟩ <;> exact ⟨_, by simp [semCommands], hop⟩
  refine ⟨fun f hf => ?_, fun hf htake hv => ?_⟩
  · rw [h.exec_eq hmem hop, h.semArrive_of_fault hf]
    exact next_commit_eq_to (by simp [h.quiet])
  · rw [h.exec_of_sound hf hmem hop, Mach.semApply_of_over (s.m.reached_sem core w0 _ _) htake hv]
    exact next_commit_eq_to (by simp [h.quiet])

end Sys2Proof.Machine
end

section
/-!
PROOFS. Core waits, and the items of a station's cell-write path: how they leave it, are held there, and land (R59, R309,
R310, R323).
-/
namespace Sys2Proof.Machine

/-! ## The commands -/

theorem exec_cellWait {s : State} {core k : Nat} (hcore : core < 25920) (hk : k < 32) :
    exec (.cellWait core k) s = .next (commit s (s.m.cellWait core k)) :=
  exec_of_act (fun _ m => m.cellWait core k) rfl (by simp [Instr.wf, okCore, okCell, Config.nCore, hcore, hk])

theorem exec_cellWritePathIssue {s : State} {n : Nat} (hn : n < 6) (full : Bool) :
    exec (.cellWritePathIssue n full) s = .next (commit s (s.m.cellIssue n full)) :=
  exec_of_act (fun _ m => m.cellIssue n full) rfl (by simp [Instr.wf, okSt, Config.nStation, hn])

theorem station_core_wf {n core : Nat} (hn : n < 6) (hcore : core < 25920) : (okSt n && okCore core) = true := by
  simp [okSt, okCore, Config.nStation, Config.nCore, hn, hcore]

theorem exec_ticketRetry {s : State} {n core : Nat} (hn : n < 6) (hcore : core < 25920) (full : Bool) :
    exec (.ticketRetry n core full) s = .next (commit s (s.m.ticketRetry n core full)) :=
  exec_of_act (fun _ m => m.ticketRetry n core full) rfl (station_core_wf hn hcore)

theorem exec_cellWriteLand {s : State} {n core : Nat} (hn : n < 6) (hcore : core < 25920) :
    exec (.cellWriteLand n core) s = .next (commit s (s.m.cellLand n core)) :=
  exec_of_act (fun _ m => m.cellLand n core) rfl (station_core_wf hn hcore)

/-! ## A core's wait (R309) -/

section
variable {m : Mach} {core k : Nat}

theorem Mach.cellWait_of_err (h : (m.cell core k).err = true) : m.cellWait core k =
    { m.setCell core k { err := false, status := 0, count := (m.cell core k).count } with
      waitDone := aset none m.waitDone core (some (m.cell core k).status) } := by
  simp [Mach.cellWait, h, Mach.setCell]

theorem Mach.cellWait_of_count (herr : (m.cell core k).err = false) (h : 1 ≤ (m.cell core k).count) : m.cellWait core k =
    { m.setCell core k { m.cell core k with count := (m.cell core k).count - 1 } with
      waitDone := aset none m.waitDone core (some 0) } := by
  simp [Mach.cellWait, herr, h, Mach.setCell, Status.code]

theorem Mach.cellWait_of_zero (herr : (m.cell core k).err = false) (h : (m.cell core k).count = 0) : m.cellWait core k = m := by
  simp [Mach.cellWait, herr, h]

/-! ## What lands in a cell (R310) -/

variable {n : Nat}

theorem Mach.cellAdd_of_within {a src : Nat} (h : (m.cell core k).count + a ≤ 65535) : m.cellAdd n core k a src =
    m.setCell core k { m.cell core k with count := (m.cell core k).count + a } := if_pos h

/-- The machine in which a write that would pass 65,535 has been logged. -/
def Mach.logOver (m : Mach) (n core k src : Nat) : Mach :=
  m.logv { status := .semover, src := 2, unit := n, core, value := k, addr := src }

section
variable {a src : Nat} (hover : 65535 < (m.cell core k).count + a)
include hover

theorem Mach.cellAdd_of_over_set (h : (m.cell core k).err = true) : m.cellAdd n core k a src = m.logOver n core k src :=
  (if_neg (Nat.not_le.mpr hover)).trans (if_pos h)

theorem Mach.cellAdd_of_over_clear (h : (m.cell core k).err = false) : m.cellAdd n core k a src =
    (m.logOver n core k src).setCell core k { m.cell core k with err := true, status := 0x41 } :=
  (if_neg (Nat.not_le.mpr hover)).trans (if_neg (by simp [h]))

end

theorem Mach.cellErr_of_set (h : (m.cell core k).err = true) (st : Status) : m.cellErr n core k st =
    m.logv { status := st, src := 2, unit := n, core, value := k } := if_pos h

theorem Mach.cellErr_of_clear (h : (m.cell core k).err = false) (st : Status) : m.cellErr n core k st =
    m.setCell core k { m.cell core k with err := true, status := st.code } := if_neg (by simp [h])

end

/-! ## Leaving the path (R59, R323) -/

/-- A command that makes a station over changes that station alone. -/
theorem stationBecomes_modSt {s : State} (hq : s.Quiet) {n : Nat} {f : Station → Station} {x : Station}
    (hx : f (s.m.st n) = x) : StationBecomes s (commit s (s.m.modSt n f)) n x := by
  refine ⟨?_, fun k hk => ?_, commit_of_sts hq rfl⟩
  · rw [commit_st, Mach.modSt_st, hx]
  · rw [commit_st, Mach.modSt_st_ne _ _ hk]

section
variable {m : Mach} {n : Nat} {is : List CellItem} (hact : (m.st n).pwr = .active)
include hact

theorem Mach.cellIssue_of_write {i : CellItem} (hpath : (m.st n).cellq = i :: is) (hi : ∀ t b, i ≠ .ticket t b)
    (full : Bool) :
    m.cellIssue n full = m.modSt n (fun x => { x with cellq := is, cellFly := x.cellFly ++ [i] }) := by
  cases i with
  | ticket t b => exact absurd rfl (hi t b)
  | add | err => simp [Mach.cellIssue, hact, hpath, Mach.modSt_modSt]

section
variable {t : Ticket} {b full : Bool} (hpath : (m.st n).cellq = .ticket t b :: is)
include hpath

theorem Mach.cellIssue_of_held (h : full = true ∨ (m.st n).ticketHeld.any (fun p => p.1.core == t.core) = true) :
    m.cellIssue n full = m.modSt n (fun x => { x with cellq := is, ticketHeld := holdTicket x.ticketHeld (t, b) }) := by
  have hheld : (full || (m.st n).ticketHeld.any (fun p => p.1.core == t.core)) = true := by simpa using h
  simp only [Mach.cellIssue, hact, hpath, Mach.modSt_st, hheld, Mach.modSt_modSt]
  rfl

theorem Mach.cellIssue_of_free (h : (m.st n).ticketHeld.any (fun p => p.1.core == t.core) = false) :
    m.cellIssue n false = (m.modSt n (fun x => { x with cellq := is })).landTicket n t := by
  simp only [Mach.cellIssue, hact, hpath, Mach.modSt_st, h]
  rfl

end
end

/-! ## Trying a held ticket again (R59, R165) -/

theorem Mach.addStall_out (m : Mach) (c g k a : Nat) (thrs : List Nat) : (m.addStall c g k a thrs).out = m.out := by
  unfold Mach.addStall
  dsimp only
  split <;> rfl

/-- The machine in which a retry has counted the time since the last, where its ticket is the first held of its stage. -/
def Mach.retried (m : Mach) (core : Nat) (t : Ticket) (q : Ticket × Bool) : Mach :=
  if q.1.core = core then m.addStall t.ctx t.stage causeTicketWait 16 [m.stallThr t.ctx causeTicketWait] else m

theorem Mach.retried_out (m : Mach) (core : Nat) (t : Ticket) (q : Ticket × Bool) : (m.retried core t q).out = m.out := by
  unfold Mach.retried
  split
  · exact m.addStall_out ..
  · rfl

section
variable {m : Mach} {n core j : Nat} {p q : Ticket × Bool}

theorem Mach.ticketRetry_eq (hp : findIx (fun (p : Ticket × Bool) => p.1.core == core) (m.st n).ticketHeld 0 = some (j, p))
    (hq : (m.st n).ticketHeld.find? (fun x => x.1.ctx == p.1.ctx && x.1.stage == p.1.stage) = some q) (full : Bool) :
    m.ticketRetry n core full = if full then m.retried core p.1 q
      else ((m.retried core p.1 q).modSt n (fun x => { x with ticketHeld := x.ticketHeld.eraseIdx j })).landTicket n p.1 := by
  simp only [Mach.ticketRetry, hp, hq, beq_iff_eq, Mach.retried]

/-! ## Landing (R310, R324) -/

/-- The machine in which the cell write at place `j` has left flight. -/
def Mach.landed (m : Mach) (n j : Nat) : Mach := m.modSt n (fun x => { x with cellFly := x.cellFly.eraseIdx j })

theorem Mach.cellLand_add {k a src : Nat}
    (h : findIx (fun (i : CellItem) => i.core == core) (m.st n).cellFly 0 = some (j, .add core k a src)) :
    m.cellLand n core = (m.landed n j).cellAdd n core k a src := by
  simp only [Mach.cellLand, h, Mach.landed]

theorem Mach.cellLand_err {k : Nat} {st : Status}
    (h : findIx (fun (i : CellItem) => i.core == core) (m.st n).cellFly 0 = some (j, .err core k st)) :
    m.cellLand n core = (m.landed n j).cellErr n core k st := by
  simp only [Mach.cellLand, h, Mach.landed]

end

/-- Settles O34, clause by clause: what the cell, the head of the path, the held ticket or the write in flight says of the
outcome. -/
theorem cellWritesGoAndLand : Obligations.CellWritesGoAndLand := by
  refine ⟨fun s core k hcore hk hq => ?wait, fun s n full i is hn => ⟨fun hact hpath hq hi => ?write,
    fun t b hact hpath => ?ticket, fun core p j q hcore hp hfirst => ?retry⟩, fun s n core j i hn hcore hq hi => ?land⟩
  case wait =>
    rw [exec_cellWait hcore hk]
    refine ⟨fun herr => ?_, fun herr hcount => ?_, fun herr hcount => ?_⟩
    · rw [Mach.cellWait_of_err herr]; exact next_commit_eq_to hq
    · rw [Mach.cellWait_of_count herr hcount]; exact next_commit_eq_to hq
    · rw [Mach.cellWait_of_zero herr hcount, commit_self hq]
  case write =>
    refine ⟨_, exec_cellWritePathIssue hn full, ?_⟩
    rw [Mach.cellIssue_of_write hact hpath hi]
    exact stationBecomes_modSt hq rfl
  case ticket =>
    refine ⟨fun hheld hq => ⟨_, exec_cellWritePathIssue hn full, ?_⟩, fun hroom hfree => ?_⟩
    · rw [Mach.cellIssue_of_held hact hpath hheld]
      exact stationBecomes_modSt hq rfl
    · rw [exec_cellWritePathIssue hn full, hroom, Mach.cellIssue_of_free hact hpath hfree]
  case retry =>
    refine ⟨?_, fun hq => ?_⟩
    · rw [exec_ticketRetry hn hcore, Mach.ticketRetry_eq hp hfirst]
      rfl
    · rw [exec_ticketRetry hn hcore, Mach.ticketRetry_eq hp hfirst]
      exact next_commit_eq_to ((Mach.retried_out ..).trans hq)
  case land =>
    rw [exec_cellWriteLand hn hcore]
    refine ⟨fun k a src hadd => ⟨fun hle => ?_, fun hover hset => ?_, fun hover hclear => ?_⟩,
      fun k st herr => ⟨fun hclear => ?_, fun hset => ?_⟩⟩
    · rw [Mach.cellLand_add (hadd ▸ hi), Mach.cellAdd_of_within (m := s.m.landed n j) hle]
      exact next_commit_eq_to hq
    · rw [Mach.cellLand_add (hadd ▸ hi), Mach.cellAdd_of_over_set (m := s.m.landed n j) hover hset]
      exact next_commit_eq_to hq
    · rw [Mach.cellLand_add (hadd ▸ hi), Mach.cellAdd_of_over_clear (m := s.m.landed n j) hover hclear]
      exact next_commit_eq_to hq
    · rw [Mach.cellLand_err (herr ▸ hi), Mach.cellErr_of_clear (m := s.m.landed n j) hclear]
      exact next_commit_eq_to hq
    · rw [Mach.cellLand_err (herr ▸ hi), Mach.cellErr_of_set (m := s.m.landed n j) hset]
      exact next_commit_eq_to hq

end Sys2Proof.Machine
end

section
/-!
PROOFS. What a context descriptor leaves when it is refused, and what it starts from (R326, R328, R401).
-/
namespace Sys2Proof.Machine

/-- From `s` to `t` neither stations, contexts, semaphores, cells nor memories have changed. -/
abbrev SyncKept (s t : State) : Prop :=
  t.m.sts = s.m.sts ∧ t.m.ctxs = s.m.ctxs ∧ t.m.sems = s.m.sems ∧ t.m.cells = s.m.cells ∧ t.mem = s.mem

theorem act_congr {i : Instr} {s : State} {f g : Mems → Mach → Mach} (h : f s.mem s.m = g s.mem s.m) : act i s f = act i s g := by
  simp only [act, h]

theorem commit_syncKept {s : State} {m : Mach} (hq : s.Quiet) (hsts : m.sts = s.m.sts) (hctxs : m.ctxs = s.m.ctxs)
    (hsems : m.sems = s.m.sems) (hcells : m.cells = s.m.cells) (hout : m.out = s.m.out) : SyncKept s (commit s m) := by
  rw [commit_of_out_nil (hout.trans hq)]
  exact ⟨hsts, hctxs, hsems, hcells, rfl⟩

/-! ## Semaphores and cells of a started or completed descriptor's machine -/

section
variable (s : Mach) (d : DescRef)

@[simp] theorem Mach.started_sems : (s.started d).sems = s.sems := rfl
@[simp] theorem Mach.started_cells : (s.started d).cells = s.cells := rfl
theorem Mach.started_semImage (c : Nat) : (s.started d).semImage c = s.semImage c := rfl
theorem Mach.started_stageCores (c : Nat) : (s.started d).stageCores c = s.stageCores c := rfl

variable (rank : Nat) (st : Status) (a b : Nat)

@[simp] theorem Mach.complete_sems : (s.complete rank d st a b).sems = s.sems := rfl
@[simp] theorem Mach.complete_cells : (s.complete rank d st a b).cells = s.cells := rfl

end

section
variable {s : State} {r : Nat} {d : Desc} (h : DescReady s r d)
include h

/-- A descriptor that is logged and completed changes no more. -/
theorem DescReady.next_logged {c : Instr} {e : VEntry} {st : Status}
    (hc : exec c s = .next (commit s ((((s.m.started (d.refIn r)).logv e).completeCtx (d.refIn r) st 0).settle r 16))) :
    ∃ t, exec c s = .next t ∧ Ends s t (d.refIn r) st 0 ∧ SyncKept s t := by
  obtain ⟨hnext, hends⟩ := h.next_ends hc (.of_hs (Mach.logv_hs ..))
  exact ⟨_, hnext, hends, commit_syncKept h.quiet (by simp) (by simp) (by simp) (by simp) (by simp)⟩

end

end Sys2Proof.Machine
end

section
/-!
PROOFS. CTX_SAVE (R326, R327): the image goes out whole, in pieces that S0 writes.
-/
namespace Sys2Proof.Machine

/-! ## Bytes cut at 4 KiB boundaries -/

theorem placed_take_drop (n a : Nat) (l : List Byte) : placed a (l.take n) ++ placed (a + n) (l.drop n) = placed a l := by
  induction n generalizing a l with
  | zero => rfl
  | succ n ih =>
    cases l with
    | nil => rfl
    | cons b l =>
      have := ih (a + 1) l
      rw [Nat.add_right_comm] at this
      simpa [placed, Nat.add_assoc] using this

/-- With a piece for every 4 KiB that the bytes touch, the pieces hold all the bytes. -/
theorem placed_cut4k {k a : Nat} {l : List Byte} (h : l.length + a % 4096 ≤ 4096 * k) :
    ((cut4k k a l).map (fun p => placed p.1 p.2)).flatten = placed a l := by
  induction k generalizing a l with
  | zero =>
    have hnil : l = [] := List.length_eq_zero_iff.mp (by omega)
    subst hnil
    rfl
  | succ k ih =>
    by_cases hl : l = []
    · subst hl; rfl
    have hrest := ih (a := a + (4096 - a % 4096)) (l := l.drop (4096 - a % 4096)) (by rw [List.length_drop]; omega)
    rw [cut4k, if_neg (by simpa using hl), List.map_cons, List.flatten_cons, hrest]
    exact placed_take_drop _ _ _

/-! ## Class 2 writes on channel 7 -/

theorem Mach.Queues.trans {s m u : Mach} {n : Nat} {as bs : List Access} (h : s.Queues m n as) (h' : m.Queues u n bs) :
    s.Queues u n (as ++ bs) where
  acc := by rw [h'.acc, h.acc, List.append_assoc]
  outst := h'.outst.trans h.outst
  others k hk := (h'.others k hk).trans (h.others k hk)
  ctxs := h'.ctxs.trans h.ctxs
  out := h'.out.trans h.out

/-- Every access of `as` is a class 2 write on channel 7 on the account of `hook`. -/
def AreWrites (share : Nat) (hook : Hook) (as : List Access) : Prop :=
  ∀ a ∈ as, a.cls = 2 ∧ a.chan = 7 ∧ a.share = share ∧ a.write = true ∧ a.hook = hook

/-- Pieces that a station writes join its accesses, one write each. -/
theorem Mach.queue2_pieces (n share c : Nat) (hook : Hook) (l : List (Nat × List Byte)) (s : Mach) :
    ∃ as, s.Queues (overList (fun m p => m.queue2 n share c p.1 p.2 hook) s l) n as ∧ AreWrites share hook as ∧
      as.map (fun a => a.data) = l.map (fun p => placed p.1 p.2) := by
  induction l generalizing s with
  | nil => exact ⟨[], ⟨by rw [List.append_nil]; rfl, rfl, fun _ _ => rfl, rfl, rfl⟩, List.forall_mem_nil _, rfl⟩
  | cons p l ih =>
    obtain ⟨as, hqueues, hwrites, hdata⟩ := ih (s.queue2 n share c p.1 p.2 hook)
    refine ⟨_, (Mach.queues_one s n _).trans hqueues, ?_, congrArg _ hdata⟩
    intro a ha
    rcases List.mem_append.mp ha with hone | hrest
    · rw [List.mem_singleton.mp hone]
      exact ⟨rfl, rfl, rfl, rfl, rfl⟩
    · exact hwrites a hrest

theorem Mach.queue2_pieces_hs (n share c : Nat) (hook : Hook) (l : List (Nat × List Byte)) (s : Mach) :
    (overList (fun m p => m.queue2 n share c p.1 p.2 hook) s l).hs = s.hs :=
  overList_keeps Mach.hs (fun _ _ => Mach.queueAcc_hs ..) s l

/-! ## The work -/

/-- A context that CTX_SAVE may save: IDLE, or ARMED with no event of its next step arrived (R326). -/
def Mach.mayBeSaved (s : Mach) (c : Nat) : Prop :=
  (s.ctx c).state = .idle ∨ ((s.ctx c).state = .armed ∧ s.nextArrived c = false)

/-- The machine in which the image of a context has begun to go out. -/
def Mach.saveBegun (s : Mach) (d : DescRef) (a : Nat) (img : List Byte) : Mach :=
  overList (fun m p => m.queue2 0 1 (d.ring / 4) p.1 p.2 (.ctxSave (d.ring / 4)))
    (s.modCtx (d.ring / 4) (fun x => { x with saving := some (d, img.length) })) (cut4k (img.length / 4096 + 2) a img)

section
variable {s : Mach} {d : DescRef} {l : List W64}

theorem Mach.mayBeSaved_iff {c : Nat} :
    (!((s.ctx c).state == .idle || ((s.ctx c).state == .armed && !s.nextArrived c))) = true ↔ ¬ s.mayBeSaved c := by
  simp [Mach.mayBeSaved, imp_iff_not_or]

theorem Mach.ctxSave_of_busy (h : ¬ s.mayBeSaved (d.ring / 4)) : s.ctxSave d l = s.refuse d .ctxBusy 0 :=
  if_pos (Mach.mayBeSaved_iff.mpr h)

theorem Mach.ctxSave_of_unaligned (h : s.mayBeSaved (d.ring / 4)) (ha : dAddr l % 64 ≠ 0) :
    s.ctxSave d l = (s.logRing d.ring .violAddr 8 (dAddr l)).completeCtx d .violAddr 0 :=
  (if_neg fun hbusy => Mach.mayBeSaved_iff.mp hbusy h).trans (if_pos ha)

theorem Mach.ctxSave_of_aligned (h : s.mayBeSaved (d.ring / 4)) (ha : dAddr l % 64 = 0) :
    s.ctxSave d l = s.saveBegun d (dAddr l) (s.semImage (d.ring / 4)) :=
  (if_neg fun hbusy => Mach.mayBeSaved_iff.mp hbusy h).trans (if_neg (not_not_intro ha))

/-- The image goes out whole. -/
theorem Mach.saveBegun_spec (s : Mach) (d : DescRef) (a : Nat) (img : List Byte) : ∃ as,
    (s.modCtx (d.ring / 4) (fun x => { x with saving := some (d, img.length) })).Queues (s.saveBegun d a img) 0 as ∧
      AreWrites 1 (.ctxSave (d.ring / 4)) as ∧ (as.map (fun a => a.data)).flatten = placed a img := by
  obtain ⟨as, hqueues, hwrites, hdata⟩ := Mach.queue2_pieces 0 1 (d.ring / 4) (.ctxSave (d.ring / 4))
    (cut4k (img.length / 4096 + 2) a img) (s.modCtx (d.ring / 4) (fun x => { x with saving := some (d, img.length) }))
  exact ⟨as, hqueues, hwrites, hdata ▸ placed_cut4k (by omega)⟩

theorem Mach.saveBegun_hs (s : Mach) (d : DescRef) (a : Nat) (img : List Byte) : (s.saveBegun d a img).hs = s.hs :=
  Mach.queue2_pieces_hs ..

end

section
variable {s : State} {r : Nat} {d : Desc} (h : DescReady s r d) (hop : dOp d.line = 0x0B) (hfree : (s.m.ctx (r / 4)).saving = none)
include h hop hfree

theorem DescReady.exec_ctxSave : exec (.ctxSave r) s =
    .next (commit s (((s.m.started (d.refIn r)).ctxSave (d.refIn r) d.line).settle r 16)) := by
  have hone : exec (.ctxSave r) s = act (.ctxSave r) s (fun _ m => m.startAwake r opCtxSave anyDesc Mach.ctxSave) :=
    act_congr (f := fun _ m => if (m.ctx (r / 4)).saving.isSome then m else m.startAwake r opCtxSave anyDesc Mach.ctxSave)
      (if_neg (by simp [hfree]))
  exact hone.trans (h.act_awake rfl hop (fun _ => Mach.ctxSave))

theorem DescReady.save_busy (hbusy : ¬ s.m.mayBeSaved (r / 4)) :
    ∃ t, exec (.ctxSave r) s = .next t ∧ Ends s t (d.refIn r) .ctxBusy 0 ∧ SyncKept s t := by
  have hnext := h.exec_ctxSave hop hfree
  rw [Mach.ctxSave_of_busy (s := s.m.started (d.refIn r)) (d := d.refIn r) hbusy] at hnext
  exact h.next_logged hnext

theorem DescReady.save_unaligned (hmay : s.m.mayBeSaved (r / 4)) (ha : dAddr d.line % 64 ≠ 0) :
    ∃ t, exec (.ctxSave r) s = .next t ∧ Ends s t (d.refIn r) .violAddr 0 ∧ SyncKept s t := by
  have hnext := h.exec_ctxSave hop hfree
  rw [Mach.ctxSave_of_unaligned (s := s.m.started (d.refIn r)) (d := d.refIn r) hmay ha] at hnext
  exact h.next_logged hnext

theorem DescReady.save_starts (hmay : s.m.mayBeSaved (r / 4)) (ha : dAddr d.line % 64 = 0) : ∃ t as,
    exec (.ctxSave r) s = .next t ∧ Starts s t (d.refIn r) ∧
      t.m.ctx (r / 4) = { s.m.ctx (r / 4) with saving := some (d.refIn r, (s.m.semImage (r / 4)).length) } ∧
      (t.m.st 0).acc = (s.m.st 0).acc ++ as ∧ AreWrites 1 (.ctxSave (r / 4)) as ∧
      (as.map (fun a => a.data)).flatten = placed (dAddr d.line) (s.m.semImage (r / 4)) := by
  have hnext := h.exec_ctxSave hop hfree
  rw [Mach.ctxSave_of_aligned (s := s.m.started (d.refIn r)) (d := d.refIn r) hmay ha, Mach.started_semImage] at hnext
  obtain ⟨as, hqueues, hwrites, hdata⟩ := (s.m.started (d.refIn r)).saveBegun_spec (d.refIn r) (dAddr d.line)
    (s.m.semImage (r / 4))
  have hhs := (s.m.started (d.refIn r)).saveBegun_hs (d.refIn r) (dAddr d.line) (s.m.semImage (r / 4))
  obtain ⟨hnext, hstarts⟩ := h.next_starts hnext (.of_hs hhs)
  refine ⟨_, as, hnext, hstarts, ?_, ?_, hwrites, hdata⟩
  · rw [commit_ctx, Mach.ctx_of_ctxs hqueues.ctxs, Mach.modCtx_ctx, Mach.started_ctx]
  · rw [commit_st, hqueues.acc, Mach.modCtx_st, Mach.started_st]

end

end Sys2Proof.Machine
end

section
/-!
PROOFS. CTX_RESTORE (R328): every semaphore of the context and every cell of its stage cores takes its value in the image, and
no other does.
-/
namespace Sys2Proof.Machine

/-! ## Repeating over places that do not meet -/

theorem overList_preserves_of_mem {α : Type} {P : Mach → Prop} {f : Mach → α → Mach} {l : List α} {s : Mach}
    (h : ∀ m, ∀ a ∈ l, P m → P (f m a)) (hs : P s) : P (overList f s l) := by
  induction l generalizing s with
  | nil => exact hs
  | cons a l ih => exact ih (fun m b hb => h m b (List.mem_cons_of_mem a hb)) (h s a List.mem_cons_self hs)

/-- What a place gets in its own turn it has after all of them, where the later turns keep it. -/
theorem overList_establishes_of_pairwise {α : Type} {R : α → α → Prop} {P : Mach → α → Prop} {f : Mach → α → Mach}
    (hself : ∀ m a, P (f m a) a) (hkeep : ∀ m a b, R b a → P m b → P (f m a) b) {l : List α} (hl : l.Pairwise R) {b : α}
    (hb : b ∈ l) (s : Mach) : P (overList f s l) b := by
  induction l generalizing s with
  | nil => cases hb
  | cons a l ih =>
    obtain ⟨hhead, htail⟩ := List.pairwise_cons.mp hl
    rcases List.mem_cons.mp hb with rfl | hb
    · exact overList_preserves_of_mem (P := fun m => P m b) (s := f s b) (l := l)
          (fun m c hc => hkeep m c b (hhead c hc)) (hself s _)
    · exact ih htail hb (f s a)

/-! ## The image's semaphores -/

/-- Semaphores of a context at one station take the values of an image. -/
def Mach.restoreSemsAt (s : Mach) (c : Nat) (img : List Byte) (n : Nat) : Mach :=
  overList (fun m i => m.setSem n (2048 * c + i) (rdNat img (64 + 4096 * n + 2 * i) 2)) s (List.range 2048)

def Mach.restoreSems (s : Mach) (c : Nat) (img : List Byte) : Mach :=
  overList (fun m n => m.restoreSemsAt c img n) s (List.range 6)

section
variable (s : Mach) (img : List Byte) {c n i : Nat}

theorem Mach.restoreSemsAt_ne {n' i' : Nat} (h : ∀ j, j < 2048 → 8192 * n' + i' ≠ 8192 * n + (2048 * c + j)) :
    (s.restoreSemsAt c img n).sem n' i' = s.sem n' i' :=
  overList_preserves_of_mem (P := fun m => m.sem n' i' = s.sem n' i')
    (fun m j hj hm => (Mach.setSem_sem_ne m _ (h j (List.mem_range.mp hj))).trans hm) rfl

theorem Mach.restoreSemsAt_sem (hi : i < 2048) :
    (s.restoreSemsAt c img n).sem n (2048 * c + i) = rdNat img (64 + 4096 * n + 2 * i) 2 :=
  overList_establishes_of_pairwise (R := fun i j => i ≠ j)
    (P := fun m i => m.sem n (2048 * c + i) = rdNat img (64 + 4096 * n + 2 * i) 2) (fun _ _ => Mach.setSem_sem ..)
    (fun m j i hij hm => (Mach.setSem_sem_ne m _ (by omega)).trans hm) List.nodup_range (List.mem_range.mpr hi) s

theorem Mach.restoreSems_sem (hn : n < 6) (hi : i < 2048) :
    (s.restoreSems c img).sem n (2048 * c + i) = rdNat img (64 + 4096 * n + 2 * i) 2 :=
  overList_establishes_of_pairwise (R := fun n k => n ≠ k)
    (P := fun m n => m.sem n (2048 * c + i) = rdNat img (64 + 4096 * n + 2 * i) 2) (fun m _ => m.restoreSemsAt_sem img hi)
    (fun m k n hnk hm => (m.restoreSemsAt_ne img fun j hj => by omega).trans hm) List.nodup_range (List.mem_range.mpr hn) s

theorem Mach.restoreSems_other (hc : c < 4) (hi : i < 8192) (hother : i / 2048 ≠ c) :
    (s.restoreSems c img).sem n i = s.sem n i :=
  overList_preserves (P := fun m => m.sem n i = s.sem n i)
    (fun m k hm => (m.restoreSemsAt_ne img fun j hj => by omega).trans hm) _ rfl

theorem Mach.restoreSems_keeps {β : Type} (g : Mach → β) (hg : ∀ m k v w, g (Mach.setSem m k v w) = g m) :
    g (s.restoreSems c img) = g s :=
  overList_keeps g (fun m k => overList_keeps g (fun u _ => hg u k _ _) m _) s _

end

/-! ## The image's cells -/

/-- Cell `i` of stage core number `j` in an image (R327). -/
def imageCell (img : List Byte) (j i : Nat) : Cell :=
  let v := rdNat img (24640 + 132 * j + 4 + 4 * i) 4
  { err := bit v 24, status := natBits v 23 16, count := natBits v 15 0 }

/-- The cells of one core take the values of stage core number `j` in an image. -/
def Mach.restoreCellsAt (s : Mach) (img : List Byte) (p : Nat × Nat) : Mach :=
  overList (fun m i => m.setCell p.2 i (imageCell img p.1 i)) s (List.range 32)

def Mach.restoreCells (s : Mach) (img : List Byte) (cores : List Nat) : Mach :=
  overList (fun m p => m.restoreCellsAt img p) s ((List.range cores.length).zip cores)

section
variable (s : Mach) (img : List Byte) {cores : List Nat}

theorem Mach.restoreCellsAt_ne {p : Nat × Nat} {k i : Nat} (hi : i < 32) (h : k ≠ p.2) :
    (s.restoreCellsAt img p).cell k i = s.cell k i :=
  overList_preserves_of_mem (P := fun m => m.cell k i = s.cell k i)
    (fun m j hj hm => (Mach.setCell_cell_ne m _ (by have := List.mem_range.mp hj; omega)).trans hm) rfl

theorem Mach.restoreCellsAt_cell (p : Nat × Nat) {i : Nat} (hi : i < 32) :
    (s.restoreCellsAt img p).cell p.2 i = imageCell img p.1 i :=
  overList_establishes_of_pairwise (R := fun i j => i ≠ j) (P := fun m i => m.cell p.2 i = imageCell img p.1 i)
    (fun _ _ => Mach.setCell_cell ..) (fun m j i hij hm => (Mach.setCell_cell_ne m _ (by omega)).trans hm)
    List.nodup_range (List.mem_range.mpr hi) s

/-- Stage cores that are all different have places of their own in the image. -/
theorem pairwise_zip_range (h : cores.Nodup) :
    ((List.range cores.length).zip cores).Pairwise (fun p q => p.2 ≠ q.2) := by
  rw [← List.pairwise_map (f := Prod.snd) (R := fun a b => a ≠ b), List.map_snd_zip (by simp)]
  exact h

theorem mem_zip_range {j k : Nat} (h : cores[j]? = some k) : (j, k) ∈ (List.range cores.length).zip cores := by
  obtain ⟨hj, -⟩ := List.getElem?_eq_some_iff.mp h
  exact List.mem_of_getElem? (i := j) (List.getElem?_zip_eq_some.mpr ⟨by simp [hj], h⟩)

theorem Mach.restoreCells_cell (hd : cores.Nodup) {j k i : Nat} (hj : cores[j]? = some k) (hi : i < 32) :
    (s.restoreCells img cores).cell k i = imageCell img j i :=
  overList_establishes_of_pairwise (R := fun p q : Nat × Nat => p.2 ≠ q.2)
    (P := fun m p => m.cell p.2 i = imageCell img p.1 i) (b := (j, k))
    (fun m p => m.restoreCellsAt_cell img p hi) (fun m _ _ hne hm => (m.restoreCellsAt_ne img hi hne).trans hm)
    (pairwise_zip_range hd) (mem_zip_range hj) s

theorem Mach.restoreCells_other {k i : Nat} (hi : i < 32) (hk : k ∉ cores) : (s.restoreCells img cores).cell k i = s.cell k i :=
  overList_preserves_of_mem (P := fun m => m.cell k i = s.cell k i)
    (fun m p hp hm => (m.restoreCellsAt_ne img hi fun hkp => hk (by rw [hkp]; exact (List.of_mem_zip hp).2)).trans hm) rfl

theorem Mach.restoreCells_keeps {β : Type} (g : Mach → β) (hg : ∀ m k j x, g (Mach.setCell m k j x) = g m) (cores : List Nat) :
    g (s.restoreCells img cores) = g s :=
  overList_keeps g (fun m _ => overList_keeps g (fun u _ => hg u _ _ _) m _) s _

end

/-! ## The work -/

/-- What CTX_RESTORE reads of its image. -/
def Mach.imageRead (s : Mach) (mem : Mems) (c : Nat) (l : List W64) : List Byte :=
  fabReads mem (dAddr l) (24640 + 132 * (s.stageCores c).length)

/-- The machine whose semaphores and cells are those of an image. -/
def Mach.restored (s : Mach) (c : Nat) (img : List Byte) : Mach := (s.restoreSems c img).restoreCells img (s.stageCores c)

/-- From `s` to `m` context `c` has its semaphores, and the cores their cells, from an image, and the others, the stations and
the contexts are as they were. -/
structure Mach.Restores (s m : Mach) (c : Nat) (img : List Byte) (cores : List Nat) : Prop where
  sem : ∀ n i, n < 6 → i < 2048 → m.sem n (2048 * c + i) = rdNat img (64 + 4096 * n + 2 * i) 2
  semOther : ∀ n i, i < 8192 → i / 2048 ≠ c → m.sem n i = s.sem n i
  cell : cores.Nodup → ∀ j k i, cores[j]? = some k → i < 32 → m.cell k i = imageCell img j i
  cellOther : ∀ k i, i < 32 → k ∉ cores → m.cell k i = s.cell k i
  sts : m.sts = s.sts
  ctxs : m.ctxs = s.ctxs

section
variable (s : Mach) (c : Nat) (img : List Byte)

theorem Mach.restored_keeps {β : Type} (g : Mach → β) (hsem : ∀ m k v w, g (Mach.setSem m k v w) = g m)
    (hcell : ∀ m k j x, g (Mach.setCell m k j x) = g m) : g (s.restored c img) = g s :=
  (Mach.restoreCells_keeps _ img g hcell _).trans (Mach.restoreSems_keeps s img g hsem)

theorem Mach.restored_restores (hc : c < 4) : s.Restores (s.restored c img) c img (s.stageCores c) := by
  have hsems : (s.restored c img).sems = (s.restoreSems c img).sems :=
    Mach.restoreCells_keeps _ img Mach.sems (fun _ _ _ _ => Mach.setCell_sems ..) _
  have hcells : (s.restoreSems c img).cells = s.cells :=
    Mach.restoreSems_keeps s img Mach.cells (fun _ _ _ _ => Mach.setSem_cells ..)
  have hsem (n i : Nat) : (s.restored c img).sem n i = (s.restoreSems c img).sem n i := by simp only [Mach.sem, hsems]
  have hcell (k i : Nat) : (s.restoreSems c img).cell k i = s.cell k i := by simp only [Mach.cell, hcells]
  exact {
    sem := fun n i hn hi => (hsem n _).trans (s.restoreSems_sem img hn hi)
    semOther := fun n i hi hother => (hsem n i).trans (s.restoreSems_other img hc hi hother)
    cell := fun hd j k i hj hi => Mach.restoreCells_cell _ img hd hj hi
    cellOther := fun k i hi hk => (Mach.restoreCells_other _ img hi hk).trans (hcell k i)
    sts := s.restored_keeps c img Mach.sts (fun _ _ _ _ => Mach.setSem_sts ..) (fun _ _ _ _ => Mach.setCell_sts ..)
    ctxs := s.restored_keeps c img Mach.ctxs (fun _ _ _ _ => Mach.setSem_ctxs ..) (fun _ _ _ _ => Mach.setCell_ctxs ..) }

end

/-- What a started descriptor has restored stands once its work is over. -/
theorem Mach.Restores.committed {s : State} {m : Mach} {d e : DescRef} {c : Nat} {img : List Byte} {cores : List Nat}
    (h : (s.m.started d).Restores m c img cores) {rank : Nat} {st : Status} {a b : Nat} :
    s.m.Restores (commit s (m.complete rank e st a b)).m c img cores :=
  ⟨h.sem, h.semOther, h.cell, h.cellOther, h.sts, h.ctxs⟩

theorem Mach.started_imageRead (s : Mach) (d : DescRef) (mem : Mems) (c : Nat) (l : List W64) :
    (s.started d).imageRead mem c l = s.imageRead mem c l := rfl

section
variable {s : Mach} {mem : Mems} {d : DescRef} {l : List W64} {c : Nat} (hc : d.ring / 4 = c)
include hc

theorem Mach.ctxRestore_of_busy (h : (s.ctx c).state ≠ .idle ∨ (s.ctx c).act.plan = none) :
    s.ctxRestore mem d l = s.refuse d .ctxBusy 0 := by
  subst hc
  exact if_pos (by simpa using h)

variable (hidle : (s.ctx c).state = .idle) (hplan : (s.ctx c).act.plan ≠ none) (ha : dAddr l % 64 = 0)
  {cores : List Nat} {img : List Byte} (hcores : s.stageCores c = cores) (himg : s.imageRead mem c l = img)
include hidle hplan ha hcores himg

/-- An aligned image is judged, and restored or refused. -/
theorem Mach.ctxRestore_of_image : s.ctxRestore mem d l =
    if imageBad c img cores then s.refuse d .ctxImage 0 else (s.restored c img).completeCtx d .ok 0 := by
  subst hc hcores himg
  exact (if_neg (by simp [hidle, hplan])).trans (if_neg (not_not_intro ha))

end

section
variable {s : State} {r : Nat} {d : Desc} (h : DescReady s r d) (hop : dOp d.line = 0x0C)
include h hop

theorem DescReady.exec_ctxRestore : exec (.ctxRestore r) s =
    .next (commit s (((s.m.started (d.refIn r)).ctxRestore s.mem (d.refIn r) d.line).settle r 16)) :=
  h.act_awake (c := .ctxRestore r) rfl (op := opCtxRestore) hop (fun mem m d l => m.ctxRestore mem d l)

theorem DescReady.restore_busy (hbusy : (s.m.ctx (r / 4)).state ≠ .idle ∨ (s.m.ctx (r / 4)).act.plan = none) :
    ∃ t, exec (.ctxRestore r) s = .next t ∧ Ends s t (d.refIn r) .ctxBusy 0 ∧ SyncKept s t := by
  have hnext := h.exec_ctxRestore hop
  rw [Mach.ctxRestore_of_busy (s := s.m.started (d.refIn r)) (d := d.refIn r) (c := r / 4) rfl hbusy] at hnext
  exact h.next_logged hnext

variable (hidle : (s.m.ctx (r / 4)).state = .idle) (hplan : (s.m.ctx (r / 4)).act.plan ≠ none) (ha : dAddr d.line % 64 = 0)
include hidle hplan ha

theorem DescReady.exec_ctxRestore_of_image : exec (.ctxRestore r) s = .next (commit s
    ((if imageBad (r / 4) (s.m.imageRead s.mem (r / 4) d.line) (s.m.stageCores (r / 4)) then
      (s.m.started (d.refIn r)).refuse (d.refIn r) .ctxImage 0
      else ((s.m.started (d.refIn r)).restored (r / 4) (s.m.imageRead s.mem (r / 4) d.line)).completeCtx (d.refIn r) .ok 0).settle
        r 16)) := by
  rw [h.exec_ctxRestore hop, Mach.ctxRestore_of_image (s := s.m.started (d.refIn r)) (d := d.refIn r) (c := r / 4) rfl hidle hplan ha
    (Mach.started_stageCores ..) (Mach.started_imageRead ..)]

theorem DescReady.restore_bad (hbad : imageBad (r / 4) (s.m.imageRead s.mem (r / 4) d.line) (s.m.stageCores (r / 4)) = true) :
    ∃ t, exec (.ctxRestore r) s = .next t ∧ Ends s t (d.refIn r) .ctxImage 0 ∧ SyncKept s t := by
  have hnext := h.exec_ctxRestore_of_image hop hidle hplan ha
  rw [if_pos hbad] at hnext
  exact h.next_logged hnext

theorem DescReady.restore_done (hgood : imageBad (r / 4) (s.m.imageRead s.mem (r / 4) d.line) (s.m.stageCores (r / 4)) = false) :
    ∃ t, exec (.ctxRestore r) s = .next t ∧ Ends s t (d.refIn r) .ok 0 ∧
      s.m.Restores t.m (r / 4) (s.m.imageRead s.mem (r / 4) d.line) (s.m.stageCores (r / 4)) := by
  have hnext := h.exec_ctxRestore_of_image hop hidle hplan ha
  rw [if_neg (by simp [hgood])] at hnext
  obtain ⟨hnext, hends⟩ := h.next_ends hnext (.of_hs (Mach.restored_keeps _ _ _ Mach.hs (fun _ _ _ _ => Mach.setSem_hs ..)
    (fun _ _ _ _ => Mach.setCell_hs ..)))
  have hc : r / 4 < 4 := Nat.div_lt_of_lt_mul h.ring
  have hrestores := (s.m.started (d.refIn r)).restored_restores (r / 4) (s.m.imageRead s.mem (r / 4) d.line) hc
  exact ⟨_, hnext, hends, hrestores.committed⟩

end

end Sys2Proof.Machine
end

section
/-!
PROOFS. The size of a capture's image (R401, R407): what its sections hold differs with the state shown and with the capture that
asks for it, and their lengths do not.
-/
namespace Sys2Proof.Machine

theorem leBytes_length (n v : Nat) : (leBytes n v).length = n := by
  induction n generalizing v with
  | zero => rfl
  | succ n ih => rw [leBytes, List.length_cons, ih]

theorem length_flatMap_const {α : Type} {f : α → List Byte} {k : Nat} (h : ∀ a, (f a).length = k) (l : List α) :
    (l.flatMap f).length = l.length * k := by
  simp only [List.length_flatMap, h, List.map_const', List.sum_replicate, smul_eq_mul]

theorem Mach.contextSec_length (s : Mach) (c state : Nat) : (s.contextSec c state).length = 256 := by
  simp only [Mach.contextSec, crcField, trapBytes, List.length_append, leBytes_length,
    length_flatMap_const (fun _ => leBytes_length 1 _), List.length_range]

theorem Mach.seedsSec_length (s : Mach) (c : Nat) : (s.seedsSec c).length = 1024 := by
  refine (length_flatMap_const (k := 16) (fun g => ?_) _).trans (by rw [List.length_range])
  split <;> simp only [List.length_append, leBytes_length]

theorem Mach.configSec_length (s : Mach) : s.configSec.length = 65536 :=
  (length_flatMap_const (fun _ => leBytes_length 8 _) _).trans (by rw [List.length_range])

/-- What the lengths of the sections rest on is the same in `s` and `m`. -/
structure Mach.SameSections (s m : Mach) (c : Nat) : Prop where
  ctx : ∃ k, m.ctx c = { s.ctx c with capture := k }
  sems : m.sems = s.sems
  cells : m.cells = s.cells

section
variable {s m : Mach} {c : Nat} (h : s.SameSections m c)
include h

theorem Mach.SameSections.plan : m.plan c = s.plan c := by
  obtain ⟨⟨k, hk⟩, -, -⟩ := h
  rw [Mach.plan, hk, Mach.plan]

theorem Mach.SameSections.semImage : m.semImage c = s.semImage c := by
  have hplan := h.plan
  obtain ⟨⟨k, hk⟩, hsems, hcells⟩ := h
  simp only [Mach.semImage, Mach.semImage0, Mach.stageCores, hplan, Mach.sem, Mach.cell, hk, hsems, hcells]

theorem Mach.SameSections.amaxSec_length (mem : Mems) : (m.amaxSec mem c).length = (s.amaxSec mem c).length := by
  have hplan := h.plan
  obtain ⟨⟨k, hk⟩, -, -⟩ := h
  simp only [Mach.amaxSec, hplan, hk]
  split
  · rfl
  · split <;> simp only [fabReads_length, List.length_nil]

theorem Mach.SameSections.ledgerSec (mem : Mems) : m.ledgerSec mem c = s.ledgerSec mem c := by
  have hplan := h.plan
  obtain ⟨⟨k, hk⟩, -, -⟩ := h
  simp only [Mach.ledgerSec, Mach.recAddr, Mach.stageOf, hplan, Mach.stage, hk]

theorem Mach.SameSections.replaySec_length (mem : Mems) : (m.replaySec mem c).length = (s.replaySec mem c).length := by
  obtain ⟨⟨k, hk⟩, -, -⟩ := h
  simp only [Mach.replaySec, hk]
  split <;> simp only [fabReads_length, List.length_nil]

/-- The image of a capture has its size whatever state it shows. -/
theorem Mach.SameSections.ckptTotal (mem : Mems) (a b : Nat) (snapshot rpl : Bool) :
    ckptTotal (m.ckptSections mem c a snapshot rpl) = ckptTotal (s.ckptSections mem c b snapshot rpl) := by
  have hlengths : (m.ckptSections mem c a snapshot rpl).map List.length = (s.ckptSections mem c b snapshot rpl).map List.length := by
    have himage := h.semImage
    have hledger := h.ledgerSec mem
    have hamax := h.amaxSec_length mem
    have hreplay := h.replaySec_length mem
    obtain ⟨⟨k, hk⟩, -, -⟩ := h
    simp only [Mach.ckptSections, List.map_cons, List.map_nil, Mach.contextSec_length, Mach.seedsSec_length,
      Mach.configSec_length, himage, hledger, hamax, hk, apply_ite List.length, hreplay]
  have hround (l : List (List Byte)) : l.map (fun x => roundUp x.length 4096) = (l.map List.length).map (roundUp · 4096) := by
    rw [List.map_map]
    rfl
  simp only [Sys2Proof.Machine.ckptTotal, hround, hlengths]

end

theorem Mach.started_sameSections (s : Mach) (d : DescRef) (c : Nat) : s.SameSections (s.started d) c :=
  ⟨⟨(s.ctx c).capture, rfl⟩, rfl, rfl⟩

/-- The machine in which a capture of a context is asked for. -/
def Mach.captureAsked (s : Mach) (c : Nat) (k : Capture) : Mach := s.modCtx c (fun x => { x with capture := some k })

theorem Mach.captureAsked_hs (s : Mach) (c : Nat) (k : Capture) : (s.captureAsked c k).hs = s.hs := rfl
theorem Mach.captureAsked_sts (s : Mach) (c : Nat) (k : Capture) : (s.captureAsked c k).sts = s.sts := rfl
theorem Mach.captureAsked_out (s : Mach) (c : Nat) (k : Capture) : (s.captureAsked c k).out = s.out := rfl
theorem Mach.captureAsked_ctx (s : Mach) (c : Nat) (k : Capture) : (s.captureAsked c k).ctx c = { s.ctx c with capture := some k } :=
  Mach.modCtx_ctx ..

theorem Mach.captureAsked_sameSections (s : Mach) (c : Nat) (k : Capture) : s.SameSections (s.captureAsked c k) c :=
  ⟨⟨some k, Mach.modCtx_ctx ..⟩, rfl, rfl⟩

end Sys2Proof.Machine
end

section
/-!
PROOFS. What CKPT_CAPTURE judges (R401, R405), and how a capture begins (R403).
-/
namespace Sys2Proof.Machine

/-! ## Judging -/

theorem Mach.started_ckptRefusal (s : Mach) (d : DescRef) (mem : Mems) (c : Nat) (k : Capture) :
    (s.started d).ckptRefusal mem c k = s.ckptRefusal mem c k := by
  have hsize := (s.started_sameSections d c).ckptTotal mem 0 0 k.snapshot k.rpl
  simp only [Mach.ckptRefusal, Mach.started_ctx, hsize]
  rfl

section
variable {s : Mach} {mem : Mems} {c : Nat} {k : Capture}

theorem Mach.ckptRefusal_of_noPlan (h : (s.ctx c).act.plan = none) : s.ckptRefusal mem c k = some .ckptState :=
  if_pos (by simp [h])

section
variable (hplan : (s.ctx c).act.plan ≠ none)
include hplan

theorem Mach.ckptRefusal_of_busy (h : (s.ctx c).capture ≠ none) : s.ckptRefusal mem c k = some .ckptBusy :=
  (if_neg (by simp [hplan])).trans (if_pos (Option.isSome_iff_ne_none.mpr h))

theorem Mach.ckptRefusal_of_past (hfree : (s.ctx c).capture = none) (hsnap : k.snapshot = false)
    (hstep : k.stepAt ≠ 0xFFFFFFFFFFFFFFFF) (h : k.stepAt.toNat < (s.ctx c).step.toNat) :
    s.ckptRefusal mem c k = some .ckptStep := by
  have hasked : (k.stepAt != 0xFFFFFFFFFFFFFFFF) = true := bne_iff_ne.mpr hstep
  exact (if_neg (by simp [hplan])).trans ((if_neg (by simp [hfree])).trans (if_pos (by simp only [hsnap, hasked, h]; rfl)))

end

/-- A capture that is not refused can be taken: its target is at hand and has room. -/
theorem Mach.takable_of_ckptRefusal (h : s.ckptRefusal mem c k = none) : (k.host && s.hs.att == .detached) = false ∧
    ckptTotal (s.ckptSections mem c 0 k.snapshot k.rpl) ≤ k.size := by
  unfold Mach.ckptRefusal at h
  dsimp only at h
  split at h
  · cases h
  split at h
  · cases h
  split at h
  · cases h
  split at h
  · cases h
  split at h
  · cases h
  next hhost =>
  split at h
  · cases h
  next hsize =>
  refine ⟨?_, Nat.not_lt.mp hsize⟩
  cases hk : k.host with
  | false => rfl
  | true =>
    have hatt : s.hs.att = .attached := by simpa [hk] using hhost
    rw [hatt]
    rfl

end

/-! ## The work -/

/-- The capture that a descriptor asks for. -/
def captureOf (d : DescRef) (l : List W64) : Capture where
  desc := d
  snapshot := kWhen l == 1
  host := kHost l
  rpl := kRpl l
  target := dAddr l
  size := dBytes l 16 8
  stepAt := BitVec.ofNat 64 (dBytes l 32 8)

section
variable {s : Mach} {mem : Mems} {d : DescRef} {l : List W64} {c : Nat} (hc : d.ring / 4 = c)
include hc

theorem Mach.ckptCapture_of_refused {st : Status} (h : s.ckptRefusal mem c (captureOf d l) = some st) (hst : st ≠ .violAddr) :
    s.ckptCapture mem d l = s.refuse d st 0 := by
  subst hc
  rw [captureOf] at h
  simp only [Mach.ckptCapture, h]

/-- A capture that is not refused is taken at once where it is a snapshot, or its step is due and its context quiet. -/
theorem Mach.ckptCapture_of_sound (h : s.ckptRefusal mem c (captureOf d l) = none) : s.ckptCapture mem d l =
    if (captureOf d l).snapshot || (((s.ctx c).state == .idle || ((s.ctx c).state == .armed && !s.nextArrived c)) &&
        ((captureOf d l).stepAt == 0xFFFFFFFFFFFFFFFF || (captureOf d l).stepAt == (s.ctx c).step)) then
      (s.captureAsked c (captureOf d l)).beginCkpt mem c (s.ctx c).state.code false
    else s.captureAsked c (captureOf d l) := by
  subst hc
  rw [captureOf] at h
  simp only [Mach.ckptCapture, h]
  rfl

theorem Mach.ckptCapture_of_later (h : s.ckptRefusal mem c (captureOf d l) = none) (hwhen : kWhen l = 0)
    (hones : (captureOf d l).stepAt ≠ 0xFFFFFFFFFFFFFFFF) (hstep : (captureOf d l).stepAt ≠ (s.ctx c).step) :
    s.ckptCapture mem d l = s.captureAsked c (captureOf d l) := by
  have hboundary : (captureOf d l).snapshot = false := by simp [captureOf, hwhen]
  rw [Mach.ckptCapture_of_sound hc h, hboundary, beq_eq_false_iff_ne.mpr hones, beq_eq_false_iff_ne.mpr hstep]
  simp

theorem Mach.ckptCapture_of_snapshot (h : s.ckptRefusal mem c (captureOf d l) = none) (hwhen : kWhen l = 1) :
    s.ckptCapture mem d l = (s.captureAsked c (captureOf d l)).beginCkpt mem c (s.ctx c).state.code false := by
  have hsnapshot : (captureOf d l).snapshot = true := by simp [captureOf, hwhen]
  rw [Mach.ckptCapture_of_sound hc h, hsnapshot]
  rfl

end

end Sys2Proof.Machine
end

section
/-!
PROOFS. A capture that is taken has accesses of S0 out: the writes of its first sections, or the reads they wait for (R151,
R403).
-/
namespace Sys2Proof.Machine

/-! ## Accesses of a capture -/

/-- Of a capture's hooks, those that hold up what it does next. -/
def Hook.holdsCkpt (c : Nat) (h : Hook) : Bool := h == .ckptWrite c || h == .ckptRead c

/-- Some access of S0 that waits holds up the capture of a context. -/
def Mach.ckptWaits (s : Mach) (c : Nat) : Prop := ∃ a ∈ (s.st 0).acc, a.hook.holdsCkpt c = true

theorem Mach.ckptBusy_of_waits {s : Mach} {c : Nat} (h : s.ckptWaits c) : s.ckptBusy c = true := by
  obtain ⟨a, ha, hook⟩ := h
  refine List.any_eq_true.mpr ⟨0, by simp, List.any_eq_true.mpr ⟨a, List.mem_append_left _ ha, hook⟩⟩

theorem Mach.ckptWaits_queueAcc_of_hook (s : Mach) {c : Nat} {a : Access} (h : a.hook.holdsCkpt c = true) :
    (s.queueAcc 0 a).ckptWaits c :=
  ⟨{ a with id := (s.st 0).nextId }, by rw [Mach.queueAcc_acc]; simp, h⟩

theorem Mach.ckptWaits.queueAcc {s : Mach} {c : Nat} (h : s.ckptWaits c) (a : Access) : (s.queueAcc 0 a).ckptWaits c := by
  obtain ⟨b, hb, hook⟩ := h
  exact ⟨b, by rw [Mach.queueAcc_acc]; exact List.mem_append_left _ hb, hook⟩

/-- Accesses that all hold up the capture of a context join S0. -/
theorem Mach.ckptWaits_of_queued {α : Type} {c : Nat} {f : α → Access} (hf : ∀ a, (f a).hook.holdsCkpt c = true)
    {l : List α} (hl : l ≠ []) (s : Mach) : (overList (fun m a => m.queueAcc 0 (f a)) s l).ckptWaits c := by
  obtain ⟨a, ha⟩ := List.exists_mem_of_ne_nil l hl
  exact overList_establishes (P := fun m _ => m.ckptWaits c) (fun m b => m.ckptWaits_queueAcc_of_hook (hf b))
    (fun _ b _ hm => hm.queueAcc (f b)) ha

theorem cut4k_ne_nil {k a : Nat} {l : List Byte} (hl : l ≠ []) : cut4k (k + 1) a l ≠ [] := by
  rw [cut4k, if_neg (by simpa using hl)]
  exact List.cons_ne_nil _ _

section
variable (s : Mach) (c : Nat) (host : Bool)

theorem Mach.ckptWrite_waits (a : Nat) {l : List Byte} (hl : l ≠ []) : (s.ckptWrite c host a l).ckptWaits c :=
  Mach.ckptWaits_of_queued (fun _ => by simp [Hook.holdsCkpt]) (cut4k_ne_nil hl) s

theorem Mach.ckptWaits.ckptWrite {s : Mach} {c : Nat} (h : s.ckptWaits c) (a : Nat) (l : List Byte) :
    (s.ckptWrite c host a l).ckptWaits c :=
  overList_preserves (P := fun m => m.ckptWaits c) (fun _ _ hm => hm.queueAcc _) _ h

theorem Mach.ckptPieces_waits {l : List (Nat × List Byte)} {p : Nat × List Byte} (hp : p ∈ l) (hbytes : p.2 ≠ []) :
    (s.ckptPieces c host l).ckptWaits c :=
  overList_establishes (P := fun m q => q.2 ≠ [] → m.ckptWaits c)
    (f := fun m (q : Nat × List Byte) => m.ckptWrite c host q.1 q.2) (fun m q hq => m.ckptWrite_waits c host q.1 hq)
    (fun _ q b (hm : b.2 ≠ [] → _) hbytes => (hm hbytes).ckptWrite host q.1 q.2) hp hbytes

theorem Mach.ckptReads_waits (a : Nat) {n : Nat} (hn : n ≠ 0) : (s.ckptReads c [(a, n)]).ckptWaits c :=
  Mach.ckptWaits_of_queued (fun _ => by simp [Hook.holdsCkpt]) (by simp [ceilDiv]; omega) s

/-- What a capture puts out changes stations alone. -/
theorem Mach.ckptWrite_keeps {β : Type} (g : Mach → β) (hg : ∀ m a, g (Mach.queueAcc m 0 a) = g m) (a : Nat) (l : List Byte) :
    g (s.ckptWrite c host a l) = g s := overList_keeps g (fun m _ => hg m _) s _

theorem Mach.ckptPieces_keeps {β : Type} (g : Mach → β) (hg : ∀ m a, g (Mach.queueAcc m 0 a) = g m) (l : List (Nat × List Byte)) :
    g (s.ckptPieces c host l) = g s := overList_keeps g (fun m _ => m.ckptWrite_keeps c host g hg _ _) s _

theorem Mach.ckptReads_keeps {β : Type} (g : Mach → β) (hg : ∀ m a, g (Mach.queueAcc m 0 a) = g m) (l : List (Nat × Nat)) :
    g (s.ckptReads c l) = g s := overList_keeps g (fun m _ => overList_keeps g (fun u _ => hg u _) m _) s _

end

/-! ## The first sections -/

/-- The pieces of an image that its first five sections make (R403). -/
def firstPieces (target : Nat) (secs : List (List Byte)) : List (Nat × List Byte) :=
  (((((secPlaces 4096 secs).zip (secs.map (fun l => padTo l (roundUp l.length 4096)))).filter (fun p => !p.2.isEmpty)).map
    (fun p => (target + p.1, p.2))).filter (fun p => decide (p.1 < target + ((secPlaces 4096 secs)[5]?).getD 0)))

/-- The first section is among them. -/
theorem mem_firstPieces (target : Nat) {a b c d e f : List Byte} {ls : List (List Byte)} (ha : a ≠ []) :
    (target + 4096, padTo a (roundUp a.length 4096)) ∈ firstPieces target (a :: b :: c :: d :: e :: f :: ls) := by
  have hlen : 0 < a.length := List.length_pos_iff.mpr ha
  have hround : 0 < roundUp a.length 4096 := by unfold roundUp ceilDiv; omega
  have hpad : padTo a (roundUp a.length 4096) ≠ [] := by simp [padTo, ha]
  have hfirst : secPlaces 4096 (a :: b :: c :: d :: e :: f :: ls) =
      4096 :: secPlaces (4096 + roundUp a.length 4096) (b :: c :: d :: e :: f :: ls) := rfl
  have hfifth : ((secPlaces 4096 (a :: b :: c :: d :: e :: f :: ls))[5]?).getD 0 = 4096 + roundUp a.length 4096 +
      roundUp b.length 4096 + roundUp c.length 4096 + roundUp d.length 4096 + roundUp e.length 4096 := rfl
  refine List.mem_filter.mpr ⟨List.mem_map.mpr ⟨(4096, padTo a (roundUp a.length 4096)),
    List.mem_filter.mpr ⟨?_, ?_⟩, rfl⟩, ?_⟩
  · rw [hfirst]
    exact List.mem_cons_self
  · simp [hpad]
  · rw [hfifth]
    simp only [decide_eq_true_eq]
    omega

/-! ## The capture begins -/

/-- From `s` to `m` the capture `k` of a context is under way, and has neither ended a descriptor nor moved its context. -/
structure Mach.Captures (s m : Mach) (c : Nat) (k : Capture) (holds : Bool) : Prop where
  hs : m.hs = s.hs
  out : m.out = s.out
  state : (m.ctx c).state = (s.ctx c).state
  capture : ∃ q, (m.ctx c).capture = some q ∧ q.desc = k.desc ∧ q.ph = .early ∧ q.holds = holds

section
variable {s m : Mach} {c : Nat} {k : Capture} {holds : Bool}

theorem Mach.captures_of_noted (hk : (s.ctx c).capture = some k) {f : Capture → Capture} {g : Ctx → Ctx}
    (hf : (f k).desc = k.desc ∧ (f k).ph = .early ∧ (f k).holds = holds)
    (hg : ∀ x, (g x).state = x.state ∧ (g x).capture = x.capture) : s.Captures ((s.modCkpt c f).modCtx c g) c k holds where
  hs := rfl
  out := rfl
  state := by rw [Mach.modCtx_ctx, (hg _).1, Mach.modCkpt, Mach.modCtx_ctx]
  capture := ⟨f k, by rw [Mach.modCtx_ctx, (hg _).2, Mach.modCkpt, Mach.modCtx_ctx, hk, Option.map_some], hf⟩

/-- What changes stations alone leaves a capture under way. -/
theorem Mach.Captures.keeps (h : s.Captures m c k holds) {u : Mach} (hhs : u.hs = m.hs) (hout : u.out = m.out)
    (hctxs : u.ctxs = m.ctxs) : s.Captures u c k holds := by
  have hctx : u.ctx c = m.ctx c := Mach.ctx_of_ctxs hctxs c
  exact ⟨hhs.trans h.hs, hout.trans h.out, by rw [hctx, h.state], by rw [hctx]; exact h.capture⟩

/-- A capture with room at a target at hand puts its first pieces out, or reads what they hold. -/
theorem Mach.beginCkpt_of_room {mem : Mems} {state : Nat} (hk : (s.ctx c).capture = some k)
    (hhost : (k.host && s.hs.att == .detached) = false)
    (hroom : ckptTotal (s.ckptSections mem c state k.snapshot k.rpl) ≤ k.size) : ∃ m, s.Captures m c k holds ∧
      (s.beginCkpt mem c state holds = m.ckptPieces c k.host (firstPieces k.target (s.ckptSections mem c state k.snapshot k.rpl)) ∨
        ∃ a n, n ≠ 0 ∧ s.beginCkpt mem c state holds = m.ckptReads c [(a, n)]) := by
  unfold Mach.beginCkpt
  simp only [hk]
  rw [if_neg (by simp [hhost]), if_neg (Nat.not_lt.mpr hroom)]
  split
  · refine ⟨_, ?_, .inl rfl⟩
    exact Mach.captures_of_noted hk ⟨rfl, rfl, rfl⟩ fun _ => ⟨rfl, rfl⟩
  · next hrings =>
    refine ⟨_, ?_, .inr ⟨_, _, hrings, rfl⟩⟩
    exact Mach.captures_of_noted hk ⟨rfl, rfl, rfl⟩ fun _ => ⟨rfl, rfl⟩

/-- A capture that begins is under way, and waits for accesses of S0. -/
theorem Mach.beginCkpt_captures {mem : Mems} {state : Nat} (hk : (s.ctx c).capture = some k)
    (hhost : (k.host && s.hs.att == .detached) = false)
    (hroom : ckptTotal (s.ckptSections mem c state k.snapshot k.rpl) ≤ k.size) :
    s.Captures (s.beginCkpt mem c state holds) c k holds ∧ (s.beginCkpt mem c state holds).ckptBusy c = true := by
  obtain ⟨m, hm, hpieces | ⟨a, n, hn, hreads⟩⟩ := Mach.beginCkpt_of_room (holds := holds) hk hhost hroom
  · rw [hpieces]
    have hcontext : s.contextSec c state ≠ [] := fun hnil => by
      have := s.contextSec_length c state
      rw [hnil] at this
      cases this
    exact ⟨hm.keeps (m.ckptPieces_keeps c _ Mach.hs (fun _ _ => Mach.queueAcc_hs ..) _)
      (m.ckptPieces_keeps c _ Mach.out (fun _ _ => Mach.queueAcc_out ..) _)
      (m.ckptPieces_keeps c _ Mach.ctxs (fun _ _ => Mach.queueAcc_ctxs ..) _),
      Mach.ckptBusy_of_waits (m.ckptPieces_waits c _ (mem_firstPieces _ hcontext) (by simp [padTo, hcontext]))⟩
  · rw [hreads]
    exact ⟨hm.keeps (m.ckptReads_keeps c Mach.hs (fun _ _ => Mach.queueAcc_hs ..) _)
      (m.ckptReads_keeps c Mach.out (fun _ _ => Mach.queueAcc_out ..) _)
      (m.ckptReads_keeps c Mach.ctxs (fun _ _ => Mach.queueAcc_ctxs ..) _), Mach.ckptBusy_of_waits (m.ckptReads_waits c a hn)⟩

end

end Sys2Proof.Machine
end

section
/-!
PROOFS. CKPT_CAPTURE (R400–R405), and the context descriptors together.
-/
namespace Sys2Proof.Machine

section
variable {s : State} {r : Nat} {d : Desc} (h : DescReady s r d) (hop : dOp d.line = 0x0F) {e : Instr}
  (he : (e, kWhen d.line) ∈ [(Instr.ckptCaptureBoundary r, 0), (.ckptCaptureSnapshot r, 1)])
include h hop he

theorem DescReady.exec_ckptCapture : exec e s =
    .next (commit s (((s.m.started (d.refIn r)).ckptCapture s.mem (d.refIn r) d.line).settle r 16)) := by
  obtain ⟨hwf, hcmd⟩ : e.wf = okRing r ∧ exec e s = act e s (fun _ m => m.startCkpt s.mem r (kWhen d.line)) := by
    simp only [List.mem_cons, Prod.mk.injEq, List.not_mem_nil, or_false] at he
    rcases he with ⟨rfl, hwhen⟩ | ⟨rfl, hwhen⟩ <;> rw [hwhen]
    · exact ⟨rfl, act_congr (f := fun mem m => m.startCkpt mem r 0) rfl⟩
    · exact ⟨rfl, act_congr (f := fun mem m => m.startCkpt mem r 1) rfl⟩
  exact hcmd.trans (h.act_form hwf hop (p := fun l => kWhen l == kWhen d.line) (beq_self_eq_true _)
    (fun m d l => m.ckptCapture s.mem d l))

theorem DescReady.capture_refused {st : Status}
    (hst : s.m.ckptRefusal s.mem (r / 4) (captureOf (d.refIn r) d.line) = some st) (hne : st ≠ .violAddr) :
    ∃ t, exec e s = .next t ∧ Ends s t (d.refIn r) st 0 ∧ SyncKept s t := by
  have hnext := h.exec_ckptCapture hop he
  rw [Mach.ckptCapture_of_refused (s := s.m.started (d.refIn r)) (d := d.refIn r) (c := r / 4) rfl
    ((Mach.started_ckptRefusal ..).trans hst) hne] at hnext
  exact h.next_logged hnext

variable (hsound : s.m.ckptRefusal s.mem (r / 4) (captureOf (d.refIn r) d.line) = none)
include hsound

theorem DescReady.capture_waits (hwhen : kWhen d.line = 0) (hones : (captureOf (d.refIn r) d.line).stepAt ≠ 0xFFFFFFFFFFFFFFFF)
    (hstep : (captureOf (d.refIn r) d.line).stepAt ≠ (s.m.ctx (r / 4)).step) :
    ∃ t, exec e s = .next t ∧ Starts s t (d.refIn r) ∧
      t.m.ctx (r / 4) = { s.m.ctx (r / 4) with capture := some (captureOf (d.refIn r) d.line) } ∧ t.m.sts = s.m.sts := by
  have hnext := h.exec_ckptCapture hop he
  rw [Mach.ckptCapture_of_later (s := s.m.started (d.refIn r)) (d := d.refIn r) (c := r / 4) rfl
    ((Mach.started_ckptRefusal ..).trans hsound) hwhen hones hstep] at hnext
  obtain ⟨hnext, hstarts⟩ := h.next_starts hnext (.of_hs (Mach.captureAsked_hs ..))
  refine ⟨_, hnext, hstarts, ?_, ?_⟩
  · rw [commit_ctx, Mach.captureAsked_ctx, Mach.started_ctx]
  · rw [commit_m, Mach.captureAsked_sts, Mach.started_sts]

theorem DescReady.capture_begins (hwhen : kWhen d.line = 1) : ∃ t q, exec e s = .next t ∧ Starts s t (d.refIn r) ∧
    (t.m.ctx (r / 4)).capture = some q ∧ q.desc = d.refIn r ∧ q.ph = .early ∧ q.holds = false ∧ t.m.ckptBusy (r / 4) = true ∧
      (t.m.ctx (r / 4)).state = (s.m.ctx (r / 4)).state := by
  have hsound' := (Mach.started_ckptRefusal s.m (d.refIn r) s.mem (r / 4) _).trans hsound
  have hnext := h.exec_ckptCapture hop he
  rw [Mach.ckptCapture_of_snapshot (s := s.m.started (d.refIn r)) (d := d.refIn r) (c := r / 4) rfl hsound' hwhen,
    Mach.started_ctx] at hnext
  obtain ⟨hhost, hroom⟩ := Mach.takable_of_ckptRefusal hsound'
  rw [← ((s.m.started (d.refIn r)).captureAsked_sameSections (r / 4) (captureOf (d.refIn r) d.line)).ckptTotal s.mem
    (s.m.ctx (r / 4)).state.code 0] at hroom
  obtain ⟨hcaptures, hbusy⟩ := Mach.beginCkpt_captures (holds := false)
    (congrArg Ctx.capture ((s.m.started (d.refIn r)).captureAsked_ctx (r / 4) (captureOf (d.refIn r) d.line))) hhost hroom
  generalize ((s.m.started (d.refIn r)).captureAsked (r / 4) (captureOf (d.refIn r) d.line)).beginCkpt _ _ _ _ = m at *
  obtain ⟨hhs, -, hstate, q, hq, hdesc, hph, hholds⟩ := hcaptures
  obtain ⟨hnext, hstarts⟩ := h.next_starts hnext (.of_hs (hhs.trans (Mach.captureAsked_hs ..)))
  rw [Mach.captureAsked_ctx, Mach.started_ctx] at hstate
  exact ⟨_, q, hnext, hstarts, hq, hdesc, hph, hholds, hbusy, hstate⟩

end

/-- Settles O43, descriptor by descriptor: each is judged, and refused, or its work changes what the clause names. -/
theorem contextDescriptors : Obligations.ContextDescriptors := by
  intro s r d h ref c x l rest
  refine ⟨fun hop hfree => ⟨h.save_busy hop hfree, h.save_unaligned hop hfree, h.save_starts hop hfree⟩,
    fun hop => ⟨h.restore_busy hop, fun hidle hplan ha => ⟨h.restore_bad hop hidle hplan ha, fun hgood hd => ?restore⟩⟩,
    fun e hop he => ⟨fun hplan => ?noPlan, fun hplan hbusy => ?busy, fun hplan hidle hwhen hones hpast => ?past,
      fun hsound => ⟨h.capture_waits hop he hsound, h.capture_begins hop he hsound⟩⟩⟩
  case restore =>
    obtain ⟨t, hnext, hends, hsem, hother, hcell, hcells, hsts, hctxs⟩ := h.restore_done hop hidle hplan ha hgood
    exact ⟨t, hnext, hends, hsem, hother, hcell hd, hcells, hsts, hctxs⟩
  case noPlan => exact h.capture_refused hop he (Mach.ckptRefusal_of_noPlan hplan) (by decide)
  case busy => exact h.capture_refused hop he (Mach.ckptRefusal_of_busy hplan hbusy) (by decide)
  case past =>
    have hboundary : (captureOf ref l).snapshot = false := by simp [captureOf, hwhen]
    exact h.capture_refused hop he (Mach.ckptRefusal_of_past hplan hidle hboundary hones hpast) (by decide)

end Sys2Proof.Machine
end
